-- ==== Sys2Proof/Word.lean ====
section
/-! DEFINITION. The word types of the engine and their plainest arithmetic (R7 to R10). -/

namespace Sys2Proof

/-- One byte. -/
abbrev Byte := BitVec 8
/-- A general register, an instruction word, a 32-bit register (R38, R49). -/
abbrev Word := BitVec 32
/-- A 64-bit field or register. -/
abbrev DWord := BitVec 64
/-- A vector register, a 64-byte line (R38, R113). -/
abbrev Line := BitVec 512
/-- The DATA field of a trellis word (R139). -/
abbrev Quad := BitVec 128

/-- Engine time is kept in units of 1/15015 ns, in which the beat period 16/N ns of every operating
point (R385, R386: the beat clock is N times 62.5 MHz) is a whole number. -/
def unitsPerNs : Nat := 15015

end Sys2Proof
end

