-- ==== Sys2Proof/Fields.lean ====
section
/-! DEFINITION. The operand types of the commands: coordinates, guards, packets, flits, descriptor
references, telemetry frames and the results that cross the engine's boundary with a command. Plain
data only; what they mean is in Machine/. -/

namespace Sys2Proof

/-- A logical core coordinate (r, c), and with it its tile: core, router, service-net port, slab (R5, R37). -/
structure TileAt where
  row : Fin 768
  col : Fin 1024
deriving DecidableEq, Repr

/-- One of the four tasks of a core (R38). -/
structure TaskAt where
  tile : TileAt
  task : Fin 4
deriving DecidableEq, Repr

/-- The guard of an instruction: predicate GP and sense GS (R49). -/
structure Guard where
  gp : BitVec 2
  gs : BitVec 1
deriving DecidableEq, Repr

/-- The V-R fields of a vector instruction (R58). -/
structure VR where
  vd  : BitVec 3
  va  : BitVec 3
  vb  : BitVec 3
  vc  : BitVec 3
  w   : BitVec 1
  rnd : BitVec 2
  f   : BitVec 4
deriving DecidableEq, Repr

/-- The two memories of a tile (R113): local SRAM and cellar slab. -/
inductive MemSpace where
  | sram
  | slab
deriving DecidableEq, Repr

/-- The four hubs in the order of R255. -/
inductive Hub where
  | w
  | n
  | e
  | s
deriving DecidableEq, Repr

/-- What a host-memory read returned over the host link (R422): data, poisoned data, or an error completion. -/
inductive HostRead where
  | data (bytes : List Byte)
  | poison (bytes : List Byte)
  | errorCompletion
deriving DecidableEq, Repr

/-- A fetched descriptor, named by its SQ, its submission sequence number (R310), and how often the SQ had been enabled when it was fetched
(sequence numbers start again at each enabling, and a descriptor may outlive a host-interface reset, R321). -/
structure DescRef where
  sq  : Fin 64
  seq : BitVec 32
  era : Nat
deriving DecidableEq, Repr

/-- A service-net packet as it arrives: the header fields of R258, its payload, and what the CRC
checks of R286 found on it. -/
structure Packet where
  opc      : BitVec 6
  cls      : BitVec 1
  vcr      : BitVec 1
  epoch    : BitVec 1
  first    : Bool
  last     : Bool
  space    : BitVec 2
  dst      : BitVec 24
  src      : BitVec 24
  tag      : BitVec 12
  pslot    : BitVec 3
  psv      : Bool
  plen     : BitVec 8
  countOff : BitVec 24
  addr     : BitVec 16
  payload  : List Byte
  headBad  : Bool
  bodyBad  : Bool
deriving DecidableEq, Repr

/-- Telemetry of one 256 ns sample (R397): 1,024 ns means of the twelve logic rails in mA, of the
input power in mW, and of the input voltage in mV; the rails' voltages in mV by power-stage group (R400, R418). -/
structure Telemetry where
  iMean : List Nat
  pIn   : Nat
  vIn   : Nat
  vRail : List Nat
deriving DecidableEq, Repr

/-- One reading of all temperature sensors in 0.25 °C units (R404): 768 field sensors by index, two per
hub die (index 2h, 2h + 1), two per PHY die (index 2d, 2d + 1 for die d = 2h + x). -/
structure SensorFrame where
  field : List Nat
  hub   : List Nat
  phy   : List Nat
deriving DecidableEq, Repr

/-- A flit of an RBL port as received (R334), with what the FEC decoder made of the codeword that begins within its bits (R331, R332): symbols
corrected, and whether it was uncorrectable; a flit in which no codeword begins brings no such news. -/
structure Flit where
  ftype  : BitVec 2
  vc     : BitVec 2
  seq    : BitVec 10
  ack    : BitVec 10
  cvc    : BitVec 2
  ccnt   : BitVec 6
  thdr   : BitVec 64
  body   : List Byte
  crc    : BitVec 32
  fixed  : Nat
  uncorr : Bool
deriving DecidableEq, Repr

/-- The order in which lanes arrive (R324). -/
inductive LaneOrder where
  | straight
  | reversed
  | other
deriving DecidableEq, Repr

/-- What training found (R324, R325): the lanes, by the peer's lane numbers, that pass in both directions, the lane number that each receive lane L0 to L7 hears (8 or
more: none), those of inverted polarity, and the largest skew between lanes in ns. -/
structure Trained where
  pass     : BitVec 8
  heard    : List Nat
  inverted : BitVec 8
  skew     : Nat
deriving DecidableEq, Repr

/-- The configuration words of one task (R41). -/
structure TaskCfg where
  lbase   : Nat
  lbound  : Nat
  cbase   : Nat
  cbound  : Nat
  ibase   : Nat
  lbFirst : Nat
  lbCount : Nat
  en      : Bool
deriving DecidableEq, Repr

/-- One channel-table entry (R177). -/
structure ChanCfg where
  en      : Bool
  recv    : Bool
  cred    : Bool
  cret    : Bool
  tgt     : Nat
  depth   : Nat
  phase   : Nat
  dslot   : Nat
  dstride : Nat
  cslot   : Nat
  cstride : Nat
deriving DecidableEq, Repr

/-- One SEQPH word (R145). -/
structure SeqPhase where
  base : Nat
  len  : Nat
  next : Nat
  reps : Nat
deriving DecidableEq, Repr

/-- One line of a memory image (R224): a memory, a line number and its 64 bytes. -/
structure LineImage where
  space : MemSpace
  line  : Nat
  bytes : Line
deriving DecidableEq, Repr

/-- A core record of a plot as Jarbor reads it (R224), whose bytes the manual does not lay out, with what the core's code shows: by channel, the task
that uses it, and for a receive channel the cursors of its scheduled pops (R186); and of each segment the declared length n and the worst path through it (R68,
R234). -/
structure CoreRec where
  tasks   : List TaskCfg
  pattern : BitVec 48
  mown    : Fin 4
  chans   : List ChanCfg
  entries : List (Nat × DWord)
  phases  : List SeqPhase
  startPh : Nat
  users   : List (Fin 4)
  pops    : List (List Nat)
  segs    : List (Nat × Nat)
deriving DecidableEq, Repr

/-- Where the bytes of a memory-image list entry come from: the entry itself, or an object from an offset on (R224). -/
inductive MemSrc where
  | bytes (b : List Byte)
  | object (i off : Nat)
deriving DecidableEq, Repr

/-- An entry of a plot's memory-image list (R224): the core by the number of its record, a memory, its first line and number of lines, and the bytes. -/
structure MemEntry where
  core  : Nat
  space : MemSpace
  line  : Nat
  lines : Nat
  src   : MemSrc
deriving DecidableEq, Repr

/-- What Jarbor reads from the parts of an image whose bytes the manual does not lay out: by plot, the core records, the memory-image list and the
restricted variants of its task images (R214, R224); by object, its records by band and entry (R199, R201), and the plots that read it in a backward
pass (R209, R214). -/
structure ImageReads where
  cores    : List (List CoreRec)
  mems     : List (List MemEntry)
  variants : List (List MemEntry)
  records  : List (List (List (List Byte)))
  backward : List (List Nat)
deriving DecidableEq, Repr

/-- What a placement writes for one tile of the footprint (R224, R235): core words, channel table,
router table (entry index and 64-bit entry), sequencer words, initial control tokens (R174), memory
image, plot index and the core's coordinate within its plot; and the least numbers of unclaimed wide-port beats and cellar slots that its schedule leaves
in an aligned window of 64 program beats (R121). -/
structure TileCfg where
  at_      : TileAt
  placed   : Bool
  plot     : Nat
  prow     : Nat
  pcol     : Nat
  tasks    : List TaskCfg
  pattern  : BitVec 48
  mown     : Fin 4
  chans    : List ChanCfg
  entries  : List (Nat × DWord)
  phases   : List SeqPhase
  startPh  : Nat
  startCur : Nat
  routerEn : Bool
  initTok  : List Quad
  mem      : List LineImage
  freeWide : Nat
  freeSlots : Nat
deriving DecidableEq, Repr

/-- One phase record of PHASES (R229). -/
structure PhaseCfg where
  len    : Nat
  next   : Nat
  opPref : Nat
  reps   : Nat
  htol   : Nat
deriving DecidableEq, Repr

/-- The stream-slot binding of one port (R228, R245 table 5, R315): its stream slot and span port, and the beats modulo 64 of the headland
schedule (R160) in which its entry stream is released and its exit stream is read. Both streams are credited (R176, R228): the depths of the hub's
ingress counter and egress queue, and the beats in which the entry stream's credit words come back and the exit stream's are sent. -/
structure PortBind where
  hasIn    : Bool
  hasOut   : Bool
  hubField : Nat
  slot     : Nat
  span     : Nat
  inAt     : List Nat
  outAt    : List Nat
  inDepth  : Nat
  inCrAt   : List Nat
  outDepth : Nat
  outCrAt  : List Nat
deriving DecidableEq, Repr

/-- One term of the beat formula (R245 table 6, R250). -/
structure SteerTerm where
  tile    : TileAt
  counter : Nat
  lag     : Nat
  coeff   : Int
deriving DecidableEq, Repr

/-- One object placed for a program (R227, R309): its format, size, encoding, and the places of its bytes
(tile, memory, byte offset, length) copy by copy in object order, and of its transpose (R209, R211): its values by tile, memory, bit offset there, bit
offset in the object, number of bits; its records by tile, memory, byte offset there, band, entry of the transposed matrix, VOFF (R201). -/
structure ObjPlace where
  fmt     : Nat
  enc     : Nat
  trained : Bool
  elems   : Nat
  len     : Nat
  copies  : List (List (TileAt × MemSpace × Nat × Nat))
  trans   : List (TileAt × MemSpace × Nat × Nat × Nat)
  transRecs : List (TileAt × MemSpace × Nat × Nat × Nat × Nat)
deriving DecidableEq, Repr

/-- Where Jarbor puts a plot (R235, R245 table 2): the rectangle's origin, the phase offset, the helper cores in record order, the relay cores. -/
structure PlotPlace where
  row     : Nat
  col     : Nat
  phi     : Nat
  helpers : List TileAt
  relays  : List TileAt
deriving DecidableEq, Repr

/-- How Jarbor routes a net (R235, R245 table 3): hops and parcel crossings, routed latency, and its relay cores. -/
structure NetPlace where
  h      : Nat
  x      : Nat
  lat    : Nat
  relays : List TileAt
deriving DecidableEq, Repr

/-- A row that Jarbor splits (R216, R217): its object, whether it is a row of the object's transpose, the core of its home band, and the helper core of each piece.
For a row of the object itself, where the records that stand in these cores' images lie: of the home band by entry, memory, byte and VOFF, and of each piece, in the
order of its entries, memory, byte and VOFF (R201). -/
structure RowSplit where
  obj     : Nat
  trans   : Bool
  row     : Nat
  home    : TileAt
  helpers : List TileAt
  homeAt  : List (Nat × MemSpace × Nat × Nat)
  pieceAt : List (List (MemSpace × Nat × Nat))
deriving DecidableEq, Repr

/-- What Jarbor's placement delivers when it succeeds (R235, R244): the footprint's configuration and
the figures of the static report that later rules use. The manual gives no algorithm for the search
itself (R235 states what the result must satisfy), so the result comes with the command, with what Jarbor read from the image. `util`, `bMin`, `bMax` and the
shares by parcel (product beats and wide port, × 2^16) are figures of the report (R244, R245 table 11). -/
structure Placement where
  tiles     : List TileCfg
  phases    : List PhaseCfg
  start     : Nat
  mkTile    : TileAt
  mkTask    : Fin 4
  ports     : List PortBind
  objects   : List ObjPlace
  terms     : List SteerTerm
  steered   : Bool
  boundsOnly : Bool
  bIter     : Nat
  firstIter : Nat
  latency   : Nat
  drain     : Nat
  lmax      : Nat
  plots     : List PlotPlace
  nets      : List NetPlace
  splits    : List RowSplit
  reads     : ImageReads
  util      : Nat
  bMin      : Nat
  bMax      : Nat
  shares    : List (Nat × Nat)
deriving DecidableEq, Repr

/-- How a placement ended: placed, or refused with an R240 reason and the offending index. -/
inductive PlaceResult where
  | placed (p : Placement)
  | refused (reason : Nat) (index : BitVec 32)
deriving DecidableEq, Repr

/-- What a bring-up or re-admission stage found (R471, R483, R464): whether it passed, the parcels that
stay OFF, new culls (row, physical column, kind), defective crossing links, new row repairs (row, physical column, slab row, spare), ratings of
parcels rated in full (parcel, hottest sensor, and for each trim tested, 0 mV first, the ratings by tile index), tiles that passed a retest (row, physical column, kind), and
whether the input stayed within 46 V to 58 V through the reset (R488). -/
structure StageFound where
  ok       : Bool
  off      : List (Fin 12)
  culls    : List (Nat × Nat × Nat)
  xmap     : List Nat
  repairs  : List (Nat × Nat × Nat × Nat)
  ratings  : List (Fin 12 × Nat × List (List Nat))
  passed   : List (Nat × Nat × Nat)
  inputOk  : Bool
deriving DecidableEq, Repr

/-- What a PHY die access is (R504). -/
inductive PhyKind where
  | laneData
  | ownRead
  | dieWrite
  | dieOutside
  | vintner
  | otherWrite
deriving DecidableEq, Repr

/-- Which MSI-X mask a host write clears (R314): the Function Mask, or one vector's mask bit. -/
inductive Unmask where
  | function
  | vector (v : Fin 64)
deriving DecidableEq, Repr

/-- The reserved cellar areas of R132 (R416, SRC 0x1B): lees, log mirror, tables, image copies. -/
inductive Area where
  | lees
  | log
  | tables
  | image (slot : Fin 8)
deriving DecidableEq, Repr

end Sys2Proof
end

