-- ==== Sys2Proof/Syntax.lean ====
section
/-! DEFINITION. The commands: one constructor for every row of spec/opcode_table.json, with the row's operands. -/

namespace Sys2Proof

/-- A command to the engine: an instruction issued by a task of a core, a packet, flit or register
access that arrives, a descriptor that starts, or an event of R33's clocks and of the module's pins. -/
inductive Instr where
  /-- TASK_OWN_BEAT (R42). In a running beat the core selects the task named by its pattern entry, which issues its next instruction or issues nothing. -/
  | taskOwnBeat (t : TileAt)
  /-- ADD (R51). Writes ga plus gb modulo 2^32 to gd. -/
  | add (k : TaskAt) (g : Guard) (gd ga gb : BitVec 4)
  /-- SUB (R51). Writes ga minus gb modulo 2^32 to gd. -/
  | sub (k : TaskAt) (g : Guard) (gd ga gb : BitVec 4)
  /-- AND (R51). Writes the bitwise AND of ga and gb to gd. -/
  | and_ (k : TaskAt) (g : Guard) (gd ga gb : BitVec 4)
  /-- OR (R51). Writes the bitwise OR of ga and gb to gd. -/
  | or_ (k : TaskAt) (g : Guard) (gd ga gb : BitVec 4)
  /-- XOR (R51). Writes the bitwise XOR of ga and gb to gd. -/
  | xor_ (k : TaskAt) (g : Guard) (gd ga gb : BitVec 4)
  /-- SHL (R51). Shifts ga left by gb[4:0] into gd. -/
  | shl (k : TaskAt) (g : Guard) (gd ga gb : BitVec 4)
  /-- SHR (R51). Shifts ga right logically by gb[4:0] into gd. -/
  | shr (k : TaskAt) (g : Guard) (gd ga gb : BitVec 4)
  /-- SRA (R51). Shifts ga right arithmetically by gb[4:0] into gd. -/
  | sra (k : TaskAt) (g : Guard) (gd ga gb : BitVec 4)
  /-- MUL (R51). Writes the low 32 bits of ga times gb to gd, usable at issue + 3. -/
  | mul (k : TaskAt) (g : Guard) (gd ga gb : BitVec 4)
  /-- MULHU (R51). Writes the high 32 bits of the unsigned product of ga and gb to gd. -/
  | mulhu (k : TaskAt) (g : Guard) (gd ga gb : BitVec 4)
  /-- MIN (R51). Writes the signed minimum of ga and gb to gd. -/
  | min_ (k : TaskAt) (g : Guard) (gd ga gb : BitVec 4)
  /-- MAX (R51). Writes the signed maximum of ga and gb to gd. -/
  | max_ (k : TaskAt) (g : Guard) (gd ga gb : BitVec 4)
  /-- MINU (R51). Writes the unsigned minimum of ga and gb to gd. -/
  | minu (k : TaskAt) (g : Guard) (gd ga gb : BitVec 4)
  /-- MAXU (R51). Writes the unsigned maximum of ga and gb to gd. -/
  | maxu (k : TaskAt) (g : Guard) (gd ga gb : BitVec 4)
  /-- CEQ (R51). Sets predicate gd[1:0] to whether ga equals gb. -/
  | ceq (k : TaskAt) (g : Guard) (gd ga gb : BitVec 4)
  /-- CLT (R51). Sets predicate gd[1:0] to whether ga is signed-less than gb. -/
  | clt (k : TaskAt) (g : Guard) (gd ga gb : BitVec 4)
  /-- CLTU (R51). Sets predicate gd[1:0] to whether ga is unsigned-less than gb. -/
  | cltu (k : TaskAt) (g : Guard) (gd ga gb : BitVec 4)
  /-- PAND (R51). Sets predicate gd to the AND of predicates ga and gb. -/
  | pand (k : TaskAt) (g : Guard) (gd ga gb : BitVec 4)
  /-- POR (R51). Sets predicate gd to the OR of predicates ga and gb. -/
  | por (k : TaskAt) (g : Guard) (gd ga gb : BitVec 4)
  /-- PNOT (R51). Sets predicate gd to the inverse of predicate ga. -/
  | pnot (k : TaskAt) (g : Guard) (gd ga gb : BitVec 4)
  /-- ADDI (R51). Writes ga plus sign-extended imm13 to gd. -/
  | addi (k : TaskAt) (g : Guard) (gd ga : BitVec 4) (imm : BitVec 13)
  /-- ANDI (R51). Writes ga AND zero-extended imm13 to gd. -/
  | andi (k : TaskAt) (g : Guard) (gd ga : BitVec 4) (imm : BitVec 13)
  /-- ORI (R51). Writes ga OR zero-extended imm13 to gd. -/
  | ori (k : TaskAt) (g : Guard) (gd ga : BitVec 4) (imm : BitVec 13)
  /-- XORI (R51). Writes ga XOR zero-extended imm13 to gd. -/
  | xori (k : TaskAt) (g : Guard) (gd ga : BitVec 4) (imm : BitVec 13)
  /-- SHLI (R51). Shifts ga left by imm13[4:0] into gd. -/
  | shli (k : TaskAt) (g : Guard) (gd ga : BitVec 4) (imm : BitVec 13)
  /-- SHRI (R51). Shifts ga right logically by imm13[4:0] into gd. -/
  | shri (k : TaskAt) (g : Guard) (gd ga : BitVec 4) (imm : BitVec 13)
  /-- SRAI (R51). Shifts ga right arithmetically by imm13[4:0] into gd. -/
  | srai (k : TaskAt) (g : Guard) (gd ga : BitVec 4) (imm : BitVec 13)
  /-- CEQI (R51). Sets predicate gd to whether ga equals sign-extended imm13. -/
  | ceqi (k : TaskAt) (g : Guard) (gd ga : BitVec 4) (imm : BitVec 13)
  /-- CLTI (R51). Sets predicate gd to whether ga is signed-less than sign-extended imm13. -/
  | clti (k : TaskAt) (g : Guard) (gd ga : BitVec 4) (imm : BitVec 13)
  /-- LIL (R51). Writes zero-extended imm16 to gd. -/
  | lil (k : TaskAt) (g : Guard) (gd : BitVec 4) (imm : BitVec 16)
  /-- LIH (R51). Writes imm16 to gd[31:16], leaving gd[15:0] unchanged. -/
  | lih (k : TaskAt) (g : Guard) (gd : BitVec 4) (imm : BitVec 16)
  /-- BR (R52). Branches to pc + off, faulting with BRANCH_OUTSIDE_SEGMENT if guarded outside a segment. -/
  | br (k : TaskAt) (g : Guard) (off : BitVec 18)
  /-- BAL (R52). Writes pc + 1 to gd and branches to pc + off. -/
  | bal (k : TaskAt) (g : Guard) (gd : BitVec 4) (off : BitVec 18)
  /-- BRR (R52). Branches to ga[12:0], allowed only inside a segment. -/
  | brr (k : TaskAt) (g : Guard) (ga : BitVec 4)
  /-- LOOP (R54). Pushes a loop-stack entry repeating the next len + 1 instructions cnt + 1 times. -/
  | loop (k : TaskAt) (g : Guard) (cnt : BitVec 12) (len : BitVec 8)
  /-- LOOPR (R54). Pushes a loop-stack entry repeating the next len + 1 instructions gc times, skipping the body for 0. -/
  | loopr (k : TaskAt) (g : Guard) (gc : BitVec 4) (len : BitVec 8)
  /-- LDW (R55). Loads a 32-bit word from local SRAM at gb + off into gv. -/
  | ldw (k : TaskAt) (g : Guard) (gv gb : BitVec 4) (off : BitVec 14)
  /-- LDH (R55). Loads a sign-extended 16-bit value from local SRAM. -/
  | ldh (k : TaskAt) (g : Guard) (gv gb : BitVec 4) (off : BitVec 14)
  /-- LDHU (R55). Loads a zero-extended 16-bit value from local SRAM. -/
  | ldhu (k : TaskAt) (g : Guard) (gv gb : BitVec 4) (off : BitVec 14)
  /-- LDB (R55). Loads a sign-extended byte from local SRAM. -/
  | ldb (k : TaskAt) (g : Guard) (gv gb : BitVec 4) (off : BitVec 14)
  /-- LDBU (R55). Loads a zero-extended byte from local SRAM. -/
  | ldbu (k : TaskAt) (g : Guard) (gv gb : BitVec 4) (off : BitVec 14)
  /-- STW (R55). Stores a 32-bit word of gv to local SRAM. -/
  | stw (k : TaskAt) (g : Guard) (gv gb : BitVec 4) (off : BitVec 14)
  /-- STH (R55). Stores 16 bits of gv to local SRAM. -/
  | sth (k : TaskAt) (g : Guard) (gv gb : BitVec 4) (off : BitVec 14)
  /-- STB (R55). Stores one byte of gv to local SRAM. -/
  | stb (k : TaskAt) (g : Guard) (gv gb : BitVec 4) (off : BitVec 14)
  /-- TOP (R119). Fills gl bytes at relative address gd with the 32-bit pattern in gs, line by line at the beats of R117. -/
  | top (k : TaskAt) (g : Guard) (src dst : BitVec 1) (gd gs gl : BitVec 4)
  /-- RACK (R119). Copies gl bytes from gs to gd in ascending line order at the beats of R117. -/
  | rack (k : TaskAt) (g : Guard) (src dst : BitVec 1) (gd gs gl : BitVec 4)
  /-- CMV (R57). Moves one 64 B line between local SRAM and the core's cellar slab in the direction DIR selects. -/
  | cmv (k : TaskAt) (g : Guard) (dir : BitVec 1) (gl gc : BitVec 4) (lo co : BitVec 8)
  /-- VADD (R104). Adds vector lanes with one rounding under RND. -/
  | vadd (k : TaskAt) (g : Guard) (r : VR)
  /-- VSUB (R104). Subtracts vector lanes with one rounding under RND. -/
  | vsub (k : TaskAt) (g : Guard) (r : VR)
  /-- VMUL (R104). Multiplies vector lanes with one rounding under RND. -/
  | vmul (k : TaskAt) (g : Guard) (r : VR)
  /-- VFMA (R104). Computes va × vb + vc per lane with one rounding. -/
  | vfma (k : TaskAt) (g : Guard) (r : VR)
  /-- VMIN (R104). Writes the lanewise minimum, NaN giving the canonical NaN. -/
  | vmin (k : TaskAt) (g : Guard) (r : VR)
  /-- VMAX (R104). Writes the lanewise maximum, NaN giving the canonical NaN. -/
  | vmax (k : TaskAt) (g : Guard) (r : VR)
  /-- VABS (R104). Clears the sign bit of every lane. -/
  | vabs (k : TaskAt) (g : Guard) (r : VR)
  /-- VNEG (R104). Inverts the sign bit of every lane. -/
  | vneg (k : TaskAt) (g : Guard) (r : VR)
  /-- VCMPEQ (R58). Sets each lane of vd to all ones where va equals vb, else zeros. -/
  | vcmpeq (k : TaskAt) (g : Guard) (r : VR)
  /-- VCMPLT (R58). Sets each lane of vd to all ones where va is less than vb. -/
  | vcmplt (k : TaskAt) (g : Guard) (r : VR)
  /-- VCMPLE (R58). Sets each lane of vd to all ones where va is at most vb. -/
  | vcmple (k : TaskAt) (g : Guard) (r : VR)
  /-- VSEL (R58). Selects per lane from va or vb by the most significant bit of the vc lane. -/
  | vsel (k : TaskAt) (g : Guard) (r : VR)
  /-- VCVT (R102). Converts lanes of va to packed format F in vd under R103. -/
  | vcvt (k : TaskAt) (g : Guard) (r : VR)
  /-- VCVTI (R102). Unpacks elements of format F in va into lane shape W in vd. -/
  | vcvti (k : TaskAt) (g : Guard) (r : VR)
  /-- VFUNC (R105). Applies function F lanewise within the accuracy bounds of R105. -/
  | vfunc (k : TaskAt) (g : Guard) (r : VR)
  /-- VRSUM (R104). Sums the lanes of va by a fixed tree into lane 0 of vd. -/
  | vrsum (k : TaskAt) (g : Guard) (r : VR)
  /-- VLD (R58). Loads 64 B from local SRAM at g + 64 × off into v. -/
  | vld (k : TaskAt) (g : Guard) (v : BitVec 3) (gr : BitVec 4) (off : BitVec 12)
  /-- VST (R58). Stores v as 64 B to local SRAM at g + 64 × off. -/
  | vst (k : TaskAt) (g : Guard) (v : BitVec 3) (gr : BitVec 4) (off : BitVec 12)
  /-- VBCAST (R58). Writes g, or g[15:0], into every lane of v. -/
  | vbcast (k : TaskAt) (g : Guard) (v : BitVec 3) (gr : BitVec 4) (w : BitVec 1)
  /-- VEXT (R58). Writes lane `lane` of v into g. -/
  | vext (k : TaskAt) (g : Guard) (v : BitVec 3) (gr : BitVec 4) (lane : BitVec 5) (w : BitVec 1)
  /-- VINS (R58). Writes g into lane `lane` of v, leaving other lanes unchanged. -/
  | vins (k : TaskAt) (g : Guard) (v : BitVec 3) (gr : BitVec 4) (lane : BitVec 5) (w : BitVec 1)
  /-- SEND (R179). Sends 16 B from a quarter of v on a channel, spending a credit on a credited channel and setting pn. -/
  | send (k : TaskAt) (g : Guard) (ch : BitVec 3) (pn : BitVec 2) (v : BitVec 3) (q : BitVec 2)
  /-- RECV (R180). Captures the C-port input of a channel into a quarter of v, popping a credited queue and setting pn. -/
  | recv (k : TaskAt) (g : Guard) (ch : BitVec 3) (pn : BitVec 2) (v : BitVec 3) (q : BitVec 2)
  /-- SENDM (R179). Sends 16 B read from local SRAM on a channel. -/
  | sendm (k : TaskAt) (g : Guard) (ch : BitVec 3) (pn : BitVec 2) (gr : BitVec 4) (off : BitVec 13)
  /-- RECVM (R180). Captures the C-port input of a channel into local SRAM. -/
  | recvm (k : TaskAt) (g : Guard) (ch : BitVec 3) (pn : BitVec 2) (gr : BitVec 4) (off : BitVec 13)
  /-- NOP (R63). Occupies one own beat with no effect. -/
  | nop (k : TaskAt) (g : Guard)
  /-- SEG (R68). Opens a padded segment of n own beats. -/
  | seg (k : TaskAt) (g : Guard) (n : BitVec 16)
  /-- SEGE (R68). Ends the segment and pads the task to its declared length. -/
  | sege (k : TaskAt) (g : Guard)
  /-- LDCODE (R65). Fills one of the task's loop-buffer lines with 16 instructions from local SRAM and retags it. -/
  | ldcode (k : TaskAt) (g : Guard) (line : BitVec 4) (cl : BitVec 9)
  /-- ITER (R248). Marks the end of a program iteration, updating ITERATIONS and BEATS_RUN when issued by the marker task. -/
  | iter (k : TaskAt) (g : Guard)
  /-- HALT (R63). Stops the task until the program restarts. -/
  | halt (k : TaskAt) (g : Guard)
  /-- RDCNT (R63). Reads a selected beat, own-beat, WIN_INEXACT or coordinate counter into gd. -/
  | rdcnt (k : TaskAt) (g : Guard) (gd sel : BitVec 4)
  /-- MLDS (R542). Loads a staging-buffer entry from local SRAM in the selected mode and format, replacing it at its usable beat. -/
  | mlds (k : TaskAt) (g : Guard) (e mode : BitVec 3) (ga gb fmt off : BitVec 4)
  /-- MMA (R73). Performs rep + 1 product beats adding slice products of two staging entries into the window accumulators. -/
  | mma (k : TaskAt) (g : Guard) (ea eb sa sb rep : BitVec 3) (blk : BitVec 4)
  /-- MRD (R94). Samples and rounds all 64 accumulator lanes into vector registers, clearing them when CLR is 1. -/
  | mrd (k : TaskAt) (g : Guard) (vd : BitVec 3) (bf : BitVec 1) (rnd : BitVec 2) (clr : BitVec 1)
  /-- MCLR (R93). Clears A, state and WIN_INEXACT in all 64 lanes. -/
  | mclr (k : TaskAt) (g : Guard)
  /-- MWIN (R93). Sets the window exponent of all lanes to g[7:0]. -/
  | mwin (k : TaskAt) (g : Guard) (gr : BitVec 4)
  /-- SEQUENCER_BEAT (R146). In each running beat a router applies its current schedule-table entry and advances its phase sequencer. -/
  | sequencerBeat (t : TileAt)
  /-- HOLD_COMMAND_ARRIVAL (R165). A hold command copy reaches a parcel and is applied, or on double parity failure the parcel stops at S and its programs are fenced. -/
  | holdCommandArrival (p : Fin 12) (at_ h : Nat) (good0 good1 : Bool)
  /-- CURRENT_SAMPLE (R397). Every 256 ns the power controller reads telemetry and recomputes the hold count. -/
  | currentSample (tel : Telemetry)
  /-- FAST_OVERCURRENT (R398). A rail above 1.25 × I_lim for 100 ns triggers an h = 56 command within 40 ns. -/
  | fastOvercurrent (p : Fin 12)
  /-- FAST_HOLD_RELEASE (R398). After the rail's mean stays below I_lim for 1 µs, h_fast returns to 0. -/
  | fastHoldRelease (p : Fin 12)
  /-- OP_EVALUATE (R389). The power controller evaluates the effective operating point and starts a change when due. -/
  | opEvaluate
  /-- OP_CHANGE_STOP (R390). All ON parcels stop at one announced CBN for a change of operating point. -/
  | opChangeStop
  /-- OP_CHANGE_LAND (R390). PLLs relock at the new multiplier, crossings take new depths and all parcels resume at one CBN. -/
  | opChangeLand
  /-- OP_CHANGE_END (R390). The rail ramp-down after a change to a slower point ends, ending the change. -/
  | opChangeEnd
  /-- ALERT_ASSERT (R401). A power-stage alert sets FORCE, commands h = 56, starts a change to OP7 and logs a record. -/
  | alertAssert (g : Fin 48) (cur volt : Nat)
  /-- ALERT_CLEAR (R401). An asserted regulator alert deasserts, starting the 1 ms count to lift the forced state. -/
  | alertClear (g : Fin 48)
  /-- FORCED_STATE_LIFT (R401). 1 ms after the last alert clears, the forced state lifts and a lifting record is logged. -/
  | forcedStateLift (cur volt : Nat)
  /-- RAIL_SHORT (R402). A tripped rail below half voltage for 10 µs is isolated and its parcel, hub or PHY die taken out of service. -/
  | railShort (g : Fin 48)
  /-- PLL_LOCK_LOSS (R387). A parcel PLL losing lock stops its parcel and fences programs touching it. -/
  | pllLockLoss (p : Fin 12)
  /-- BEAT_REFERENCE_LOSS (R387). Loss of the beat reference stops every ON parcel and fences every resident program. -/
  | beatReferenceLoss
  /-- SENSOR_SAMPLE (R404). Every 100 µs all temperature sensors are read and the warning and thermal hold floor updated. -/
  | sensorSample (f : SensorFrame)
  /-- DIE_FORCE_LIFT (R406). The die-sensor forced state lifts after the sensor stays below 105 °C for 1 ms. -/
  | dieForceLift (die : Fin 12)
  /-- TCAP_SLOWER (R406). Each 1 ms with T at or above 100 °C moves TCAP one point slower. -/
  | tcapSlower
  /-- TCAP_FASTER (R406). Each 10 ms with T below 93 °C moves TCAP one point faster. -/
  | tcapFaster
  /-- EVACUATION_TRIGGER (R407). A parcel sensor at or above 105 °C for 10 ms starts evacuation of the parcel. -/
  | evacuationTrigger (p : Fin 12)
  /-- TABLE_DRAINED (R280). Per-epoch counts show the old epoch drained, allowing the old bank to be rewritten. -/
  | tableDrained
  /-- TABLE_DRAIN_TIMEOUT (R281). The old epoch is not drained 2 ms after the flip; lost packets are logged and the old bank made UNREACHABLE. `lost`
is the sender's own count of them; the engine logs the difference of its counts. -/
  | tableDrainTimeout (lost : Nat)
  /-- EVACUATION_COMPLETE (R407). After re-placement and slab moves the parcel's clock is gated, logic rail switched off and state set OFF. -/
  | evacuationComplete (p : Fin 12)
  /-- AGEING_SCAN (R395). Every 16 ms the delay monitors are scanned and trims or ratings adjusted for low margin. -/
  | ageingScan (low : List TileAt)
  /-- FLOW_STOP (R403). FLOW_OK low for 50 µs with FLOW_EN set stops all parcels into retention and holds every program fenced. -/
  | flowStop
  /-- FLOW_RESUME (R403). FLOW_OK high for 1 s restores rails, tables and clocks and resumes parcels at the stored CBN. -/
  | flowResume
  /-- NARROW_ACCESS (R120). A service-side access to a tile's SRAM or slab is performed in a free beat or slot. -/
  | narrowAccess (t : TileAt) (m : MemSpace)
  /-- ECC_WRITEBACK (R125). A corrected word is written back in a later free beat or slot unless rewritten since. -/
  | eccWriteback (t : TileAt) (m : MemSpace)
  /-- SCRUB (R127). The scrubber reads and checks the next word or line in a granted free beat or slot. -/
  | scrub (t : TileAt) (m : MemSpace)
  /-- ROW_REPAIR (R129). A deferred slab row repair is performed once the tile belongs to no footprint. -/
  | rowRepair (t : TileAt) (srow : Fin 512)
  /-- TILE_RETIREMENT (R129). A tile marked for retirement is retired and added to the cull list once it leaves every footprint. -/
  | tileRetirement (t : TileAt)
  /-- RESERVED_COPY_REBUILD (R134). A new copy of a reserved area is written from the surviving copy after one becomes unreadable. -/
  | reservedCopyRebuild (a : Area) (slabs : List TileAt)
  /-- WIN_REQ (R536). A write of the requested staging-window size starts granting or releasing granules. -/
  | winReq (v : Word)
  /-- GRANULE_GRANT (R136). One staging granule is granted and zero-filled, raising GRANTED by one. -/
  | granuleGrant (slabs : List TileAt)
  /-- GRANULE_RELEASE (R136). The highest staging granule is released and its contents discarded. -/
  | granuleRelease
  /-- CXL_MEM_READ (R137). A CXL.mem read of a staging-window line is served from its slab, or poisoned above the window. -/
  | cxlMemRead (off : Nat)
  /-- CXL_MEM_WRITE (R137). A CXL.mem write of a staging-window line is written to its slab and reported complete after WRITE_ACK. -/
  | cxlMemWrite (off : Nat) (d : Line)
  /-- READ (R271). A service-net READ request at a target is checked and answered with READ_DATA. -/
  | read_ (p : Packet)
  /-- WRITE (R271). A service-net WRITE packet at a target is checked and written, the message answered with WRITE_ACK. -/
  | write_ (p : Packet)
  /-- MSG (R267). A service-net MSG packet is placed by offset and the message completes by count with MSG_ACK. -/
  | msg (p : Packet)
  /-- READ_DATA (R272). A READ_DATA response packet reaches its requester and completes the read by count. -/
  | readData (p : Packet)
  /-- WRITE_ACK (R273). A WRITE_ACK reaches its requester and ends the write message with its status. -/
  | writeAck (p : Packet)
  /-- MSG_ACK (R259). A MSG_ACK reaches its requester and ends the MSG message. -/
  | msgAck (p : Packet)
  /-- MESSAGE_TIMEOUT (R269). A requester ends a message unanswered 1 ms after its last packet with PROGRESS_TIMEOUT. -/
  | messageTimeout (u : BitVec 24) (tag : BitVec 12)
  /-- REASSEMBLY_TIMEOUT (R269). A target frees an incomplete incoming message's state 2 ms after its last arrival. -/
  | reassemblyTimeout (dst src : BitVec 24) (tag : BitVec 12)
  /-- THROTTLE_WINDOW (R275). At the end of each sample window a hub raises or lowers its request injection level. -/
  | throttleWindow (h : Hub) (sums : List Nat)
  /-- SQ_DOORBELL (R299). A write of a new tail to an SQ doorbell page publishes entries or is refused with DB_ERR. -/
  | sqDoorbell (p : Fin 64) (v : Word)
  /-- CQ_DOORBELL (R299). A write of a new head to a CQ doorbell page frees entries or is refused with DB_ERR. -/
  | cqDoorbell (q : Fin 64) (v : Word)
  /-- DESCRIPTOR_FETCH (R300). HUB-W's ring engine fetches a published descriptor once a CQ entry can be reserved, by weighted round robin. -/
  | descriptorFetch (p : Fin 64) (rd : HostRead)
  /-- COMPLETION_WRITE (R292). The ring engine makes a completion record visible after its descriptor's host writes and earlier completions. -/
  | completionWrite (p : Fin 64)
  /-- SQ_ENABLE (R297). Setting an SQ's EN resets its pointers and sequence number and acknowledges held RESET_ABORTED records. -/
  | sqEnable (p : Fin 64) (v : Word)
  /-- SQ_DISABLE (R298). Clearing an SQ's EN stops fetching while fetched descriptors complete. -/
  | sqDisable (p : Fin 64) (v : Word)
  /-- CQ_ENABLE (R321). Setting a CQ's EN resets its pointers and phase and writes held records for SQs bound to it. -/
  | cqEnable (q : Fin 64) (v : Word)
  /-- CQ_DISABLE (R296). Clearing a CQ's EN disables it unless an enabled SQ is bound to it. -/
  | cqDisable (q : Fin 64) (v : Word)
  /-- ATTN (R313). A write to HOSTIF.ATTN clears the written attention bits. -/
  | attn (v : Word)
  /-- HELD_DISCARD (R532). A write of 1 drops every completion record held across a host-interface reset. -/
  | heldDiscard (v : Word)
  /-- SNET_THROTTLE (R276). A write sets the service-net throttle threshold, window, floor and enable from the next window. -/
  | snetThrottle (v : Word)
  /-- CEIL (R389). A write of the host's operating-point ceiling triggers an evaluation of the effective point. -/
  | ceil (c : BitVec 3)
  /-- FLOW_EN (R403). A write enables or disables FLOW_OK, ending or continuing a flow stop. -/
  | flowEn (en : Bool)
  /-- TMUX_CTL (R537). A write selects the sampled domain and divider and starts or stops test-multiplexer output. -/
  | tmuxCtl (v : Word)
  /-- SEL (R537). A write selects the internal signal driven on TMn. -/
  | sel (n : Fin 16) (v : Word)
  /-- PORT_ENABLE (R326). Setting PORTn_CTL.EN takes a DISABLED port into ID_READ. -/
  | portEnable (n : Fin 24) (v : Word)
  /-- PORT_DISABLE (R326). Clearing PORTn_CTL.EN takes the port to DISABLED. -/
  | portDisable (n : Fin 24) (v : Word)
  /-- ENGINE_ID (R351). A write sets the engine ID, ignored while any port is not DISABLED. -/
  | engineId (v : Word)
  /-- ROUTE (R341). A write of a destination's route mask takes effect for each channel at its next message boundary. -/
  | route (d : Fin 128) (v : DWord)
  /-- REGISTER_WRITE (R531). A BAR0 write to a register without behaviour of its own stores the value, with Vintner-carried effects deferred while MGMT is not OPEN. -/
  | registerWrite (off size : Nat) (v : DWord)
  /-- PERST_ASSERT (R320). PERST# assertion resets the HOSTIF domain and ends or holds outstanding descriptors. -/
  | perstAssert
  /-- PERST_DEASSERT (R320). PERST# deassertion lets HOSTIF reopen within 100 ms. -/
  | perstDeassert
  /-- LINK_LOSS (R320). Loss of the host link resets the HOSTIF domain. -/
  | linkLoss
  /-- FUNCTION_LEVEL_RESET (R320). A Function Level Reset resets the HOSTIF domain. -/
  | functionLevelReset
  /-- HOT_RESET (R320). A hot reset resets the HOSTIF domain. -/
  | hotReset
  /-- HOSTIF_RESET (R442). 10 µs after a DOMAIN_CTL RESET of HOSTIF completes, the HOSTIF reset starts. -/
  | hostifReset
  /-- NOP_DESCRIPTOR (R304). The NOP descriptor completes OK with detail 0. -/
  | nopDescriptor (d : DescRef)
  /-- FENCE_ACK (R454). Acknowledges the SQ's fence, clearing FENCE_WAIT after earlier descriptors complete. -/
  | fenceAck (d : DescRef)
  /-- PROG_LOAD (R306). Reads and checks an image, places and starts it and writes its report. -/
  | progLoad (d : DescRef)
  /-- PROG_RECONFIG (R306). Replaces a resident program's image through an epoch barrier. -/
  | progReconfig (d : DescRef)
  /-- PROG_REMOVE (R306). Stops a program through barrier steps 1–4, releases the slot and zero-fills it. -/
  | progRemove (d : DescRef)
  /-- PROG_REPORT (R306). Writes the program's current static report to a host buffer. -/
  | progReport (d : DescRef)
  /-- PROG_COUNTERS (R307). Writes the program's counter block to a host buffer. -/
  | progCounters (d : DescRef)
  /-- MEM_READ (R309). Reads a range of one program core's memory into host memory over the service net. -/
  | memRead (d : DescRef)
  /-- MEM_WRITE (R309). Writes host data into a range of one program core's memory over the service net. -/
  | memWrite (d : DescRef)
  /-- OBJ_READ (R309). Reads a range of an object into host memory. -/
  | objRead (d : DescRef)
  /-- OBJ_WRITE (R309). Writes host data into every copy of an object range and its transpose. -/
  | objWrite (d : DescRef)
  /-- STREAM_XFER (R318). Feeds an input unit into a port's entry stream and writes the next exit-stream bytes to the host. -/
  | streamXfer (d : DescRef)
  /-- EDGE_SEND (R345). Sends one message to a peer on an RBL channel, completing on the TACK of its last packet. -/
  | edgeSend (d : DescRef)
  /-- EDGE_RECV (R345). Posts a receive for the next message on a channel, granting the sender and completing after its last byte. -/
  | edgeRecv (d : DescRef)
  /-- COLLECTIVE (R356). Runs a collective operation with the group over RBL channels under the chosen schedule. -/
  | collective (d : DescRef)
  /-- PRESS_TABLE (R373). Writes press records for consecutive layers of a program slot. -/
  | pressTable (d : DescRef)
  /-- PEER_DOWN (R382). Declares a peer down, breaking its channels and ending collectives that include it. -/
  | peerDown (d : DescRef)
  /-- PEER_UP (R383). Reopens a peer's channels with a new incarnation. -/
  | peerUp (d : DescRef)
  /-- LOG_FETCH (R456). Writes error records from a given RSEQ into a host buffer. -/
  | logFetch (d : DescRef)
  /-- LEES_FETCH (R460). Writes the held lees record to a host buffer and optionally releases it. -/
  | leesFetch (d : DescRef)
  /-- QUERY (R441). DOMAIN_CTL QUERY returns the domain's state word at once. -/
  | query (d : DescRef)
  /-- RESET (R440). DOMAIN_CTL RESET closes and reopens a domain, or fences and removes a program. -/
  | reset (d : DescRef)
  /-- DISABLE (R440). DOMAIN_CTL DISABLE closes a domain to OFF. -/
  | disable (d : DescRef)
  /-- ENABLE (R437). DOMAIN_CTL ENABLE opens a hub or edge domain, as a pending reopen if it is closing. -/
  | enable (d : DescRef)
  /-- EVACUATE (R407). DOMAIN_CTL EVACUATE evacuates a parcel at the host's request. -/
  | evacuate (d : DescRef)
  /-- WATCH_SET (R443). Arms, re-arms or disarms a program or SQ progress watch. -/
  | watchSet (d : DescRef)
  /-- READMIT (R463). Tests a parcel, hub or PHY die and brings it back into service. -/
  | readmit (d : DescRef)
  /-- POLICY_SET (R426). Sets the suspect-unit policy and recurrence window. -/
  | policySet (d : DescRef)
  /-- FW_LOAD (R482). Reads and verifies a firmware image, starting it in stage 5 or staging it later. -/
  | fwLoad (d : DescRef)
  /-- PARAM_SUPPLY (R480). Checks a parameter block and applies the sections whose stages have not begun. -/
  | paramSupply (d : DescRef)
  /-- TOPOLOGY_SET (R485). Stores the expected edge topology and checks discovered neighbours against it. -/
  | topologySet (d : DescRef)
  /-- CERT_CHAIN (R498). Verifies and stores the vendor certificate chain for the identity key. -/
  | certChain (d : DescRef)
  /-- RECORDS_FETCH (R487). Writes the engine's current records block to a host buffer. -/
  | recordsFetch (d : DescRef)
  /-- ATTEST (R501). Returns a signed attestation report bound to the request's nonce over DOE. -/
  | attest (req : List Byte)
  /-- GET_CHAIN (R500). Returns the stored certificate chain over DOE. -/
  | getChain (req : List Byte)
  /-- UNLOCK_CHALLENGE (R503). Makes a new 32-byte debug-unlock challenge current and returns it. -/
  | unlockChallenge (req : List Byte)
  /-- UNLOCK (R503). Checks a signed unlock token and unlocks the named debug scopes until cold reset. -/
  | unlock (req : List Byte)
  /-- FENCE_HALT (R449). After flush and drain bound the domain halts, residues are discarded, a lees record captured and the domain is CLOSED. -/
  | fenceHalt (dom : BitVec 16)
  /-- DOMAIN_RESET (R447). A CLOSED domain's reset work ends and it goes OFF, or reopens when called for. -/
  | domainReset (dom : BitVec 16) (ok : Bool)
  /-- MGMT_REOPEN (R450). The Vintner restarts from re-verified firmware, buffered records are logged and forced state released. -/
  | mgmtReopen
  /-- MGMT_REOPEN_TIMEOUT (R450). MGMT not OPEN within 2 s of its close leads to FATAL. -/
  | mgmtReopenTimeout
  /-- PROGRAM_WATCH_EXPIRY (R445). ITERATIONS unchanged for the window fences the program with cause 2. -/
  | programWatchExpiry (ps : Fin 8)
  /-- SQ_WATCH_EXPIRY (R445). An SQ head stalled for the window times out its oldest descriptor and fences the smallest domain it names. -/
  | sqWatchExpiry (p : Fin 64)
  /-- HEARTBEAT_WATCH (R446). A hub unit, Vintner or power controller heartbeat missing for 1 ms resets its domain. -/
  | heartbeatWatch (u : BitVec 24)
  /-- BARRIER_STOP (R190). At stop beat S the program's ingress queues stop releasing tokens and the flush begins. -/
  | barrierStop (ps : Fin 8)
  /-- BARRIER_HALT (R190). At T the domain halts, residual words are counted and discarded and the epoch flips. -/
  | barrierHalt (ps : Fin 8)
  /-- BARRIER_RESTART (R191). After the rewrite the domain restarts at a multiple of 64 with reset state and the new epoch. -/
  | barrierRestart (ps : Fin 8)
  /-- BARRIER_COMPLETE (R190). After the old configuration's largest L the reconfiguration completion is written. -/
  | barrierComplete (ps : Fin 8)
  /-- PLACEMENT_DONE (R235). Jarbor's placement ends, committing configuration words or refusing with PLACEMENT_FAILED. -/
  | placementDone (r : PlaceResult)
  /-- SEARCH_LIMIT (R238). A placement reaching its time bound without result ends with SEARCH_LIMIT. -/
  | searchLimit
  /-- IDENTITY_READ (R329). A port's cable identity read completes and either powers the cable and trains or enters FAILED. -/
  | identityRead (n : Fin 24) (page : Option (List Byte))
  /-- TRAINING_DONE (R326). Training locks FEC codewords at a chosen width and the port enters HELLO. -/
  | trainingDone (n : Fin 24) (tr : Trained)
  /-- TRAINING_TIMEOUT (R326). A port that has not left ID_READ, TRAINING or HELLO within its bound enters FAILED. -/
  | trainingTimeout (n : Fin 24)
  /-- HELLO_SEND (R343). Every 10 µs in state HELLO the port sends a HELLO flit. -/
  | helloSend (n : Fin 24)
  /-- HELLO (R344). A received HELLO is checked and, after three further HELLOs sent, the port enters UP or FAILED. -/
  | hello (n : Fin 24) (f : Flit)
  /-- RETRAIN_DONE (R326). A retraining port returns to UP with the same peer, resuming from its oldest unacknowledged flit. -/
  | retrainDone (n : Fin 24) (tr : Trained)
  /-- FAILED_RETRY (R326). 1 s after entering FAILED with EN set, the port re-enters ID_READ. -/
  | failedRetry (n : Fin 24)
  /-- DATA (R335). A received DATA flit is checked by CRC and sequence, passed on and its ACK and credits applied. -/
  | data (n : Fin 24) (f : Flit)
  /-- IDLE (R334). A received IDLE flit applies its ACK and returned credits. -/
  | idle (n : Fin 24) (f : Flit)
  /-- NAK (R335). A received NAK makes the sender replay every unacknowledged DATA flit in order. -/
  | nak (n : Fin 24) (f : Flit)
  /-- REPLAY_TIMEOUT (R335). 4 µs without ACK progress makes the sender replay, retraining after 16 replays of one SEQ. -/
  | replayTimeout (n : Fin 24)
  /-- EDGE_MSG_PACKET (R339). A transport MSG packet with the expected PSN is delivered to its EDGE_RECV sink, others discarded. -/
  | edgeMsgPacket (n : Fin 24)
  /-- TACK (R339). A received TACK acknowledges packets up to ACKPSN and updates the sender's grant. -/
  | tack (n : Fin 24)
  /-- HEARTBEAT (R340). A received HEARTBEAT packet shows the peer alive. -/
  | heartbeat (n : Fin 24)
  /-- TACK_TIMER (R339). A packet unacknowledged for 1 µs makes the receiver send a TACK. -/
  | tackTimer (peer : Fin 128) (chan : BitVec 8)
  /-- HEARTBEAT_SEND (R340). At least once per quarter of EDGE.TIMEOUT the engine sends a HEARTBEAT to every routed engine. -/
  | heartbeatSend (peer : Fin 128)
  /-- TRANSPORT_TIMEOUT (R340). A packet unacknowledged beyond EDGE.TIMEOUT declares its peer down. -/
  | transportTimeout (peer : Fin 128)
  /-- HEARTBEAT_LOST (R340). No packet from a peer within EDGE.TIMEOUT declares that peer down. -/
  | heartbeatLost (peer : Fin 128)
  /-- TSYNC_PROBE (R348). Once per 1 ms on a TSYNC port the engine sends a TPROBE. -/
  | tsyncProbe (n : Fin 24)
  /-- TPROBE (R348). A received TPROBE is answered with a TREPLY when TSYNC is set. -/
  | tprobe (n : Fin 24) (f : Flit)
  /-- TREPLY (R348). A received TREPLY yields the offset and delay stored in PORTn_TOFF and PORTn_TDLY. -/
  | treply (n : Fin 24) (f : Flit)
  /-- PROBE_TIMEOUT (R348). A probe unanswered within 100 µs leaves the time registers unchanged. -/
  | probeTimeout (n : Fin 24)
  /-- CABLE_REMOVAL (R518). CBL_PRSNTn going high switches off CBL_PWR within 1 ms. -/
  | cableRemoval (n : Fin 24)
  /-- CBL_OVERCURRENT (R518). Cable current above its limit for 1 ms switches off CBL_PWR and takes the port to FAILED. -/
  | cblOvercurrent (n : Fin 24)
  /-- REDUCE_SEGMENT (R368). A received reduce segment's seal is checked and the segment added to the own contribution and forwarded or pressed. -/
  | reduceSegment (peer : Fin 128) (chan : BitVec 8)
  /-- GATHER_SEGMENT (R361). A received gather or broadcast segment is seal-checked, written to the destination and forwarded. -/
  | gatherSegment (peer : Fin 128) (chan : BitVec 8)
  /-- SEAL_NOTICE (R370). A seal notice for a sent segment logs SUSPECT on the hub adders and applies the suspect-unit policy. -/
  | sealNotice (peer : Fin 128) (chan : BitVec 8)
  /-- ABORT (R371). A received abort ends the collective with the carried status and passes the abort onward. -/
  | abort_ (peer : Fin 128) (chan : BitVec 8)
  /-- NORM_EXCHANGE (R378). A received norm exchange contributes a member's Wsq, Dsq and non-finite flag to the totals. -/
  | normExchange (peer : Fin 128) (chan : BitVec 8)
  /-- ENGINE_RESET_ASSERT (R434). ENGINE_RESETn going low causes a cold reset of the engine. -/
  | engineResetAssert
  /-- INPUT_LOSS (R512). Input outside 45–59 V for 50 µs switches off all rails but standby as a cold reset. -/
  | inputLoss (mV : Nat)
  /-- START (R469). Release of cold reset, with ENGINE_RESETn high and input within 46–58 V, begins a start. -/
  | start_ (mV : Nat)
  /-- STAGE_END (R471). A bring-up stage finishes and the next begins, reaching READY after stage 7 agreement. -/
  | stageEnd (f : StageFound)
  /-- PB_WAIT_TIMEOUT (R479). A sideband block still receiving 30 s after stage 1 ends is abandoned. -/
  | pbWaitTimeout
  /-- TOPOLOGY_WAIT_TIMEOUT (R485). After 2 s waiting for expected ports to come UP the topology check classifies every port. -/
  | topologyWaitTimeout
  /-- READMIT_STAGE_END (R464). A re-admission stage finishes and the next begins, or the unit stays OFF on failure. -/
  | readmitStageEnd (f : StageFound)
  /-- PB_DATA (R479). Stores sideband bytes at an offset of the parameter-block buffer. -/
  | pbData (off : Word) (bytes : List Byte)
  /-- PB_COMMIT (R479). Checks the sideband block and marks it committed or refused. -/
  | pbCommit
  /-- PB_ABORT (R479). Discards the sideband block buffer. -/
  | pbAbort
  /-- STATUS (R479). Returns the sideband block state, refusal reason and boot status. -/
  | status
  /-- FATAL_READ (R522). Returns the held FATAL record or zeros over the sideband. -/
  | fatalRead
  /-- MODULE_ID (R523). Returns part, serial and revisions over the sideband. -/
  | moduleId
  /-- TELEMETRY (R524). Returns input voltage, power, hottest sensor and status flags over the sideband. -/
  | telemetry
  /-- PHY_ACCESS (R504). A PHY die access passes the hub firewall or is dropped and logged. -/
  | phyAccess (die : Fin 8) (a : PhyKind)
  /-- IDCODE (R525). The TAP IDCODE instruction shifts out the device identification code. -/
  | idcode
  /-- BYPASS (R502). The TAP BYPASS instruction selects the one-bit bypass register. -/
  | bypass
  /-- HOLD_BEAT (R163). In a hold beat the CBN advances while routers, cores, links and ports freeze, and the beat is counted in HOLDS and the HTOL window counts. -/
  | holdBeat
  /-- HOST_READ_COMPLETION (R422). A completion for an engine-issued host-memory read arrives on the host link with data, poison or an error status, and the waiting operation continues. -/
  | hostReadCompletion (tag : Nat) (rd : HostRead)
  /-- COMPLETION_TIMEOUT (R422). A host-link transaction that receives no completion within the link's completion timeout ends its descriptor with ACCESS_FAULT and logs SRC 0x20. -/
  | completionTimeout (tag : Nat)
  /-- MSIX_UNMASK (R314). Clearing the Function Mask or a vector's mask bit sends any pending MSI-X signal. -/
  | msixUnmask (u : Unmask)
  /-- LINK_TRAINED (R320). The host link finishes training in CXL or PCIe mode at its width and speed, sets LINK_CHANGE, and lets HOSTIF reopen. -/
  | linkTrained (cxl : Bool) (width speed : BitVec 2)
  /-- HDM_COMMIT (R293). The host commits the HDM decoder, setting LINK_STAT.HDM and opening the staging window to CXL.mem. -/
  | hdmCommit
  /-- RETRAIN_TIMEOUT (R326). A port still in RETRAIN 10 ms after entering it enters FAILED, dropping its unacknowledged flits. -/
  | retrainTimeout (n : Fin 24)
  /-- RAIL_RAMP_END (R390). In a change to a faster point, the logic rails reach the new voltage, and the stop is announced with a 64-beat lead. -/
  | railRampEnd
  /-- BUFFER_MOVE_END (R316). The hub finishes re-dividing headland buffers among bound slots and resumes taking input. -/
  | bufferMoveEnd (h : Hub)
  /-- STANDBY_POWER_ON (R511). VIN − RTN rises to 40 V or more, the standby converter starts, and the always-on logic and sideband target become active. -/
  | standbyPowerOn
  /-- STANDBY_POWER_OFF (R514). VIN − RTN falls below 40 V, the standby converter stops, and the module becomes unpowered, losing any held FATAL record and block buffer. -/
  | standbyPowerOff
  /-- TAP_RESET (R521). TRSTn driven low puts the JTAG TAP in Test-Logic-Reset. -/
  | tapReset
  /-- BOUNDARY_SCAN (R525). After a JTAG-scope unlock, a boundary-scan or internal scan instruction on the TAP drives or samples the J1 to J7 pins or internal chains. -/
  | boundaryScan (drive : Bool) (bits : List Bool)
deriving DecidableEq, Repr

end Sys2Proof
end

