-- ==== Sys2Proof/Decode.lean ====
section
/-! DEFINITION. Reading a command from a word of the table (no row gives bits), and the core's own instruction
encoding (R49 to R73): the word of a core instruction and the instruction of a fetched word. -/

namespace Sys2Proof

/-- The command spelt by a word of the opcode table: no row of the table gives bits, so none. -/
def decodeTableWord (_nbits _w : Nat) : Option Instr := none

/-- The common fields of an instruction word (R49): CLASS, GP, GS and 25 class-specific bits. -/
def coreWord (cls : BitVec 4) (g : Guard) (body : BitVec 25) : Word := cls ++ g.gp ++ g.gs ++ body

/-- Register-register body (R51): OP, gd, ga, gb, RSV. -/
def bodyRR (op : BitVec 5) (gd ga gb : BitVec 4) : BitVec 25 := op ++ gd ++ ga ++ gb ++ 0#8
/-- Immediate body (R51): OP, gd, ga, imm13. -/
def bodyI (op gd ga : BitVec 4) (imm : BitVec 13) : BitVec 25 := op ++ gd ++ ga ++ imm
/-- LIL and LIH body (R51): OP, gd, RSV, imm16. -/
def bodyL (op gd : BitVec 4) (imm : BitVec 16) : BitVec 25 := op ++ gd ++ 0#1 ++ imm
/-- Narrow load/store body (R55): OP, gv, gb, off. -/
def bodyM (op : BitVec 3) (gv gb : BitVec 4) (off : BitVec 14) : BitVec 25 := op ++ gv ++ gb ++ off
/-- V-R body (R58): OP, vd, va, vb, vc, W, RND, F. -/
def bodyVR (op : BitVec 6) (r : VR) : BitVec 25 := op ++ r.vd ++ r.va ++ r.vb ++ r.vc ++ r.w ++ r.rnd ++ r.f
/-- V-G body of VLD and VST (R58): OP, v, g, off. -/
def bodyVM (op : BitVec 6) (v : BitVec 3) (gr : BitVec 4) (off : BitVec 12) : BitVec 25 := op ++ v ++ gr ++ off
/-- V-G body of VBCAST, VEXT and VINS (R58): OP, v, g, lane, W, RSV. -/
def bodyVL (op : BitVec 6) (v : BitVec 3) (gr : BitVec 4) (lane : BitVec 5) (w : BitVec 1) : BitVec 25 :=
  op ++ v ++ gr ++ lane ++ w ++ 0#6
/-- Stream body, register form (R60): OP, ch, pn, v, q, RSV. -/
def bodyS (op ch : BitVec 3) (pn : BitVec 2) (v : BitVec 3) (q : BitVec 2) : BitVec 25 := op ++ ch ++ pn ++ v ++ q ++ 0#12
/-- Stream body, memory form (R60): OP, ch, pn, g, off. -/
def bodySM (op ch : BitVec 3) (pn : BitVec 2) (gr : BitVec 4) (off : BitVec 13) : BitVec 25 := op ++ ch ++ pn ++ gr ++ off
/-- Memory-operation body (R56): OP, S, D, gd, gs, gl, RSV. -/
def bodyT (op : BitVec 2) (src dst : BitVec 1) (gd gs gl : BitVec 4) : BitVec 25 := op ++ src ++ dst ++ gd ++ gs ++ gl ++ 0#9

/-- The instruction word of a core instruction (R49 to R73); none for the other commands. -/
def encodeCore : Instr → Option Word
  | .add _ g gd ga gb => some (coreWord 0x0 g (bodyRR 0x0 gd ga gb))
  | .sub _ g gd ga gb => some (coreWord 0x0 g (bodyRR 0x1 gd ga gb))
  | .and_ _ g gd ga gb => some (coreWord 0x0 g (bodyRR 0x2 gd ga gb))
  | .or_ _ g gd ga gb => some (coreWord 0x0 g (bodyRR 0x3 gd ga gb))
  | .xor_ _ g gd ga gb => some (coreWord 0x0 g (bodyRR 0x4 gd ga gb))
  | .shl _ g gd ga gb => some (coreWord 0x0 g (bodyRR 0x5 gd ga gb))
  | .shr _ g gd ga gb => some (coreWord 0x0 g (bodyRR 0x6 gd ga gb))
  | .sra _ g gd ga gb => some (coreWord 0x0 g (bodyRR 0x7 gd ga gb))
  | .mul _ g gd ga gb => some (coreWord 0x0 g (bodyRR 0x8 gd ga gb))
  | .mulhu _ g gd ga gb => some (coreWord 0x0 g (bodyRR 0x9 gd ga gb))
  | .min_ _ g gd ga gb => some (coreWord 0x0 g (bodyRR 0xa gd ga gb))
  | .max_ _ g gd ga gb => some (coreWord 0x0 g (bodyRR 0xb gd ga gb))
  | .minu _ g gd ga gb => some (coreWord 0x0 g (bodyRR 0xc gd ga gb))
  | .maxu _ g gd ga gb => some (coreWord 0x0 g (bodyRR 0xd gd ga gb))
  | .ceq _ g gd ga gb => some (coreWord 0x0 g (bodyRR 0x10 gd ga gb))
  | .clt _ g gd ga gb => some (coreWord 0x0 g (bodyRR 0x11 gd ga gb))
  | .cltu _ g gd ga gb => some (coreWord 0x0 g (bodyRR 0x12 gd ga gb))
  | .pand _ g gd ga gb => some (coreWord 0x0 g (bodyRR 0x14 gd ga gb))
  | .por _ g gd ga gb => some (coreWord 0x0 g (bodyRR 0x15 gd ga gb))
  | .pnot _ g gd ga gb => some (coreWord 0x0 g (bodyRR 0x16 gd ga gb))
  | .addi _ g gd ga imm => some (coreWord 0x1 g (bodyI 0x0 gd ga imm))
  | .andi _ g gd ga imm => some (coreWord 0x1 g (bodyI 0x1 gd ga imm))
  | .ori _ g gd ga imm => some (coreWord 0x1 g (bodyI 0x2 gd ga imm))
  | .xori _ g gd ga imm => some (coreWord 0x1 g (bodyI 0x3 gd ga imm))
  | .shli _ g gd ga imm => some (coreWord 0x1 g (bodyI 0x4 gd ga imm))
  | .shri _ g gd ga imm => some (coreWord 0x1 g (bodyI 0x5 gd ga imm))
  | .srai _ g gd ga imm => some (coreWord 0x1 g (bodyI 0x6 gd ga imm))
  | .ceqi _ g gd ga imm => some (coreWord 0x1 g (bodyI 0x7 gd ga imm))
  | .clti _ g gd ga imm => some (coreWord 0x1 g (bodyI 0x8 gd ga imm))
  | .lil _ g gd imm => some (coreWord 0x1 g (bodyL 0x9 gd imm))
  | .lih _ g gd imm => some (coreWord 0x1 g (bodyL 0xa gd imm))
  | .br _ g off => some (coreWord 0x2 g (0#3 ++ 0#4 ++ off))
  | .bal _ g gd off => some (coreWord 0x2 g (1#3 ++ gd ++ off))
  | .brr _ g ga => some (coreWord 0x2 g (2#3 ++ 0#4 ++ ga ++ 0#14))
  | .loop _ g cnt len => some (coreWord 0x2 g (3#3 ++ cnt ++ len ++ 0#2))
  | .loopr _ g gc len => some (coreWord 0x2 g (4#3 ++ gc ++ 0#8 ++ len ++ 0#2))
  | .ldw _ g gv gb off => some (coreWord 0x3 g (bodyM 0 gv gb off))
  | .ldh _ g gv gb off => some (coreWord 0x3 g (bodyM 1 gv gb off))
  | .ldhu _ g gv gb off => some (coreWord 0x3 g (bodyM 2 gv gb off))
  | .ldb _ g gv gb off => some (coreWord 0x3 g (bodyM 3 gv gb off))
  | .ldbu _ g gv gb off => some (coreWord 0x3 g (bodyM 4 gv gb off))
  | .stw _ g gv gb off => some (coreWord 0x3 g (bodyM 5 gv gb off))
  | .sth _ g gv gb off => some (coreWord 0x3 g (bodyM 6 gv gb off))
  | .stb _ g gv gb off => some (coreWord 0x3 g (bodyM 7 gv gb off))
  | .vadd _ g r => some (coreWord 0x4 g (bodyVR 0x0 r))
  | .vsub _ g r => some (coreWord 0x4 g (bodyVR 0x1 r))
  | .vmul _ g r => some (coreWord 0x4 g (bodyVR 0x2 r))
  | .vfma _ g r => some (coreWord 0x4 g (bodyVR 0x3 r))
  | .vmin _ g r => some (coreWord 0x4 g (bodyVR 0x4 r))
  | .vmax _ g r => some (coreWord 0x4 g (bodyVR 0x5 r))
  | .vabs _ g r => some (coreWord 0x4 g (bodyVR 0x6 r))
  | .vneg _ g r => some (coreWord 0x4 g (bodyVR 0x7 r))
  | .vcmpeq _ g r => some (coreWord 0x4 g (bodyVR 0x8 r))
  | .vcmplt _ g r => some (coreWord 0x4 g (bodyVR 0x9 r))
  | .vcmple _ g r => some (coreWord 0x4 g (bodyVR 0xa r))
  | .vsel _ g r => some (coreWord 0x4 g (bodyVR 0xb r))
  | .vcvt _ g r => some (coreWord 0x4 g (bodyVR 0xc r))
  | .vcvti _ g r => some (coreWord 0x4 g (bodyVR 0xd r))
  | .vfunc _ g r => some (coreWord 0x4 g (bodyVR 0xe r))
  | .vrsum _ g r => some (coreWord 0x4 g (bodyVR 0xf r))
  | .vld _ g v gr off => some (coreWord 0x4 g (bodyVM 0x10 v gr off))
  | .vst _ g v gr off => some (coreWord 0x4 g (bodyVM 0x11 v gr off))
  | .vbcast _ g v gr w => some (coreWord 0x4 g (bodyVL 0x12 v gr 0 w))
  | .vext _ g v gr lane w => some (coreWord 0x4 g (bodyVL 0x13 v gr lane w))
  | .vins _ g v gr lane w => some (coreWord 0x4 g (bodyVL 0x14 v gr lane w))
  | .mlds _ g e mode ga gb fmt off => some (coreWord 0x5 g (0#3 ++ e ++ mode ++ ga ++ gb ++ fmt ++ off))
  | .mma _ g ea eb sa sb rep blk => some (coreWord 0x5 g (1#3 ++ ea ++ eb ++ sa ++ sb ++ rep ++ blk ++ 0#3))
  | .mrd _ g vd bf rnd clr => some (coreWord 0x5 g (2#3 ++ vd ++ bf ++ rnd ++ clr ++ 0#15))
  | .mclr _ g => some (coreWord 0x5 g (3#3 ++ 0#22))
  | .mwin _ g gr => some (coreWord 0x5 g (4#3 ++ gr ++ 0#18))
  | .send _ g ch pn v q => some (coreWord 0x6 g (bodyS 0 ch pn v q))
  | .recv _ g ch pn v q => some (coreWord 0x6 g (bodyS 1 ch pn v q))
  | .sendm _ g ch pn gr off => some (coreWord 0x6 g (bodySM 2 ch pn gr off))
  | .recvm _ g ch pn gr off => some (coreWord 0x6 g (bodySM 3 ch pn gr off))
  | .top _ g src dst gd gs gl => some (coreWord 0x7 g (bodyT 0 src dst gd gs gl))
  | .rack _ g src dst gd gs gl => some (coreWord 0x7 g (bodyT 1 src dst gd gs gl))
  | .cmv _ g dir gl gc lo co => some (coreWord 0x8 g (dir ++ gl ++ gc ++ lo ++ co))
  | .nop _ g => some (coreWord 0x9 g (0#4 ++ 0#21))
  | .seg _ g n => some (coreWord 0x9 g (1#4 ++ 0#5 ++ n))
  | .sege _ g => some (coreWord 0x9 g (2#4 ++ 0#21))
  | .ldcode _ g line cl => some (coreWord 0x9 g (3#4 ++ line ++ 0#8 ++ cl))
  | .iter _ g => some (coreWord 0x9 g (4#4 ++ 0#21))
  | .halt _ g => some (coreWord 0x9 g (5#4 ++ 0#21))
  | .rdcnt _ g gd sel => some (coreWord 0x9 g (6#4 ++ gd ++ 0#13 ++ sel))
  | _ => none

/-- Class 0x0, scalar register-register (R51); bits [7:0] are RSV. -/
def decodeRR (k : TaskAt) (g : Guard) (w : Word) : Option Instr :=
  let gd := w.extractLsb' 16 4
  let ga := w.extractLsb' 12 4
  let gb := w.extractLsb' 8 4
  if w.extractLsb' 0 8 ≠ 0 then none
  else match (w.extractLsb' 20 5).toNat with
    | 0x00 => some (.add k g gd ga gb)
    | 0x01 => some (.sub k g gd ga gb)
    | 0x02 => some (.and_ k g gd ga gb)
    | 0x03 => some (.or_ k g gd ga gb)
    | 0x04 => some (.xor_ k g gd ga gb)
    | 0x05 => some (.shl k g gd ga gb)
    | 0x06 => some (.shr k g gd ga gb)
    | 0x07 => some (.sra k g gd ga gb)
    | 0x08 => some (.mul k g gd ga gb)
    | 0x09 => some (.mulhu k g gd ga gb)
    | 0x0a => some (.min_ k g gd ga gb)
    | 0x0b => some (.max_ k g gd ga gb)
    | 0x0c => some (.minu k g gd ga gb)
    | 0x0d => some (.maxu k g gd ga gb)
    | 0x10 => some (.ceq k g gd ga gb)
    | 0x11 => some (.clt k g gd ga gb)
    | 0x12 => some (.cltu k g gd ga gb)
    | 0x14 => some (.pand k g gd ga gb)
    | 0x15 => some (.por k g gd ga gb)
    | 0x16 => some (.pnot k g gd ga gb)
    | _ => none

/-- Class 0x1, scalar immediate (R51); bit [16] of LIL and LIH is RSV. -/
def decodeI (k : TaskAt) (g : Guard) (w : Word) : Option Instr :=
  let gd := w.extractLsb' 17 4
  let ga := w.extractLsb' 13 4
  let imm := w.extractLsb' 0 13
  let imm16 := w.extractLsb' 0 16
  match (w.extractLsb' 21 4).toNat with
  | 0x0 => some (.addi k g gd ga imm)
  | 0x1 => some (.andi k g gd ga imm)
  | 0x2 => some (.ori k g gd ga imm)
  | 0x3 => some (.xori k g gd ga imm)
  | 0x4 => some (.shli k g gd ga imm)
  | 0x5 => some (.shri k g gd ga imm)
  | 0x6 => some (.srai k g gd ga imm)
  | 0x7 => some (.ceqi k g gd ga imm)
  | 0x8 => some (.clti k g gd ga imm)
  | 0x9 => if w.extractLsb' 16 1 ≠ 0 then none else some (.lil k g gd imm16)
  | 0xa => if w.extractLsb' 16 1 ≠ 0 then none else some (.lih k g gd imm16)
  | _ => none

/-- Class 0x2, branch (R52, RSV bits of R50). -/
def decodeB (k : TaskAt) (g : Guard) (w : Word) : Option Instr :=
  match (w.extractLsb' 22 3).toNat with
  | 0 => if w.extractLsb' 18 4 ≠ 0 then none else some (.br k g (w.extractLsb' 0 18))
  | 1 => some (.bal k g (w.extractLsb' 18 4) (w.extractLsb' 0 18))
  | 2 => if w.extractLsb' 18 4 ≠ 0 ∨ w.extractLsb' 0 14 ≠ 0 then none else some (.brr k g (w.extractLsb' 14 4))
  | 3 => if w.extractLsb' 0 2 ≠ 0 then none else some (.loop k g (w.extractLsb' 10 12) (w.extractLsb' 2 8))
  | 4 => if w.extractLsb' 10 8 ≠ 0 ∨ w.extractLsb' 0 2 ≠ 0 then none
         else some (.loopr k g (w.extractLsb' 18 4) (w.extractLsb' 2 8))
  | _ => none

/-- Class 0x3, narrow load/store (R55). -/
def decodeM (k : TaskAt) (g : Guard) (w : Word) : Option Instr :=
  let gv := w.extractLsb' 18 4
  let gb := w.extractLsb' 14 4
  let off := w.extractLsb' 0 14
  match (w.extractLsb' 22 3).toNat with
  | 0 => some (.ldw k g gv gb off)
  | 1 => some (.ldh k g gv gb off)
  | 2 => some (.ldhu k g gv gb off)
  | 3 => some (.ldb k g gv gb off)
  | 4 => some (.ldbu k g gv gb off)
  | 5 => some (.stw k g gv gb off)
  | 6 => some (.sth k g gv gb off)
  | 7 => some (.stb k g gv gb off)
  | _ => none

/-- The V-R fields of a word (R58). -/
def vrOf (w : Word) : VR :=
  { vd := w.extractLsb' 16 3, va := w.extractLsb' 13 3, vb := w.extractLsb' 10 3, vc := w.extractLsb' 7 3,
    w := w.extractLsb' 6 1, rnd := w.extractLsb' 4 2, f := w.extractLsb' 0 4 }

/-- Class 0x4, vector (R58, RSV bits of R50). -/
def decodeV (k : TaskAt) (g : Guard) (w : Word) : Option Instr :=
  let r := vrOf w
  let v := w.extractLsb' 16 3
  let gr := w.extractLsb' 12 4
  let off := w.extractLsb' 0 12
  let lane := w.extractLsb' 7 5
  let sh := w.extractLsb' 6 1
  match (w.extractLsb' 19 6).toNat with
  | 0x00 => some (.vadd k g r)
  | 0x01 => some (.vsub k g r)
  | 0x02 => some (.vmul k g r)
  | 0x03 => some (.vfma k g r)
  | 0x04 => some (.vmin k g r)
  | 0x05 => some (.vmax k g r)
  | 0x06 => some (.vabs k g r)
  | 0x07 => some (.vneg k g r)
  | 0x08 => some (.vcmpeq k g r)
  | 0x09 => some (.vcmplt k g r)
  | 0x0a => some (.vcmple k g r)
  | 0x0b => some (.vsel k g r)
  | 0x0c => some (.vcvt k g r)
  | 0x0d => some (.vcvti k g r)
  | 0x0e => some (.vfunc k g r)
  | 0x0f => some (.vrsum k g r)
  | 0x10 => some (.vld k g v gr off)
  | 0x11 => some (.vst k g v gr off)
  | 0x12 => if w.extractLsb' 0 6 ≠ 0 ∨ lane ≠ 0 then none else some (.vbcast k g v gr sh)
  | 0x13 => if w.extractLsb' 0 6 ≠ 0 then none else some (.vext k g v gr lane sh)
  | 0x14 => if w.extractLsb' 0 6 ≠ 0 then none else some (.vins k g v gr lane sh)
  | _ => none

/-- Class 0x5, matrix (R70, RSV bits of R50). -/
def decodeX (k : TaskAt) (g : Guard) (w : Word) : Option Instr :=
  match (w.extractLsb' 22 3).toNat with
  | 0 => some (.mlds k g (w.extractLsb' 19 3) (w.extractLsb' 16 3) (w.extractLsb' 12 4) (w.extractLsb' 8 4)
           (w.extractLsb' 4 4) (w.extractLsb' 0 4))
  | 1 => if w.extractLsb' 0 3 ≠ 0 then none
         else some (.mma k g (w.extractLsb' 19 3) (w.extractLsb' 16 3) (w.extractLsb' 13 3) (w.extractLsb' 10 3)
           (w.extractLsb' 7 3) (w.extractLsb' 3 4))
  | 2 => if w.extractLsb' 0 15 ≠ 0 then none
         else some (.mrd k g (w.extractLsb' 19 3) (w.extractLsb' 18 1) (w.extractLsb' 16 2) (w.extractLsb' 15 1))
  | 3 => if w.extractLsb' 0 22 ≠ 0 then none else some (.mclr k g)
  | 4 => if w.extractLsb' 0 18 ≠ 0 then none else some (.mwin k g (w.extractLsb' 18 4))
  | _ => none

/-- Class 0x6, stream (R60). -/
def decodeS (k : TaskAt) (g : Guard) (w : Word) : Option Instr :=
  let ch := w.extractLsb' 19 3
  let pn := w.extractLsb' 17 2
  match (w.extractLsb' 22 3).toNat with
  | 0 => if w.extractLsb' 0 12 ≠ 0 then none else some (.send k g ch pn (w.extractLsb' 14 3) (w.extractLsb' 12 2))
  | 1 => if w.extractLsb' 0 12 ≠ 0 then none else some (.recv k g ch pn (w.extractLsb' 14 3) (w.extractLsb' 12 2))
  | 2 => some (.sendm k g ch pn (w.extractLsb' 13 4) (w.extractLsb' 0 13))
  | 3 => some (.recvm k g ch pn (w.extractLsb' 13 4) (w.extractLsb' 0 13))
  | _ => none

/-- Class 0x7, memory operation (R56). -/
def decodeT (k : TaskAt) (g : Guard) (w : Word) : Option Instr :=
  if w.extractLsb' 0 9 ≠ 0 then none
  else match (w.extractLsb' 23 2).toNat with
    | 0 => some (.top k g (w.extractLsb' 22 1) (w.extractLsb' 21 1) (w.extractLsb' 17 4) (w.extractLsb' 13 4) (w.extractLsb' 9 4))
    | 1 => some (.rack k g (w.extractLsb' 22 1) (w.extractLsb' 21 1) (w.extractLsb' 17 4) (w.extractLsb' 13 4) (w.extractLsb' 9 4))
    | _ => none

/-- Class 0x9, steer/sync (R63, RSV bits of R50). -/
def decodeY (k : TaskAt) (g : Guard) (w : Word) : Option Instr :=
  let rsv := w.extractLsb' 0 21
  match (w.extractLsb' 21 4).toNat with
  | 0 => if rsv ≠ 0 then none else some (.nop k g)
  | 1 => if w.extractLsb' 16 5 ≠ 0 then none else some (.seg k g (w.extractLsb' 0 16))
  | 2 => if rsv ≠ 0 then none else some (.sege k g)
  | 3 => if w.extractLsb' 9 8 ≠ 0 then none else some (.ldcode k g (w.extractLsb' 17 4) (w.extractLsb' 0 9))
  | 4 => if rsv ≠ 0 then none else some (.iter k g)
  | 5 => if rsv ≠ 0 then none else some (.halt k g)
  | 6 => if w.extractLsb' 4 13 ≠ 0 then none else some (.rdcnt k g (w.extractLsb' 17 4) (w.extractLsb' 0 4))
  | _ => none

/-- The instruction of a fetched word, for the task that fetched it; none where the class, the operation or an RSV bit is reserved
(R50: ILLEGAL_INSTRUCTION). -/
def decodeCore (k : TaskAt) (w : Word) : Option Instr :=
  let g : Guard := { gp := w.extractLsb' 26 2, gs := w.extractLsb' 25 1 }
  match (w.extractLsb' 28 4).toNat with
  | 0x0 => decodeRR k g w
  | 0x1 => decodeI k g w
  | 0x2 => decodeB k g w
  | 0x3 => decodeM k g w
  | 0x4 => decodeV k g w
  | 0x5 => decodeX k g w
  | 0x6 => decodeS k g w
  | 0x7 => decodeT k g w
  | 0x8 => some (.cmv k g (w.extractLsb' 24 1) (w.extractLsb' 20 4) (w.extractLsb' 16 4) (w.extractLsb' 8 8) (w.extractLsb' 0 8))
  | 0x9 => decodeY k g w
  | _ => none

end Sys2Proof
end

