-- ==== Sys2Proof/Config.lean ====
section
/-! DEFINITION. What the manual leaves to the module, the firmware or a cited standard, and the free values.
Every constant here is opaque: nothing can be proved about its value. -/

namespace Sys2Proof.Config

/-- A free 32-bit value, by the counter `State.free`. -/
opaque freeWord : Nat → BitVec 32
/-- A free 256-bit value of the hardware random bit generator (R497), by the counter `State.free`. -/
opaque freeChallenge : Nat → BitVec 256
/-- VFUNC's result bits for function F on an FP32 input, used where they lie within the bounds of R105; the same bits for the same input. -/
opaque vfunc : Nat → BitVec 32 → BitVec 32
/-- Buchavor's Vendor ID (R289); the manual states no value. -/
opaque vendorId : BitVec 16
/-- Jarbor's version in a firmware image (R539), by firmware version. -/
opaque jarborVer : BitVec 32 → BitVec 32
/-- The highest image VER_MINOR a firmware accepts (R539), by firmware version. -/
opaque cuveMinor : BitVec 32 → BitVec 16
/-- How many plot records stand at the start of a PLOTS section; no field of the image states it (R223). -/
opaque plotCount : List (BitVec 8) → Nat
/-- How many directory records stand at the start of an OBJECTS section; no field of the image states it (R227). -/
opaque objectCount : List (BitVec 8) → Nat
/-- The rail currents that Buchavor's tables predict for a placement, by parcel, operating point and logic-rail voltage in mV (R245 table 7, R252): logic mean,
logic 1 µs peak and cellar mean in mA. -/
opaque railCurrent : Placement → Nat → Nat → Nat → BitVec 32 × BitVec 32 × BitVec 32
/-- What stands in the net field of table 4 for the credited stream of a port, entry or exit (R188, R245); the manual states no number for it. -/
opaque portLoopNet : Nat → Bool → BitVec 32
/-- The entry of a service router in a bank for a region, where not every parcel is ON or a router is bypassed (R278): the output of ORDERED packets and the set of
outputs for ADAPTIVE ones. By the bank's UNREACHABLE regions, the bypassed routers, the router and the region. -/
opaque detour : BitVec 16 → List (Nat × Nat) → Nat → Nat → BitVec 2 × BitVec 4
/-- Which of several packets that wait for one VC of an output goes next (R261), by SNET cycle and output. -/
opaque netTurn : Nat → Nat → BitVec 16
/-- Whether a TMUX signal number lies in a clock domain (R537, the signal catalogue). -/
opaque tmuxIn : BitVec 32 → Nat → Bool
/-- The sample driven for a TMUX signal (R525), by the free counter. -/
opaque tmuxSample : BitVec 32 → Nat → Bool
/-- Buchavor-defined calibration bytes of the records (R477: BOND, EDGETRAIN), by section and record. -/
opaque calibration : Nat → Nat → List (BitVec 8)
/-- The crossing depths calibrated at bring-up (R151), by record and operating point. -/
opaque crossingDepth : Nat → Nat → BitVec 3
/-- The parity symbols of an RS(544,514) codeword (R331), whose generator the spec does not give, by its message symbols. -/
opaque fecParity : List (BitVec 10) → Vector (BitVec 10) 30
/-- A pin or internal scan cell sampled by a scan instruction (R525), by the free counter and the position. -/
opaque scanCell : Nat → Nat → Bool

end Sys2Proof.Config
end

