-- ==== Sys2Proof/Machine/Functions.lean ====
section
/-! DEFINITION. The exact functions that R105 measures VFUNC against, in fixed point with 256 fractional bits (DEDUCED, log 6): every result is within
2^-100 of a unit in the last place of FP32, the normal distribution beyond |x| = 8 within 2^-40. A result that is not exact stays on its own side of 0 and of 1, so that
its unit in the last place is that of its own binade. -/

namespace Sys2Proof.Machine

/-- One, in fixed point. -/
def fixOne : Nat := 2 ^ 256

/-- t / (2k+1) + t·q / (2k+3) + …, `n` terms. -/
def atanhFrom : Nat → Nat → Nat → Nat → Nat
  | 0, _, _, _ => 0
  | n + 1, t, q, k => t / (2 * k + 1) + atanhFrom n (t * q / fixOne) q (k + 1)

/-- artanh w for w at most 1/3. -/
def atanhFix (w : Nat) : Nat := atanhFrom 90 w (w * w / fixOne) 0

/-- ln 2 = 2 artanh (1/3). -/
def ln2Fix : Nat := 2 * atanhFix (fixOne / 3)

/-- t + t·r/k + t·r²/(k(k+1)) + …, `n` terms. -/
def expFrom : Nat → Nat → Nat → Nat → Nat
  | 0, _, _, _ => 0
  | n + 1, t, r, k => t + expFrom n (t * r / (fixOne * k)) r (k + 1)

/-- 2^n × e^r for r in [0, ln 2]. -/
def scaledExp (n : Int) (r : Nat) : Nat :=
  let v := expFrom 64 fixOne r 1
  if 0 ≤ n then v * 2 ^ n.toNat else v / 2 ^ (-n).toNat

/-- e^x for x at most 200, and never 0: the least fixed-point number stands for what is smaller. -/
def expFix (x : Int) : Nat :=
  if x < -200 * fixOne then 1 else max 1 (scaledExp (x / ln2Fix) (x % ln2Fix).toNat)

/-- 2^x likewise. -/
def exp2Fix (x : Int) : Nat :=
  if x < -300 * fixOne then 0 else scaledExp (x / fixOne) ((x % fixOne).toNat * ln2Fix / fixOne)

/-- ln (m × 2^e) for m > 0. -/
def lnFix (m : Nat) (e : Int) : Int :=
  let z := m * fixOne / 2 ^ Nat.log2 m
  (e + Nat.log2 m) * ln2Fix + 2 * atanhFix ((z - fixOne) * fixOne / (z + fixOne))

/-- The logistic function 1 / (1 + e^−x). -/
def sigmoidFix (x : Int) : Int :=
  let e := expFix (-(x.natAbs : Int))
  if 0 ≤ x then (fixOne * fixOne / (fixOne + e) : Nat) else (fixOne * e / (fixOne + e) : Nat)

/-- The hyperbolic tangent; below 2^-40 in magnitude by its series x − x³/3, always less than |x|. -/
def tanhFix (x : Int) : Int :=
  let a := x.natAbs
  let e := expFix (-2 * (a : Int))
  let t : Nat := if a < 2 ^ 216 then a - max 1 (a * a / fixOne * a / (3 * fixOne)) else (fixOne - e) * fixOne / (fixOne + e)
  if 0 ≤ x then t else -(t : Int)

/-- The integer square root, trying bits `b − 1` down to 0. -/
def isqrtFrom (n : Nat) : Nat → Nat → Nat
  | 0, r => r
  | b + 1, r => isqrtFrom n b (if (r + 2 ^ b) * (r + 2 ^ b) ≤ n then r + 2 ^ b else r)

/-- ⌊√n⌋. -/
def isqrt (n : Nat) : Nat := isqrtFrom n (Nat.log2 n / 2 + 1) 0

/-- 1 / √(2π) in fixed point. -/
def invSqrtTwoPi : Nat := 46194360132781112550002021175736725500524138381534012844286371432913401257262

/-- t + t·q/k + t·q²/(k(k+2)) + …, `n` terms. -/
def oddFrom : Nat → Nat → Nat → Nat → Nat
  | 0, _, _, _ => 0
  | n + 1, t, q, k => t + oddFrom n (t * q / (fixOne * k)) q (k + 2)

/-- The normal distribution Φ, by Φ(x) = 1/2 + φ(x) (x + x³/3 + x⁵/15 + …); beyond |x| = 8 taken as 0 or as just below 1. -/
def normalFix (x : Int) : Int :=
  let a := x.natAbs
  if 8 * fixOne ≤ a then (if 0 ≤ x then fixOne - 1 else 0)
  else
    let q := a * a / fixOne
    let d := expFix (-((q / 2 : Nat) : Int)) * invSqrtTwoPi / fixOne
    let h := d * oddFrom 260 a q 3 / fixOne
    if 0 ≤ x then (fixOne / 2 + h : Nat) else (fixOne / 2 - h : Nat)

/-- Function F of R105 at the fixed-point number x = m × 2^e (log and rsqrt: of the magnitude); sqrt, which is correctly rounded, is not among them. -/
def exactFix (f : Nat) (x : Int) (m : Nat) (e : Int) : Int :=
  match f with
  | 0 => expFix x
  | 1 => exp2Fix x
  | 2 => lnFix m e
  | 3 => if x < 0 then -((fixOne * fixOne / x.natAbs : Nat) : Int) else (fixOne * fixOne / x.natAbs : Nat)
  | 4 => isqrt (fixOne * fixOne * fixOne / x.natAbs)
  | 6 => sigmoidFix x
  | 7 => tanhFix x
  | 8 => x * normalFix x / fixOne
  | _ => x * sigmoidFix x / fixOne

/-- A unit in the last place of FP32 at a fixed-point number. -/
def ulpFix (y : Int) : Nat := 2 ^ (max (Nat.log2 y.natAbs) 130 - 23)

/-- The largest error of R105 at an exact result. -/
def errFix (f : Nat) (y : Int) : Nat :=
  match f with
  | 0 | 1 | 2 => 2 * ulpFix y
  | 3 | 4 => ulpFix y
  | 6 | 7 => 3 * ulpFix y
  | _ => max (4 * ulpFix y) (2 ^ 232)

end Sys2Proof.Machine
end

