-- ==== Sys2Proof/Machine/State.lean ====
section
/-! DEFINITION. The state of the engine: every piece of state the manual gives it, as plain data, with
the queue of waiting commands, and the state after cold reset. -/

namespace Sys2Proof.Machine

/-! ## Core tile (R37 to R80, R86, R113, R542) -/

/-- One entry of a task's loop stack (R54): first and last instruction of the body and the passes left. -/
structure LoopEnt where
  first : BitVec 13
  last  : BitVec 13
  left  : Nat
deriving DecidableEq, Repr

/-- The private state of one task (R38, R39, R44, R54, R63, R66, R68). The three `Ready` vectors hold, for
each register, the running beat (WRB) from which its latest result is usable (R66). -/
structure Task where
  g      : Vector Word 16
  p      : Vector Bool 4
  v      : Vector Line 8
  pc     : BitVec 13
  loops  : List LoopEnt
  gReady : Vector Nat 16
  pReady : Vector Nat 4
  vReady : Vector Nat 8
  seg    : Option (Nat × Nat)
  pad    : Nat
  skip   : Nat
  halted : Bool
  faulted : Bool
  own    : Nat
deriving DecidableEq, Repr

/-- A task at program start: all registers 0 (R39). -/
def Task.start : Task :=
  { g := Vector.replicate 16 0, p := Vector.replicate 4 false, v := Vector.replicate 8 0, pc := 0,
    loops := [], gReady := Vector.replicate 16 0, pReady := Vector.replicate 4 0,
    vReady := Vector.replicate 8 0, seg := none, pad := 0, skip := 0, halted := false,
    faulted := false, own := 0 }

/-- The state of a matrix lane's sum (R86). -/
inductive LaneSt where
  | finite
  | ovfPos
  | ovfNeg
  | infPos
  | infNeg
  | nan
deriving DecidableEq, Repr

/-- One window accumulator lane (R86): the 128-bit integer A, the window exponent W, the state, WIN_INEXACT and the running
residue of A modulo 7 (R108). -/
structure Lane where
  a       : BitVec 128
  w       : BitVec 8
  st      : LaneSt
  inexact : Bool
  res     : Nat
deriving DecidableEq, Repr

/-- A lane at program start (R87). -/
def Lane.start : Lane := { a := 0, w := 128, st := .finite, inexact := false, res := 0 }

/-- One entry of the operand staging buffer (R71, R542): its format tag (none: unloaded), its packed
elements (R82), its scale bytes (R84), and each element's significand modulo 7 (R108). -/
structure Staged where
  fmt    : Option (BitVec 4)
  data   : Line
  scales : Word
  res    : List Nat
deriving DecidableEq, Repr

/-- An unloaded staging entry (R542). -/
def Staged.none : Staged := { fmt := Option.none, data := 0, scales := 0, res := [] }

/-- One loop-buffer line (R64): its tag (none: untagged) and its 16 instructions. -/
structure CodeLine where
  tag   : Option Nat
  words : Line
deriving DecidableEq, Repr

/-- A trellis word (R139); `bad` marks the quarters whose parity fails (R168). -/
structure TWord where
  data : Quad
  v    : Bool
  ep   : Bool
  bad  : BitVec 4
deriving DecidableEq, Repr

/-- The empty word (R139). -/
def TWord.empty : TWord := { data := 0, v := false, ep := false, bad := 0 }

/-- A narrow load's width and extension (R55). -/
inductive LoadKind where
  | w
  | h
  | hu
  | b
  | bu
deriving DecidableEq, Repr

/-- What an instruction in flight does at one of its fixed beats (R60, R65, R66, R71 to R73, R117,
R181, R182). Addresses are physical bytes or lines of the tile's memories. -/
inductive Act where
  | load (task : Fin 4) (gv : Fin 16) (addr : Nat) (kind : LoadKind)
  | store (addr n : Nat) (data : Word)
  | vload (task : Fin 4) (v : Fin 8) (line : Nat)
  | vstore (line : Nat) (data : Line)
  | codeRead (line tag : Nat) (addr : Nat)
  | codeInstall (line tag : Nat) (data : Line)
  | stageRead (e : Fin 8) (mode : Nat) (fmt : BitVec 4) (line : Nat) (scales : Word) (rec : Nat)
  | stageMeta (e : Fin 8) (mode : Nat) (fmt : BitVec 4) (vals : Line) (rec : Nat)
  | stageInstall (e : Fin 8) (ent : Staged)
  | product (task : Fin 4) (ea eb : Fin 8) (sa sb : Nat) (blk : Nat)
  | sendRead (addr : Nat) (ep : Bool)
  | latch (term counter : Nat) (first : Bool)
  | capture (task : Fin 4) (ch : Fin 8) (pn : Fin 4) (v : Fin 8) (q : Nat)
  | captureMem (task : Fin 4) (ch : Fin 8) (pn : Fin 4) (addr : Nat)
  | quadWrite (addr : Nat) (data : Quad)
  | lineRead (sp : MemSpace) (line : Nat) (dsp : MemSpace) (dline : Nat) (wr : Nat)
  | lineWrite (sp : MemSpace) (line : Nat) (data : Line)
  | credit (ch : Fin 8) (n : Nat)
  | pend (ch : Fin 8)
deriving DecidableEq, Repr

/-- Who reads a word of memory, as a record names it (R126, R415): an instruction by its task and word, the engine itself (the scrubber), a service-net
message by its TAG, OPC and source, a descriptor by its OPC, SQ and SEQ, the CXL.mem window, or the Vintner in a copy of its own. -/
inductive Reader where
  | instruction (task : Fin 4) (word : Nat)
  | engine
  | message (tag opc source : Nat)
  | descriptor (opc sq seq : Nat)
  | window
  | vintner
deriving DecidableEq, Repr

/-- An action, the running beat in which it is due, and the instruction it belongs to. `early` actions take effect at the start of their
beat, the others within it. -/
structure Timed where
  due   : Nat
  early : Bool
  by_   : Reader
  act   : Act
deriving DecidableEq, Repr

/-- One channel of a core (R177, R179 to R181): its table entry, credit counter, receive queue and
pending credits; `cparity` marks a credit counter whose parity fails (R184). -/
structure Chan where
  cfg     : ChanCfg
  credit  : Nat
  queue   : List TWord
  pend    : Nat
  cparity : Bool
deriving DecidableEq, Repr

/-- An unconfigured channel (R177). -/
def Chan.none : Chan :=
  { cfg := { en := false, recv := false, cred := false, cret := false, tgt := 0, depth := 0, phase := 0,
             dslot := 0, dstride := 0, cslot := 0, cstride := 0 },
    credit := 0, queue := [], pend := 0, cparity := false }

/-- A bit error of one check word (R124 to R128): its memory, its word number, the bit in error (none: uncorrectable), whether a read has met it since the
word was last written (a corrected bit then waits for its writeback), and whether the cell fails again whatever is written. -/
structure EccMark where
  space : MemSpace
  word  : Nat
  bit   : Option Nat
  met   : Bool
  stuck : Bool
deriving DecidableEq, Repr

/-- A service-net access waiting at a tile port (R120, R122, R271): space, first byte, the data to
write (none: a read), and the packet that made it. -/
structure Narrow where
  space : MemSpace
  addr  : Nat
  wdata : Option (List Byte)
  pkt   : Packet
deriving DecidableEq, Repr

/-- The trellis router of a tile (R142 to R146, R169, R173): schedule table, sequencer words, running
sequencer, steering queues and counters, and the C output of the running beat. `pipe` lists the parity errors that the next words meet in the pipeline
(R168): by the port they entered through (0 to 4), or 5 for the solera adder's sum. `badEnt` lists entries
that fail their stored parity, `latched` by steering term (its number in the report) the count now and at the first marker ITER (R250). -/
structure Router where
  table    : List (Nat × DWord)
  badEnt   : List Nat
  phases   : Vector SeqPhase 4
  startPh  : Nat
  startCur : Nat
  en       : Bool
  owner    : Nat
  p        : Nat
  k        : Nat
  done     : Nat
  ran      : Option Nat
  ctlQ     : List TWord
  datQ     : List TWord
  initTok  : List Quad
  counts   : Vector Nat 5
  latched  : List (Nat × Nat × Nat)
  cOut     : TWord
  parityAt : Option Nat
  pipe     : List (Nat × BitVec 4)
deriving DecidableEq, Repr

/-- A router that belongs to no program (R145, R147). -/
def Router.none : Router :=
  { table := [], badEnt := [], phases := Vector.replicate 4 { base := 0, len := 0, next := 0, reps := 0 },
    startPh := 0, startCur := 0, en := false, owner := 15, p := 0, k := 0, done := 0, ran := Option.none,
    ctlQ := [], datQ := [], initTok := [], counts := Vector.replicate 5 0, latched := [],
    cOut := TWord.empty, parityAt := Option.none, pipe := [] }

/-- Configuration words of a task that is not enabled (R41 Reset column). -/
def TaskCfg.none : TaskCfg :=
  { lbase := 0, lbound := 0, cbase := 0, cbound := 0, ibase := 0, lbFirst := 0, lbCount := 0, en := false }

/-- A tile: core, router, service-net port, local SRAM and slab (R37, R40, R41, R64, R71, R86, R99,
R113, R270). `stageReady` is the usable beat of the latest staging load of each entry (R66), `mmaBusy` and `mmaDone` the latest MMA's last product
beat and the beat its accumulators complete (R73, R76). `access` and `slabAt` are the running beats from which the narrow port and the slab are next free for
narrow users, `residue` the checked points of R108, counted from 0, whose next check fails (R109), `grants` and `grantsC` the beats and slots granted in a row to service-net requests (R122), `mended` the bits that
a completed writeback has corrected and, without a bit, the uncorrectable words written since they were met (R128). Memories list bytes in rising address order; an unlisted byte is 0 (R130). -/
structure Tile where
  placed  : Bool
  pslot   : Fin 8
  plot    : Nat
  prow    : Nat
  pcol    : Nat
  cfg     : Vector TaskCfg 4
  pattern : BitVec 48
  mown    : Fin 4
  tasks   : Vector Task 4
  lanes   : Vector Lane 64
  stage   : Vector Staged 8
  stageReady : Vector Nat 8
  mmaBusy : Nat
  mmaDone : Nat
  code    : Vector CodeLine 16
  rng     : Word
  inexact : Nat
  chans   : Vector Chan 8
  acts    : List Timed
  wide    : List Nat
  slots   : List Nat
  ownAt   : Option Nat
  router  : Router
  access  : Nat
  slabAt  : Nat
  narrow  : List Narrow
  grants  : Nat
  grantsC : Nat
  sram    : List Host.Cell
  slab    : List Host.Cell
  ecc     : List EccMark
  mended  : List (MemSpace × Nat × Option Nat)
  scrubL  : Nat
  scrubC  : Nat
  retire  : Bool
  repairs : List (Nat × Nat)
  toRepair : List Nat
  residue : List Nat
deriving DecidableEq, Repr

/-- A tile that belongs to no program, memories zero (R130). -/
def Tile.free : Tile :=
  { placed := false, pslot := 0, plot := 0, prow := 0, pcol := 0, cfg := Vector.replicate 4 TaskCfg.none,
    pattern := 0, mown := 0, tasks := Vector.replicate 4 Task.start, lanes := Vector.replicate 64 Lane.start,
    stage := Vector.replicate 8 Staged.none, stageReady := Vector.replicate 8 0, mmaBusy := 0, mmaDone := 0,
    code := Vector.replicate 16 { tag := none, words := 0 }, rng := 1, inexact := 0,
    chans := Vector.replicate 8 Chan.none, acts := [], wide := [], slots := [], ownAt := none,
    router := Router.none, access := 0, slabAt := 0, narrow := [], grants := 0, grantsC := 0, sram := [], slab := [], ecc := [], mended := [],
    scrubL := 0, scrubC := 0, retire := false, repairs := [], toRepair := [], residue := [] }

/-- A word in flight on a trellis link: receiving router, its input port (0 N, 1 E, 2 S, 3 W, 4 C) and
the running beat in which the word is on that input (R140). -/
structure LinkWord where
  dst  : TileAt
  port : Nat
  beat : Nat
  word : TWord
deriving DecidableEq, Repr

/-! ## Errors and attention (R313, R413) -/

/-- An error record (R413); `last` is the time of the latest occurrence it covers (R420), `again` marks the correction of a word whose
writeback is not complete: it counts in the same record (R125). -/
structure ErrRec where
  time   : Nat
  rseq   : Nat
  sev    : Nat
  src    : Nat
  ecode  : Nat
  ukind  : Nat
  row    : Nat
  lcol   : Nat
  pcol   : Nat
  unit   : Nat
  okind  : Nat
  pslot  : Nat
  psv    : Bool
  task   : Nat
  opword : Nat
  opaux  : Nat
  beat   : Nat
  temp   : Nat
  volt   : Nat
  count  : Nat
  info   : Nat
  last   : Nat
  again  : Bool
deriving DecidableEq, Repr

/-- The error log (R455, R461): records in RSEQ order, the next RSEQ, and what the always-on logic
buffers while MGMT is not OPEN: records with the domains whose fences each starts, the number displaced or dropped, and attention events. -/
structure Log where
  recs    : List ErrRec
  next    : Nat
  buf     : List (ErrRec × List Nat)
  dropped : Nat
  events  : List Nat
deriving DecidableEq, Repr

/-! ## Domains (R433, R435, R441) -/

/-- The states of R435. -/
inductive DomSt where
  | off
  | opening
  | opened
  | closing
  | closed
deriving DecidableEq, Repr

/-- A reset domain's state word (R441); `readmit` marks a domain that opens only through READMIT (R440),
`reopen` whether the close ends in a reopening (R447), `leesReq` DOMAIN_CTL's LEES (R439), `askers` the DOMAIN_CTL
descriptors that wait for it, with whether each was accepted while the domain was closing (R441), and
`since` the time of its last change of state. -/
structure Dom where
  st      : DomSt
  pend    : Bool
  held    : Bool
  lees    : Bool
  cause   : Nat
  rseq    : Nat
  readmit : Bool
  reopen  : Bool
  leesReq : Bool
  askers  : List (DescRef × Bool)
  since   : Nat
deriving DecidableEq, Repr

/-- A domain after cold reset: OFF (R434), no cause, RSEQ 0xFFFF_FFFF for none (R441). -/
def Dom.off : Dom :=
  { st := .off, pend := false, held := false, lees := false, cause := 0, rseq := 0xFFFFFFFF,
    readmit := false, reopen := false, leesReq := false, askers := [], since := 0 }

/-! ## Rings, descriptors, host link (R288 to R322, R532 to R534) -/

/-- A submission ring (R295 to R300, R534): registers, pointers, flags, the domain whose fence set FENCE_WAIT (R454), the credit of the weighted round
robin, the time its head last moved, and how often it has been enabled. -/
structure Sq where
  base    : BitVec 58
  log2    : Nat
  cq      : Fin 64
  weight  : Nat
  en      : Bool
  head    : Nat
  tail    : Nat
  seq     : BitVec 32
  wait    : Bool
  waitDom : Nat
  dbErr   : Bool
  credit  : Nat
  moved   : Nat
  era     : Nat
deriving DecidableEq, Repr

/-- An SQ at its Reset values (R534). -/
def Sq.reset : Sq :=
  { base := 0, log2 := 6, cq := 0, weight := 1, en := false, head := 0, tail := 0, seq := 0, wait := false,
    waitDom := 0, dbErr := false, credit := 1, moved := 0, era := 0 }

/-- A completion ring (R297, R534), with the entries reserved for fetched descriptors (R300). -/
structure Cq where
  base    : BitVec 58
  log2    : Nat
  vec     : Nat
  nudgeEn : Bool
  en      : Bool
  head    : Nat
  widx    : Nat
  phase   : Bool
  dbErr   : Bool
  resv    : Nat
deriving DecidableEq, Repr

/-- A CQ at its Reset values (R534). -/
def Cq.reset : Cq :=
  { base := 0, log2 := 6, vec := 0, nudgeEn := false, en := false, head := 0, widx := 0, phase := false,
    dbErr := false, resv := 0 }

/-- How a descriptor ended (R310, R311, R453). -/
structure Outc where
  status : Nat
  detail : Nat
  time   : Nat
deriving DecidableEq, Repr

/-- A fetched, uncompleted descriptor (R300 to R303, R453): whether a host-interface reset came since its fetch (`old`, R321), its bytes, where it stands, the outcome once decided, for work in parts the bytes
taken in, sent on their way out and written out so far and the status and DETAIL it will end with in place of OK, whether its work took effect, whether a write of its to host
memory was dropped (ORD-2), the descriptors that a notice ended and that complete before it (`after`, R382), the last host address written for it while no read has followed that write (R292), and for an EDGE_RECV whose message is whole the DETAIL it ends with once its bytes are written (`due`). Descriptors are kept in fetch order (R302). -/
structure Desc where
  ref     : DescRef
  cq      : Fin 64
  bytes   : List Byte
  started : Bool
  moved   : Nat
  sent    : Nat
  wrote   : Nat
  stale   : Bool
  took    : Bool
  dropped : Bool
  last    : Option DWord
  old     : Bool
  due     : Option Nat
  after   : List DescRef := []
  fault   : Option (Nat × Nat)
  outc    : Option Outc
deriving DecidableEq, Repr

/-- A completion record held across a host-interface reset (R321), with the last host address written for its descriptor until that has been read (R292). -/
structure HeldRec where
  ref    : DescRef
  cq     : Fin 64
  tag    : DWord
  nudge  : Bool
  outc   : Outc
  last   : Option DWord
deriving DecidableEq, Repr

/-- Why the engine reads host memory: what continues when the data arrives (R422). -/
inductive Why where
  | image
  | plots
  | memData
  | objData
  | streamIn
  | edgeData
  | group
  | pressTbl
  | firmware
  | block
  | topology
  | chain
  | flush
deriving DecidableEq, Repr

/-- An outstanding host-memory read (R422). -/
structure HostReq where
  tag  : Nat
  desc : DescRef
  why  : Why
  addr : DWord
  len  : Nat
deriving DecidableEq, Repr

/-- One MSI-X table entry (R533, PCIe layout): address, data and the vector's mask bit. -/
structure MsixEnt where
  addr : DWord
  data : Word
  mask : Bool
deriving DecidableEq, Repr

/-- A line of the device cache of HUB-W's ring engine (R291): its number in host memory, whether the engine owns it, and its two halves as far as the
engine has read or written them. -/
structure CacheLine where
  line : Nat
  own  : Bool
  lo   : Option (List Byte)
  hi   : Option (List Byte)
deriving DecidableEq, Repr

/-- A capability in configuration space (R289, R293). -/
inductive Capability where
  /-- PCI Express: Max_Payload_Size supported, the largest Max_Read_Request_Size honoured, 10-bit tags, Function Level Reset. -/
  | pcie (payload request : Nat) (tags10 flr : Bool)
  /-- MSI-X: vectors, the BAR of the table and the PBA, their offsets. -/
  | msix (vectors bar table pba : Nat)
  /-- Data Object Exchange: mailboxes. -/
  | doe (mailboxes : Nat)
  /-- CXL DVSEC for CXL devices: Cache_Capable, Mem_Capable, IO_Capable, HDM_Count; of range 1 its size, volatile media and Memory_Active. -/
  | cxlDvsec (cache mem io : Bool) (hdm range : Nat) (volatile active : Bool)
deriving DecidableEq, Repr

/-- A base address register pair (R294): its first register, 64-bit and prefetchable or not, its size and the address the host gave it. -/
structure BarPair where
  first : Nat
  wide  : Bool
  pref  : Bool
  size  : Nat
  base  : DWord
deriving DecidableEq, Repr

/-- The configuration header and capability list of the one function (R289, R294). -/
structure ConfigSpace where
  vendor   : BitVec 16
  device   : BitVec 16
  cls      : BitVec 24
  revision : BitVec 8
  intPin   : BitVec 8
  bars     : List BarPair
  caps     : List Capability
deriving DecidableEq, Repr

/-- The host link and the HOSTIF block (R288, R313, R314, R473, R532, R533). `owed` lists the SQs whose first completion affected by a
program fault carries ACCESS_FAULT, with the slot, the DETAIL and the time of the fault (R79); `spoilt` those whose next OK becomes DATA_UNCORRECTABLE
(R126, R420); `aborted` the SQs, by enabling, on which a descriptor has ended RESET_ABORTED (R321); `bars` the addresses in BAR0/BAR1 and BAR2/BAR3 (R294); `cache` the device cache, the line used last at the end
(R291). -/
structure Hostif where
  events   : BitVec 8
  seq      : BitVec 8
  vec      : Nat
  vecEn    : Bool
  link     : Bool
  cxl      : Bool
  width    : Nat
  speed    : Nat
  hdm      : Bool
  perst    : Bool
  bars     : Vector DWord 2
  msixEn   : Bool
  fmask    : Bool
  msix     : Vector MsixEnt 64
  pba      : BitVec 64
  sqs      : Vector Sq 64
  cqs      : Vector Cq 64
  descs    : List Desc
  held     : List HeldRec
  reads    : List HostReq
  nextTag  : Nat
  owed     : List (Fin 64 × Fin 8 × Nat × Nat)
  spoilt   : List (Fin 64)
  aborted  : List (Fin 64 × Nat)
  cache    : List CacheLine
  resetAt  : Option Nat
  reopened : Nat
deriving DecidableEq, Repr

/-! ## Power, clocks and heat (R385 to R411) -/

/-- PARCEL_Pp.STATE (R410). -/
inductive PSt where
  | on
  | evacuating
  | off
  | retained
  | testing
deriving DecidableEq, Repr

/-- A parcel (R25, R387, R392, R402 to R410): its registers, rails, clock, and its field sensors at 105 °C or more with the time since when. `offset` is fused (R3, R392), `parting` marks a
parcel whose rail waits for a table change to drain (R282). -/
structure Parcel where
  st       : PSt
  cause    : Nat
  trim     : Nat
  offset   : Int
  vmv      : Nat
  tmax     : Nat
  iMeas    : Nat
  logicOn  : Bool
  cellarOn : Bool
  locked   : Bool
  stopAt   : Option Nat
  hot105   : List (Nat × Nat)
  tested   : Nat
  lastSusp : Option Nat
  stepped  : Bool
  gone     : Bool
  parting  : Bool
deriving DecidableEq, Repr

/-- A parcel after cold reset (R410 Reset column): OFF, cause none. -/
def Parcel.reset : Parcel :=
  { st := .off, cause := 0, trim := 0, offset := 0, vmv := 0, tmax := 0, iMeas := 0, logicOn := false,
    cellarOn := false, locked := false, stopAt := none, hot105 := [], tested := 0, lastSusp := none,
    stepped := false, gone := false, parting := false }

/-- Where a change of operating point stands (R390). -/
inductive ChStep where
  | ramp
  | announced
  | stopped
  | landed
deriving DecidableEq, Repr

/-- A change of operating point in progress (R389, R390): target, step, stop beat (CBN), decision time. -/
structure OpChange where
  target : Nat
  step   : ChStep
  stopAt : Nat
  at_    : Nat
deriving DecidableEq, Repr

/-- A hold command (S, h) (R164). -/
structure HoldCmd where
  at_ : Nat
  h   : Nat
deriving DecidableEq, Repr

/-- A coolant flow stop in force (R403). -/
structure FlowHold where
  cbn    : Nat
  wasOn  : List (Fin 12)
  evac   : List (Fin 12)
  wentHi : Option Nat
  progs  : List (Fin 8)
deriving DecidableEq, Repr

/-- The power controller, beat clocks and sensors (R385 to R411): the PWR block's registers, the hold
controller, forced states, coolant flow, the latest sensor frame and telemetry (`volts` by power-stage group, R400), core ratings by physical tile,
whether the counts of R406 pause for want of an ON parcel, the lift of each hub rail (R428), and suspect hubs out of reach on which the policy has yet to act (R429). -/
structure Pwr where
  ceil     : Nat
  flowEn   : Bool
  eff      : Nat
  tcap     : Nat
  change   : Option OpChange
  landedAt : Nat
  cmds     : List HoldCmd
  hLim     : Nat
  hLim0    : Nat
  warn     : Bool
  hTherm   : Nat
  fast     : List (Fin 12)
  fastLow  : List (Fin 12 × Nat)
  asserted : BitVec 48
  latch    : BitVec 48
  iso      : BitVec 48
  clearAt  : Nat
  lastGrp  : Fin 48
  forced   : Bool
  dies     : List (Fin 12)
  dieLow   : List (Fin 12 × Nat)
  flow     : Option FlowHold
  pinLim   : Nat
  ilim     : Vector Nat 12
  pin      : Nat
  vin      : Nat
  volts    : List Nat
  sensSel  : Nat
  sens     : SensorFrame
  sampled  : Nat
  paused   : Bool
  hotAt    : Option Nat
  coolAt   : Option Nat
  rating   : List (Nat × Nat)
  lowMargin : List TileAt
  hubLift  : Vector Nat 4
  hubWait  : List (Fin 4)
  mgmtForce : Bool
  bref     : Bool
deriving DecidableEq, Repr

/-- The beat counters (R141): CBN counts every beat, WRB running beats only. -/
structure Beats where
  cbn : Nat
  wrb : Nat
deriving DecidableEq, Repr

/-! ## Programs (R189 to R194, R237 to R250, R443) -/

/-- Why an epoch barrier runs (R190, R242, R306). -/
inductive BarKind where
  | reconfig
  | remove
  | evacuate (p : Fin 12)
deriving DecidableEq, Repr

/-- The steps of R190 a barrier has reached. -/
inductive BarStep where
  | accepted
  | stopped
  | halted
  | restarted
deriving DecidableEq, Repr

/-- An epoch barrier (R190, R192): kind, descriptor, step, stop beat S and halt beat T in program beats,
words discarded at the halt and after the restart, the old configuration's largest L, the beat of restart
in WRB, the placement that waits to be written, and whether the descriptor's own placement has still to be made (R194). -/
structure Barrier where
  kind  : BarKind
  desc  : Option DescRef
  step  : BarStep
  s     : Nat
  t     : Nat
  disc  : Nat
  late  : Nat
  lmax  : Nat
  again : Nat
  evac  : List (Fin 12)
  place : Option Placement
  wants : Bool
deriving DecidableEq, Repr

/-- An input unit of a stream slot (R318): its STREAM_XFER (with `host`) or the EDGE_RECV whose packet it is (R345), its length, the bytes asked
of host memory, landed, and released. -/
structure SUnit where
  desc  : DescRef
  host  : Bool
  len   : Nat
  asked : Nat
  read  : Nat
  rel   : Nat
deriving DecidableEq, Repr

/-- A stream slot's binding and queues (R315, R316, R318, R322): the port, bytes in the landing buffer and the input units they belong to,
bytes in the egress queue with the number of them that left before the latest reopening, exit bytes still to discard as they come, the
capacities of landing buffer and egress queue in bytes (0: no buffer), and the slot's ends of the credited streams (R176): the credits of the entry
stream, the words in the credited egress queue, and the credits it has to return. -/
structure Slot where
  port    : Nat
  landing : List Byte
  units   : List SUnit
  egress  : List Byte
  old     : Nat
  skip    : Nat
  lcap    : Nat
  ecap    : Nat
  inCred  : Nat
  outQ    : List Quad
  outPend : Nat
deriving DecidableEq, Repr

/-- A press record (R374). -/
structure PressRec where
  k      : List Word
  trust  : Bool
  master : Nat
  state  : Nat
  work   : Nat
  rnd    : Nat
deriving DecidableEq, Repr

/-- The records of an image's sections, each with its index, the PHASES and REPORT sections, and the OBJECTS section (R221 to R231). What the engine keeps of a
resident program's image has no object data (R132); what the directory of OBJECTS states stands in its report (R219). -/
structure Img where
  plots  : List (Nat × List Byte)
  nets   : List (Nat × List Byte)
  objs   : List (Nat × List Byte)
  ports  : List (Nat × List Byte)
  phases : List Byte
  cons   : List (Nat × List Byte)
  names  : List Byte
  data   : List Byte
deriving DecidableEq, Repr

/-- An image of which nothing is kept (R134). -/
def Img.none : Img := { plots := [], nets := [], objs := [], ports := [], phases := [], cons := [], names := [], data := [] }

/-- A program slot (R189, R237, R241, R244, R247, R249, R443): the resident program. `sqs` are the
SQs bound to the program: those that have fetched a descriptor naming the slot since its load (R79). `stuck` marks a domain that stays halted since its
last reconfiguration failed (R194), `load` the descriptor of a load that completes once the program has started (R241). `img` is what
the engine keeps of its image, `report` the current static report (R246). -/
structure Prog where
  digest   : List Byte
  place    : Placement
  running  : Bool
  start    : Nat
  epoch    : Bool
  phase    : Nat
  phaseK   : Nat
  phaseN   : Nat
  iters    : Nat
  beatsRun : Nat
  firstM   : Option Nat
  baseIt   : Nat
  baseBt   : Nat
  restartM : Bool
  holds    : Nat
  winHolds : Nat
  excess   : Nat
  discards : Nat
  winInex  : Nat
  restartB : Nat
  repSeq   : Nat
  restricted : Bool
  jceil    : Nat
  seed     : Word
  bar      : Option Barrier
  waiting  : List DescRef
  sqs      : List (Fin 64)
  press    : List (Nat × PressRec)
  slots    : List (Nat × Slot)
  haltAt   : Option Nat
  stuck    : Bool
  load     : Option DescRef
  img      : Img
  report   : List Byte
deriving DecidableEq, Repr

/-- The live state that Jarbor reads at the start of a placement (R232): the host's ceiling and the ratings by physical tile, the cull list as mapped and as
it stands, defective crossings, parcels that may be used and those that are hot, tiles that other programs, reserved areas or staging granules hold, tiles to be
retired or repaired, bypassed routers, what stands in the headland tables, the stream slots that other programs hold, and the beats of span ports that their
streams use (64 × hub + span port, whether into the wafer, beat modulo 64). -/
structure Live where
  ceil   : Nat
  rating : List (Nat × Nat)
  mapped : List (Nat × Nat × Nat)
  culls  : List (Nat × Nat × Nat)
  xmap   : List Nat
  on     : List (Fin 12)
  hot    : List (Fin 12)
  taken  : List Nat
  bad    : List Nat
  bypass : List (Nat × Nat)
  heads  : List (Nat × List (Nat × DWord))
  slots  : List Nat
  spans  : List (Nat × Bool × Nat)
deriving DecidableEq, Repr

/-- A placement in progress (R239): the descriptor, or the evacuation of a parcel, that asked for it; its
slot, the image's bytes, the time its bound counts from, whether it is a load, whether its image has come and passed the checks that need no placement, the live
state read at its start (none: not started), whether its parcel's evacuation has started (R238), and the plots that a reconfiguration names. -/
structure Placing where
  desc  : Option DescRef
  slot  : Fin 8
  evac  : Option (Fin 12)
  image : List Byte
  at_   : Nat
  fresh : Bool
  ready : Bool
  live  : Option Live
  timed : Bool
  plots : List Nat
deriving DecidableEq, Repr

/-- What a placement works from (R236): the image by its records and its DIGEST, which stands for the whole of it, the descriptor's slot, seed and replay flag, the plots it names or the parcel to leave,
the placement that stands, Jarbor's version and the live state. -/
structure JarborIn where
  img    : Img
  digest : List Byte
  slot   : Fin 8
  seed   : Word
  replay : Bool
  plots  : List Nat
  evac   : Option (Fin 12)
  old    : Option Placement
  ver    : Word
  live   : Live
deriving DecidableEq, Repr

/-- A progress watch (R443, R444): window in ms, the time counted toward it, and the value watched. Watches are listed under the program
slot, or 256 + SQ. -/
structure Watch where
  win  : Nat
  counted : Nat
  seen : Nat
deriving DecidableEq, Repr

/-! ## Service net (R253 to R287) -/

/-- What a service-net request serves at its requester: a descriptor, a line of the staging window, bytes of an edge message read from or
written to an object (R345) or on their way between the hub of their port and the hub that holds their other end, bytes of a frame on their way
between HUB-W and the hub of a stream slot (R22, R265), or a collective's: bytes read from an object, elements written (by pass 2 of the press or
otherwise), and a segment on its way between its working hub and the hub of its port (R366). -/
inductive NetWhy where
  | desc (d : DescRef)
  | cxlWrite (off : Nat)
  | cxlRead (off : Nat)
  | edgeRead (d : DescRef) (off : Nat)
  | edgeWrite (d : DescRef)
  | frameIn (k : Fin 8) (slot : Nat) (d : DescRef)
  | frameOut (d : DescRef) (off : Nat)
  | txPart (d : DescRef) (off : Nat)
  | rxPart (d : DescRef) (off : Nat)
  | collRead (d : DescRef) (obj off pos : Nat)
  | collWrite (d : DescRef) (pass2 : Bool)
  | segOut (d : DescRef) (key no : Nat)
  | segIn (d : DescRef) (key : Nat)
  | other
deriving DecidableEq, Repr

/-- A request a hub unit awaits an answer to (R264, R266, R269): requester, tag, operation, epoch, time of the last
injected packet, length, bytes received by offset, worst status by offset, where a READ's bytes belong in the descriptor's buffer, and
how many of them are skipped and kept. -/
structure NetReq where
  unit  : BitVec 24
  tag   : BitVec 12
  opc   : BitVec 6
  epoch : Bool
  at_   : Nat
  total : Option Nat
  got   : Nat
  parts : List (Nat × List Byte)
  bad   : Option (Nat × Nat)
  why   : NetWhy
  base  : Nat
  skip  : Nat
  keep  : Nat
deriving DecidableEq, Repr

/-- An incoming message being assembled at a target (R266 to R269), in the epoch of its first packet; `refuse` holds the number in arrival order and the status of the earliest packet that was refused
or discarded (R271), for a READ the status of the packet being filled. -/
structure InMsg where
  dst   : BitVec 24
  src   : BitVec 24
  tag   : BitVec 12
  opc   : BitVec 6
  epoch : BitVec 1
  total : Option Nat
  got   : Nat
  offs  : List Nat
  parts : List (Nat × List Byte)
  refuse : Option (Nat × Nat)
  last  : Nat
deriving DecidableEq, Repr

/-- A service-net table change in progress (R280, R281): the new bank's unreachable regions, the step reached and the time of the flip. -/
structure TblChange where
  mask : BitVec 16
  step : Nat
  at_  : Nat
deriving DecidableEq, Repr

/-- A flit on the service net (R257): its packet, its place in it, the BAD of its sideband, whether it is a tail that a router appended (R283), and the SNET cycle
from which it can leave its buffer (R287). -/
structure NetFlit where
  pkt : Packet
  i   : Nat
  bad : Bool
  cut : Bool
  at_ : Nat
deriving DecidableEq, Repr

/-- What one VC of a router input holds (R261): flits in order, and the packet on its way through with the output that it goes to. -/
structure NetVc where
  flits : List NetFlit
  way   : Option (Nat × Packet)
deriving DecidableEq, Repr

/-- A router output (R261): the inputs whose packets are passing, by VC, and the request and response VC served last. -/
structure NetOut where
  held : List (Nat × Nat)
  req  : Nat
  rsp  : Nat
deriving DecidableEq, Repr

/-- A bank of a service router's table, as the Vintner computed it (R278): the UNREACHABLE regions and the bypassed routers that it goes around. -/
structure NetTable where
  mask : BitVec 16
  cut  : List (Nat × Nat)
deriving DecidableEq, Repr

/-- The routers and links of the service net (R253, R261, R278): SNET cycles run; router inputs that are in use, VC by VC, and outputs; packets that wait at a gateway
or a tile port, each with its flits sent; packets that an endpoint has taken in whole or in part; late packets of a bank that became UNREACHABLE; and both banks of the
routers of each parcel. Inputs are numbered 4 × (70 × router + port) + VC, outputs 70 × router + port, routers 128 × a + b; ports are 0 N, 1 E, 2 S, 3 W, 4 a
gateway, 5 + k tile port k, 69 the router itself. -/
structure NetWires where
  cycle  : Nat
  ins    : List (Nat × NetVc)
  outs   : List (Nat × NetOut)
  feeds  : List (Nat × List (Packet × Nat))
  taken  : List Packet
  late   : List Packet
  tables : Vector (Vector NetTable 2) 12
deriving DecidableEq, Repr

/-- The service net as software sees it (R254, R269, R275, R276, R278 to R283): the throttle's register, the values in force in each hub's
present window with its start and length in SNET cycles, each hub's level with its quiet windows, the two banks as masks of UNREACHABLE regions (parcels 0–11, hubs 12–15), the
injection epoch, per-epoch counts (requests, responses, and requests awaiting a response at targets), packets on their way in order of injection
(marked headBad once the net has discarded them, bodyBad once they hold a BAD flit), the routers, the words the
Vintner has written to configuration spaces and service routers (8192 × endpoint + word), requests sent and ORDERED ones held for
the old epoch or without a tag, incoming messages, WRITE packets that wait for a place, tags not yet reusable, bypassed routers, and by domain the last
header flits carried to or from it (R459). -/
structure Snet where
  thresh : Nat
  window : Nat
  floor  : Nat
  en     : Bool
  act    : Vector (Nat × Nat × Bool) 4
  wins   : Vector (Nat × Nat) 4
  level  : Vector Nat 4
  quiet  : Vector Nat 4
  banks  : Vector (BitVec 16) 2
  epoch  : Bool
  change : Option TblChange
  queued : List (BitVec 16)
  inject : Vector Nat 2
  eject  : Vector Nat 2
  rInject : Vector Nat 2
  rEject : Vector Nat 2
  await_ : Vector Nat 2
  lost   : Nat
  flight : List Packet
  wires  : NetWires
  conf   : List (Nat × DWord)
  reqs   : List NetReq
  waiting : List (NetReq × List Packet)
  msgs   : List InMsg
  blocked : List Packet
  dead   : List (BitVec 24 × BitVec 12 × Nat)
  nextTag : Nat
  bypass : List (Nat × Nat)
  heads  : List (Nat × List (List Byte))
deriving DecidableEq, Repr

/-! ## Edge links (R323 to R353) -/

/-- Port states with the codes of R326. -/
inductive PortSt where
  | disabled
  | idRead
  | training
  | hello
  | up
  | retrain
  | failed
deriving DecidableEq, Repr

/-- An assembled transport packet (R338), with the flits it came in. -/
structure EdgePkt where
  src    : Nat
  dst    : Nat
  chan   : Nat
  psn    : Nat
  mfirst : Bool
  mlast  : Bool
  kind   : Nat
  abort  : Bool
  inc    : Nat
  bytes  : List Byte
  flits  : Nat := 1
deriving DecidableEq, Repr

/-- An edge port (R326 to R337, R343, R348, R353): `txq` are DATA flits that wait for credit or replay room, as VC,
transport header and body; `base` is the lowest lane of the group in use, `inv` the receive lanes whose polarity is corrected (R324), `ackSent` the ACK of the flit
sent last, `again` whether it is UP after a RETRAIN (R344), `replay` the unacknowledged DATA flits with how often each has been replayed, `cwLeft` how
many bits of the codeword in progress are still to come and `cwBad` whether it is uncorrectable; `crNext` is the VC whose credits are returned next. -/
structure Port where
  en      : Bool
  noid    : Bool
  minw    : Nat
  tsync   : Bool
  pcmax   : Nat
  tpeer   : Nat
  st      : PortSt
  at_     : Nat
  width   : Nat
  base    : Nat
  rev     : Bool
  inv     : BitVec 8
  idok    : Bool
  idpage  : List Byte
  power   : Nat
  switched : Bool
  tc      : Bool
  peerId  : Nat
  peerPort : Nat
  peerSn  : DWord
  peerCab : Word
  retrains : Nat
  corr    : Nat
  uncorr  : Nat
  replays : Nat
  crcErr  : Nat
  toff    : DWord
  tdly    : Word
  txSeq   : BitVec 10
  rxSeq   : BitVec 10
  replay  : List (Flit × Nat)
  ackAt   : Nat
  ackSent : BitVec 10
  again   : Bool
  nakAt   : Option Nat
  txq     : List (Nat × BitVec 64 × List Byte)
  txCred  : Vector Nat 4
  rxCred  : Vector Nat 4
  crNext  : Nat
  badCw   : Nat
  cwLeft  : Nat
  cwBad   : Bool
  partials : List (Nat × EdgePkt)
  inbox   : List EdgePkt
  heard   : Bool
  hellos  : Nat
  probe   : Option (Nat × DWord)
deriving DecidableEq, Repr

/-- A port at its Reset values (R353), DISABLED. -/
def Port.reset : Port :=
  { en := false, noid := false, minw := 0, tsync := false, pcmax := 1, tpeer := 0xFF, st := .disabled, at_ := 0,
    width := 0, base := 0, rev := false, inv := 0, idok := false, idpage := [], power := 0, switched := false, tc := false, peerId := 0xFF,
    peerPort := 0xFF, peerSn := 0, peerCab := 0, retrains := 0, corr := 0, uncorr := 0, replays := 0,
    crcErr := 0, toff := 0, tdly := 0, txSeq := 0, rxSeq := 0, replay := [], ackAt := 0, ackSent := 0, again := false, nakAt := none,
    txq := [], txCred := Vector.replicate 4 0, rxCred := Vector.replicate 4 0, crNext := 0, badCw := 0, cwLeft := 0, cwBad := false, partials := [],
    inbox := [], heard := false, hellos := 0, probe := none }

/-- An edge message to send (R339, R345): its descriptor (none: a collective's), the bytes it has so far and those that have come ahead of them, its length, how much
is sent, whether all of it is, and whether it ends incomplete (R351). -/
structure TxMsg where
  desc  : Option DescRef
  bytes : List Byte
  parts : List (Nat × List Byte)
  len   : Nat
  sent  : Nat
  done  : Bool
  abort : Bool
deriving DecidableEq, Repr

/-- A posted receive (R339, R345): its descriptor (none: a collective's), the largest message it takes, the bytes of the message that came (for a
collective the bytes themselves are kept), whether they still go anywhere, and whether a collective's message is whole. -/
structure RxPost where
  desc : Option DescRef
  len  : Nat
  come : Nat
  got  : List Byte
  live : Bool
  full : Bool
deriving DecidableEq, Repr

/-- The two directions of a channel to one peer (R338, R339, R341, R342, R459); `drain` counts the messages still due of a collective that ended
early: they are discarded (R371); `tackDue` says that a TACK waits for a port (R339). -/
structure EChan where
  tx     : List TxMsg
  txMsg  : Nat
  txPsn  : Nat
  unack  : List (EdgePkt × Nat)
  grant  : Nat
  port   : Option Nat
  rx     : List RxPost
  rxMsg  : Nat
  rxPsn  : Nat
  posted : Nat
  since  : Nat
  ackDue : Option Nat
  held   : Bool
  drain  : Nat
  tackDue : Bool
deriving DecidableEq, Repr

/-- An idle channel (R342): PSNs and message numbers 0. -/
def EChan.idle : EChan :=
  { tx := [], txMsg := 0, txPsn := 0, unack := [], grant := 0, port := none, rx := [], rxMsg := 0, rxPsn := 0,
    posted := 0, since := 0, ackDue := none, held := false, drain := 0, tackDue := false }

/-- A peer engine (R340, R342): down with a cause, incarnation, time of the last packet, and of the last heartbeat sent. -/
structure Peer where
  down  : Option Nat
  inc   : Nat
  heard : Option Nat
  beat  : Option Nat
deriving DecidableEq, Repr

/-- The EDGE block and the edge transport (R340 to R342, R353): peers and channels are listed by
number (peer, and 256 × peer + channel). -/
structure Edge where
  engineId : Nat
  timeout  : Nat
  ports    : Vector Port 24
  routes   : Vector (BitVec 24) 128
  pendMask : List (Nat × BitVec 24)
  peers    : List (Nat × Peer)
  chans    : List (Nat × EChan)
deriving DecidableEq, Repr

/-! ## Collectives and the press (R354 to R384) -/

/-- A range of an object's bytes that the hub reads for a collective (R366): how many bytes are asked for, and those that have come, by offset in the range. -/
structure CollRead where
  obj   : Nat
  off   : Nat
  len   : Nat
  want  : Nat
  parts : List (Nat × List Byte)
deriving DecidableEq, Repr

/-- A collective (R354 to R371, R378): the operands of its descriptor, its group, whether it runs yet (`live`), the hub doing its work once it has sent a segment, the channel toward the successor that chooses it (`toward`), its phase with
the messages received in it, the elements it holds (sums of its row-chunk, its shard, gathered pieces), its shard's norm sums, the norms by rank, the elements
written to WORK_OBJECT, the operands (received and own) of the sums that its last additions made (R367), whether its own elements still have to be written (R384), the
press record it uses, and the format code of its WORK_OBJECT; whether its phase has begun sending, what it reads from
objects for its next action, and the status and DETAIL with which a failed access ends it. -/
structure Coll where
  desc    : DescRef
  live    : Bool
  slot    : Fin 8
  cid     : Nat
  group   : List Nat
  rank    : Nat
  op      : Nat
  press   : Bool
  torus   : Bool
  bf      : Bool
  count   : Nat
  tx      : Nat
  root    : Nat
  chan    : Nat
  layer   : Nat
  srcObj  : Nat
  dstObj  : Nat
  srcOff  : Nat
  dstOff  : Nat
  hub     : Option Nat
  toward  : Nat
  phase   : Nat
  got     : Nat
  acc     : List Nat
  shard   : List Nat
  sums    : List (Nat × Nat)
  own     : Bool
  pieces  : List (Nat × List Nat)
  norms   : List (Nat × DWord × DWord × Bool)
  applied : Bool
  skipped : Bool
  written : Nat
  prec    : Option PressRec
  wf      : Nat
  begun   : Bool
  reads   : List CollRead
  fail    : Option (Nat × Nat)
deriving DecidableEq, Repr

/-! ## Bring-up, records, security, sideband (R469 to R508, R522) -/

/-- The parameter block's sections as the engine holds them (R476, R477), kept by type, and the block as a whole for the sideband buffer. -/
structure Params where
  sections : List (Nat × List Byte)
deriving DecidableEq, Repr

/-- The sideband block buffer (R479, R538). -/
structure SbBuf where
  bytes  : List Host.Cell
  state  : Nat
  reason : Nat
  used   : Bool
  late   : Bool
deriving DecidableEq, Repr

/-- One expected-topology entry (R484). -/
structure TopoEnt where
  peer : Nat
  port : Nat
  minw : Nat
  cab  : Word
deriving DecidableEq, Repr

/-- A firmware image in Vintner SRAM (R482, R492). -/
structure Firmware where
  bytes : List Byte
  ver   : Word
  arb   : Nat
  revoke : BitVec 4
deriving DecidableEq, Repr

/-- What a warm reset retains (R488): the records' sections, the running firmware with its digest, and whether the previous run reached READY without FATAL. -/
structure Retained where
  sections : List (Nat × List Byte)
  fw       : Firmware
  digest   : List Byte
  good     : Bool
deriving DecidableEq, Repr

/-- A re-admission in progress (R462 to R464). -/
structure Readmit where
  desc   : DescRef
  kind   : Nat
  index  : Nat
  retest : Bool
  stage  : Nat
  culled : Nat
  pooled : Nat
deriving DecidableEq, Repr

/-- Bring-up and records (R469 to R490): BOOT_STAT, records generation, cull list (row, column, kind), defective crossings,
expected topology, replacement flag, policy, waiting TOPOLOGY_SET and FW_LOAD descriptors, re-admissions. -/
structure Boot where
  stage    : Nat
  ready    : Bool
  path     : Nat
  wait     : Nat
  fallback : Nat
  gen      : Nat
  culls    : List (Nat × Nat × Nat)
  mapped   : List (Nat × Nat × Nat)
  xmap     : List Nat
  params   : Params
  topo     : Option (List TopoEnt)
  topoWait : List (DescRef × DWord)
  topoAt   : Nat
  replace  : Bool
  policy   : Nat
  recurH   : Nat
  readmits : List Readmit
  retained : Option Retained
  warm     : Bool
  released : Nat
  noRsv    : Nat
deriving DecidableEq, Repr

/-- Security state (R491, R495, R498, R502, R503, R507): fuses, running and staged firmware, certificate chain, challenge, unlocked scopes, whether a token was accepted;
PHY-die drops within the last second (R505). -/
structure Sec where
  keys     : Vector (List Byte) 4
  revoked  : BitVec 4
  counter  : Nat
  secret   : BitVec 384
  fw       : Option Firmware
  staged   : Option Firmware
  chain    : List Byte
  ncert    : Nat
  chal     : Option (List Byte)
  jtag     : Bool
  tmux     : Bool
  debug    : Bool
  drops    : Vector (List Nat) 8
deriving DecidableEq, Repr

/-- The TMUX block and the TAP (R521, R525, R537): registers, the driven pins, and the selected TAP instruction (0 Test-Logic-Reset, 1 IDCODE, 2 BYPASS, 3 scan). -/
structure Dbg where
  ctl    : Word
  sel    : Vector Word 16
  pins   : BitVec 16
  active : Bool
  tap    : Nat
  bypass : Bool
deriving DecidableEq, Repr

/-- The module's power condition (R511, R514): standby converter running, start in progress or done. -/
structure Module where
  standby : Bool
  running : Bool
  resetn  : Bool
  good    : Bool
  attnLow : Bool
  fatal   : Option ErrRec
  hrails  : BitVec 4
  phys    : BitVec 8
  sn      : Vector Byte 16
  srev    : BitVec 16
  mrev    : BitVec 16
  mfr     : BitVec 11
deriving DecidableEq, Repr

/-- The staging window (R135 to R137, R536): requested size, the slabs of each granted granule, whether one is under way, whether the
first access above the window since the last change has been logged, and lost slabs. -/
structure Stage where
  req      : Nat
  granules : List (List TileAt)
  busy     : Bool
  logged   : Bool
  lost     : List TileAt
deriving DecidableEq, Repr

/-- The reserved areas of R132: the slabs of the two copies and whether each is readable. -/
structure Reserved where
  area   : Area
  copies : List (List TileAt × Bool)
deriving DecidableEq, Repr

/-- A lees record (R457 to R460). -/
structure Lees where
  seq   : Nat
  bytes : List Byte
deriving DecidableEq, Repr

/-! ## What leaves the engine -/

/-- What the engine sends across its boundary or onto its networks, newest first in `State.out`. -/
inductive Out where
  | hostWrite (addr : DWord) (bytes : List Byte)
  | record (cq : Fin 64) (entry : Nat) (bytes : List Byte)
  | hostRead (tag : Nat) (addr : DWord) (len : Nat)
  | msix (vec : Nat)
  | packet (p : Packet)
  | flit (port : Fin 24) (f : Flit)
  | cxlData (off : Nat) (d : Line)
  | cxlPoison (off : Nat)
  | cxlDone (off : Nat)
  | sideband (bytes : List Byte)
  | doe (bytes : List Byte)
  | tdo (bits : List Bool)
  | hold (at_ h : Nat)
deriving DecidableEq, Repr

/-- What register reads show while MGMT is not OPEN (R531): the state as it stood when MGMT closed. -/
structure Regs where
  beats    : Beats
  tiles    : List (Nat × Tile)
  parcels  : Vector Parcel 12
  pwr      : Pwr
  progs    : Vector (Option Prog) 8
  snet     : Snet
  hostif   : Hostif
  stage    : Stage
  reserved : List Reserved
  edge     : Edge
  doms     : List (Nat × Dom)
  boot     : Boot
  sec      : Sec
  sb       : SbBuf
  dbg      : Dbg
  module   : Module
deriving DecidableEq, Repr

/-- What a word of a hub's SRAM holds (R421): a descriptor's payload, a landing buffer or egress queue, a collective segment, the state of a hub
unit, or the Vintner's own; `datapath` is no word but the hub's seal summers and press, checked by residues (R380). -/
inductive HubUse where
  | payload
  | buffer
  | segment
  | unit
  | vintner
  | datapath
deriving DecidableEq, Repr

/-- An error that the next work on it finds (R421, R425): the hub, its unit (R255), what the word holds, its number (of a datapath: the checked
point), and whether it is uncorrectable. -/
structure HubMark where
  hub  : Fin 4
  unit : Nat
  use  : HubUse
  word : Nat
  unc  : Bool
deriving DecidableEq, Repr

/-- The engine. `marks` lists errors in hub SRAM and hub datapaths that nothing has met yet (R421), `adders` marks the hubs whose adders and press are in service (R427), `moving` those that move headland buffers (R316), `deferred` holds the last value written to each register whose effect waits for MGMT, by BAR0 offset
(R531), `atClose` what register reads show while MGMT is not OPEN. `pending` is the queue of waiting commands, first in first out; `free` counts the free
values taken (the model's own field); `memo` lists the decisions that Jarbor has come to, by what it worked from:
the same input gives the same decision (R236). `time` is engine time (R8) in units of 1/15015 ns. -/
structure State where
  pending  : List Instr
  free     : Nat
  time     : Nat
  beats    : Beats
  tiles    : List (Nat × Tile)
  links    : List LinkWord
  parcels  : Vector Parcel 12
  pwr      : Pwr
  progs    : Vector (Option Prog) 8
  placing  : List Placing
  memo     : List (JarborIn × PlaceResult)
  watches  : List (Nat × Watch)
  snet     : Snet
  hostif   : Hostif
  stage    : Stage
  reserved : List Reserved
  edge     : Edge
  colls    : List Coll
  nextCid  : List (Nat × Nat)
  sealHubs : List (Nat × Nat)
  adders   : BitVec 4
  marks    : List HubMark
  moving   : BitVec 4
  deferred : List (Nat × DWord)
  atClose  : Option Regs
  log      : Log
  doms     : List (Nat × Dom)
  lees     : Option Lees
  leesSeq  : Nat
  boot     : Boot
  sec      : Sec
  sb       : SbBuf
  dbg      : Dbg
  module   : Module
  out      : List Out
deriving DecidableEq, Repr

/-- Why a run stops with a fault. -/
inductive Fault where
  /-- Raised by no command: every command of the table has a next state (safe). -/
  | none
deriving DecidableEq, Repr

/-- Why a command is refused. -/
inductive Refusal where
  /-- Raised by `exec` for a row without a meaning, by the row's mnemonic (safe). -/
  | notModelled (mnemonic : String)
deriving DecidableEq, Repr

/-! ## The state after cold reset -/

/-- The host interface after cold reset: the Reset columns of R532 to R534; PERST# held (R516); MSI-X entries masked (PRESUMED, log 13). -/
def Hostif.reset : Hostif :=
  { events := 0, seq := 0, vec := 0, vecEn := false, link := false, cxl := false, width := 0, speed := 0,
    hdm := false, perst := true, bars := Vector.replicate 2 0, msixEn := false, fmask := false,
    msix := Vector.replicate 64 { addr := 0, data := 0, mask := true }, pba := 0,
    sqs := Vector.replicate 64 Sq.reset, cqs := Vector.replicate 64 Cq.reset, descs := [], held := [],
    reads := [], nextTag := 0, owed := [], spoilt := [], aborted := [], cache := [],
    resetAt := none, reopened := 0 }

/-- The power controller after cold reset (Reset column of R410; R406: TCAP is OP0). -/
def Pwr.reset : Pwr :=
  { ceil := 7, flowEn := false, eff := 7, tcap := 0, change := none, landedAt := 0, cmds := [], hLim := 0,
    hLim0 := 0, warn := false, hTherm := 0, fast := [], fastLow := [], asserted := 0, latch := 0, iso := 0,
    clearAt := 0, lastGrp := 0, forced := false, dies := [], dieLow := [], flow := none, pinLim := 3000,
    ilim := Vector.replicate 12 2700, pin := 0, vin := 0, volts := [], sensSel := 0,
    sens := { field := [], hub := [], phy := [] }, sampled := 0, paused := false, hotAt := none, coolAt := none, rating := [], lowMargin := [],
    hubLift := Vector.replicate 4 0, hubWait := [], mgmtForce := false, bref := false }

/-- The routers after cold reset: nothing on any link, no region UNREACHABLE. -/
def NetWires.reset : NetWires :=
  { cycle := 0, ins := [], outs := [], feeds := [], taken := [], late := [], tables := Vector.replicate 12 (Vector.replicate 2 { mask := 0, cut := [] }) }

/-- The service net after cold reset (Reset column of R276). -/
def Snet.reset : Snet :=
  { thresh := 40, window := 1, floor := 4, en := true, act := Vector.replicate 4 (40, 4, true), wins := Vector.replicate 4 (0, 64), level := Vector.replicate 4 0, quiet := Vector.replicate 4 0,
    banks := Vector.replicate 2 0, epoch := false, change := none, queued := [], inject := Vector.replicate 2 0,
    eject := Vector.replicate 2 0, rInject := Vector.replicate 2 0, rEject := Vector.replicate 2 0,
    await_ := Vector.replicate 2 0, lost := 0, flight := [], wires := NetWires.reset, conf := [], reqs := [], waiting := [], msgs := [], blocked := [], dead := [], nextTag := 0,
    bypass := [], heads := [] }

/-- The EDGE block after cold reset (Reset column of R353). -/
def Edge.reset : Edge :=
  { engineId := 0xFF, timeout := 10000, ports := Vector.replicate 24 Port.reset,
    routes := Vector.replicate 128 0, pendMask := [], peers := [], chans := [] }

/-- Bring-up state after cold reset (R473 Reset column; R426: RETIRE, 24 hours; R487: GEN starts at 1, where R539's
Reset column reads 0; log 136). -/
def Boot.reset : Boot :=
  { stage := 0, ready := false, path := 0, wait := 0, fallback := 0, gen := 1, culls := [], mapped := [], xmap := [],
    params := { sections := [] }, topo := none, topoWait := [], topoAt := 0, replace := false, policy := 0,
    recurH := 24, readmits := [], retained := none, warm := false, released := 0, noRsv := 0 }

/-- Security state after cold reset; the fuses' contents are fixed per module and the spec states none (log 10). -/
def Sec.reset : Sec :=
  { keys := Vector.replicate 4 [], revoked := 0, counter := 0, secret := 0, fw := none, staged := none, chain := [],
    ncert := 0, chal := none, jtag := false, tmux := false, debug := false, drops := Vector.replicate 8 [] }

/-- Test multiplexer and TAP after cold reset (R502, R525, R537). -/
def Dbg.reset : Dbg :=
  { ctl := 0, sel := Vector.replicate 16 0, pins := 0, active := false, tap := 0, bypass := false }

/-- The module in reset: standby supply present, ENGINE_RESETn low, no start in progress (R514); hub rails on (R520). -/
def Module.reset : Module :=
  { standby := true, running := false, resetn := false, good := false, attnLow := false, fatal := none, hrails := 0xF,
    phys := 0, sn := Vector.replicate 16 0, srev := 0, mrev := 0, mfr := 0 }

/-- The engine right after cold reset (R15, R434): every register at its Reset value, every domain OFF, no memory byte listed, an
empty queue. -/
def State.reset : State :=
  { pending := [], free := 0, time := 0, beats := { cbn := 0, wrb := 0 }, tiles := [], links := [],
    parcels := Vector.replicate 12 Parcel.reset, pwr := Pwr.reset, progs := Vector.replicate 8 none, placing := [], memo := [],
    watches := [], snet := Snet.reset, hostif := Hostif.reset,
    stage := { req := 0, granules := [], busy := false, logged := false, lost := [] }, reserved := [],
    edge := Edge.reset, colls := [], nextCid := [], sealHubs := [], adders := 0xF, marks := [], moving := 0, deferred := [], atClose := none,
    log := { recs := [], next := 0, buf := [], dropped := 0, events := [] }, doms := [], lees := none, leesSeq := 0,
    boot := Boot.reset, sec := Sec.reset,
    sb := { bytes := [], state := 0, reason := 0, used := false, late := false }, dbg := Dbg.reset,
    module := Module.reset, out := [] }

end Sys2Proof.Machine
end

