-- ==== Sys2Proof/Machine/Memory.lean ====
section
/-! DEFINITION. Lists keyed by number in rising order, and the byte memories of a tile (R113, R119,
R130): an unlisted byte reads 0, and a write of 0 removes the entry, so that equal memories are equal lists. -/

namespace Sys2Proof.Machine

/-- The entry of key `a`, or `d`. -/
def lookupD {α : Type} (d : α) : List (Nat × α) → Nat → α
  | [], _ => d
  | (k, v) :: t, a => if k = a then v else lookupD d t a

/-- The entry of key `a`, if listed. -/
def find? {α : Type} : List (Nat × α) → Nat → Option α
  | [], _ => none
  | (k, v) :: t, a => if k = a then some v else find? t a

/-- Lists `v` under key `a`, keys rising. -/
def put {α : Type} (a : Nat) (v : α) : List (Nat × α) → List (Nat × α)
  | [] => [(a, v)]
  | (k, w) :: t => if a < k then (a, v) :: (k, w) :: t else if a = k then (a, v) :: t else (k, w) :: put a v t

/-- Takes key `a` off the list. -/
def drop_ {α : Type} (a : Nat) : List (Nat × α) → List (Nat × α)
  | [] => []
  | (k, w) :: t => if a = k then t else (k, w) :: drop_ a t

/-- What an unlisted byte reads as: the self-tests leave every line zero (R130). -/
def blank : Byte := 0

/-- One byte of a memory. -/
def readByte (m : List Host.Cell) (a : Nat) : Byte := lookupD blank m a

/-- Writes one byte, keeping the canonical form. -/
def writeByte (m : List Host.Cell) (a : Nat) (b : Byte) : List Host.Cell :=
  if b = blank then drop_ a m else put a b m

/-- `n` bytes from address `a` as a number, the byte at `a` lowest (R82, R119). -/
def readLE (m : List Host.Cell) (a : Nat) : Nat → Nat
  | 0 => 0
  | n + 1 => (readByte m a).toNat + 256 * readLE m (a + 1) n

/-- Writes the low `n` bytes of `x` at `a`, lowest first. -/
def writeLE (m : List Host.Cell) (a : Nat) : Nat → Nat → List Host.Cell
  | 0, _ => m
  | n + 1, x => writeLE (writeByte m a (BitVec.ofNat 8 x)) (a + 1) n (x / 256)

/-- Writes a list of bytes from `a` upward. -/
def writeBytes (m : List Host.Cell) (a : Nat) : List Byte → List Host.Cell
  | [] => m
  | b :: t => writeBytes (writeByte m a b) (a + 1) t

/-- Reads `n` bytes from `a` upward. -/
def readBytes (m : List Host.Cell) (a : Nat) : Nat → List Byte
  | 0 => []
  | n + 1 => readByte m a :: readBytes m (a + 1) n

/-- The 64-byte line `k` (R113). -/
def readLine (m : List Host.Cell) (k : Nat) : Line := BitVec.ofNat 512 (readLE m (64 * k) 64)

/-- Writes line `k`. -/
def writeLine (m : List Host.Cell) (k : Nat) (x : Line) : List Host.Cell := writeLE m (64 * k) 64 x.toNat

/-- The canonical form: addresses strictly rising from above `lo`, no byte equal to the blank. -/
def wfFrom : Option Nat → List Host.Cell → Bool
  | _, [] => true
  | lo, (a, b) :: t => (match lo with | none => true | some l => decide (l < a)) && decide (b ≠ blank) && wfFrom (some a) t

/-- A memory in canonical form. -/
def Memory.wf (m : List Host.Cell) : Bool := wfFrom none m

/-- A number as `n` little-endian bytes. -/
def leBytes : Nat → Nat → List Byte
  | 0, _ => []
  | n + 1, x => BitVec.ofNat 8 x :: leBytes n (x / 256)

/-- Little-endian bytes as a number. -/
def ofLE : List Byte → Nat
  | [] => 0
  | b :: t => b.toNat + 256 * ofLE t

/-- The `n`-byte field at offset `o` of a structure (R10, R16). -/
def fieldLE (bs : List Byte) (o n : Nat) : Nat := ofLE ((bs.drop o).take n)

/-- Bits [hi:lo] of a number (R9). -/
def bits (x hi lo : Nat) : Nat := (x / 2 ^ lo) % 2 ^ (hi + 1 - lo)

/-- `n` zero bytes. -/
def zeros (n : Nat) : List Byte := List.replicate n 0

end Sys2Proof.Machine
end

