-- ==== Sys2Proof/Machine/Numbers.lean ====
section
/-! DEFINITION. Element formats, exact values, rounding and conversion (R81 to R83, R97 to R105), with binary64
for seals (R367) and division and square root for the press (R377). -/

namespace Sys2Proof.Machine

/-- How a floating-point format encodes infinity and NaN (R81). -/
inductive Special where
  | ieee
  | nanOnly
  | none
deriving DecidableEq, Repr

/-- A number format (R81): width, exponent and mantissa bits, bias; an integer format has no exponent. -/
structure Fmt where
  width : Nat
  ebits : Nat
  mbits : Nat
  bias  : Nat
  sp    : Special
  isInt : Bool
deriving DecidableEq, Repr

def fp32 : Fmt := ⟨32, 8, 23, 127, .ieee, false⟩
def bf16 : Fmt := ⟨16, 8, 7, 127, .ieee, false⟩
def fp8e4m3 : Fmt := ⟨8, 4, 3, 7, .nanOnly, false⟩
def fp8e5m2 : Fmt := ⟨8, 5, 2, 15, .ieee, false⟩
def fp6e3m2 : Fmt := ⟨6, 3, 2, 3, .none, false⟩
def fp6e2m3 : Fmt := ⟨6, 2, 3, 1, .none, false⟩
def fp4e2m1 : Fmt := ⟨4, 2, 1, 1, .none, false⟩
def int8 : Fmt := ⟨8, 0, 0, 0, .none, true⟩
def int4 : Fmt := ⟨4, 0, 0, 0, .none, true⟩
def int32 : Fmt := ⟨32, 0, 0, 0, .none, true⟩
/-- IEEE 754 binary64 (R367). -/
def fp64 : Fmt := ⟨64, 11, 52, 1023, .ieee, false⟩

/-- The element format of a format code (R59, R102: an MX code means its element format); 0xF is reserved. -/
def fmtOf : Nat → Option Fmt
  | 0x0 => some fp32
  | 0x1 => some bf16
  | 0x2 => some fp8e4m3
  | 0x3 => some fp8e5m2
  | 0x4 => some fp6e3m2
  | 0x5 => some fp6e2m3
  | 0x6 => some fp4e2m1
  | 0x7 => some int8
  | 0x8 => some int4
  | 0x9 => some fp8e4m3
  | 0xA => some fp8e5m2
  | 0xB => some fp6e3m2
  | 0xC => some fp6e2m3
  | 0xD => some fp4e2m1
  | 0xE => some int32
  | _ => none

/-- An exact value: NaN, an infinity, or (−1)^neg × m × 2^e. -/
inductive Val where
  | nan
  | inf (neg : Bool)
  | fin (neg : Bool) (m : Nat) (e : Int)
deriving DecidableEq, Repr

/-- The value an encoding has (R81). -/
def decodeVal (f : Fmt) (x : Nat) : Val :=
  if f.isInt then
    let h := 2 ^ (f.width - 1)
    if x < h then .fin false x 0 else .fin true (2 * h - x) 0
  else
    let neg := decide (2 ^ (f.width - 1) ≤ x)
    let mag := x % 2 ^ (f.width - 1)
    let ex := mag / 2 ^ f.mbits
    let mn := mag % 2 ^ f.mbits
    let top := 2 ^ f.ebits - 1
    if f.sp = .ieee ∧ ex = top then (if mn = 0 then .inf neg else .nan)
    else if f.sp = .nanOnly ∧ mag = 2 ^ (f.width - 1) - 1 then .nan
    else if ex = 0 then .fin neg mn (1 - (f.bias : Int) - f.mbits)
    else .fin neg (2 ^ f.mbits + mn) ((ex : Int) - f.bias - f.mbits)

/-- The magnitude encoding of the largest finite value (R81). -/
def maxFinite (f : Fmt) : Nat :=
  match f.sp with
  | .ieee => (2 ^ f.ebits - 1) * 2 ^ f.mbits - 1
  | .nanOnly => 2 ^ (f.width - 1) - 2
  | .none => 2 ^ (f.width - 1) - 1

/-- The canonical NaN of a format, or what its NaN conversion gives (R103). -/
def canonNaN (f : Fmt) : Nat :=
  match f.sp with
  | .ieee => if f.mbits = 2 then 0x7F else (2 ^ f.ebits - 1) * 2 ^ f.mbits + 2 ^ (f.mbits - 1)
  | .nanOnly => 0x7F
  | .none => 0

/-- Puts the sign bit on a magnitude encoding. -/
def withSign (f : Fmt) (neg : Bool) (mag : Nat) : Nat := if neg then 2 ^ (f.width - 1) + mag else mag

/-- An infinity in the format, or its largest finite value where it has none (R103). -/
def infOf (f : Fmt) (neg : Bool) : Nat :=
  match f.sp with
  | .ieee => withSign f neg ((2 ^ f.ebits - 1) * 2 ^ f.mbits)
  | _ => withSign f neg (maxFinite f)

/-- A magnitude beyond the largest finite value, by mode (R95, R97, R98, R103). -/
def overflowOf (f : Fmt) (rnd : Nat) (neg : Bool) : Nat :=
  match rnd with
  | 1 => withSign f neg (maxFinite f)
  | 2 => if neg then infOf f neg else withSign f neg (maxFinite f)
  | _ => infOf f neg

/-- Rounds the magnitude m / 2^k to an integer by mode RND (R97, R98); `d` is the draw of the stochastic mode. -/
def roundInt (rnd : Nat) (d : Nat) (neg : Bool) (m k : Nat) : Nat :=
  let q := m / 2 ^ k
  let r := m % 2 ^ k
  match rnd with
  | 0 => if 2 * r < 2 ^ k then q else if 2 * r > 2 ^ k then q + 1 else if q % 2 = 0 then q else q + 1
  | 1 => q
  | 2 => if neg ∧ r ≠ 0 then q + 1 else q
  | _ => if 2 ^ 32 ≤ r * 2 ^ 32 / 2 ^ k + d then q + 1 else q

/-- The integer a magnitude m × 2^e rounds to in units of 2^q. -/
def toUnits (rnd d : Nat) (neg : Bool) (m : Nat) (e q : Int) : Nat :=
  if q ≤ e then m * 2 ^ (e - q).toNat else roundInt rnd d neg m (q - e).toNat

/-- Rounds a value into a format once (R97, R98, R103). -/
def roundTo (f : Fmt) (rnd : Nat) (d : Nat) (v : Val) : Nat :=
  if f.isInt then
    let h := 2 ^ (f.width - 1)
    match v with
    | .nan => 0
    | .inf neg => if neg then h else h - 1
    | .fin neg m e =>
      let n := toUnits rnd d neg m e 0
      if neg then (if h ≤ n then h else (2 * h - n) % (2 * h)) else (if h ≤ n then h - 1 else n)
  else
    match v with
    | .nan => canonNaN f
    | .inf neg => infOf f neg
    | .fin neg m e =>
      if m = 0 then withSign f neg 0
      else
        let ex : Int := (Nat.log2 m : Int) + e
        let low : Int := 1 - (f.bias : Int)
        let q : Int := (if ex < low then low else ex) - f.mbits
        let n := toUnits rnd d neg m e q
        let mag := (q - (low - f.mbits)).toNat * 2 ^ f.mbits + n
        if maxFinite f < mag then overflowOf f rnd neg else withSign f neg mag

/-- Exact sum; an exact zero from opposite signs is +0, or −0 toward −∞ (R97, IEEE 754). -/
def addVal (rnd : Nat) : Val → Val → Val
  | .nan, _ => .nan
  | _, .nan => .nan
  | .inf a, .inf b => if a = b then .inf a else .nan
  | .inf a, .fin _ _ _ => .inf a
  | .fin _ _ _, .inf b => .inf b
  | .fin a m e, .fin b n g =>
    let lo := if e ≤ g then e else g
    let x : Int := (if a then -1 else 1) * (m * 2 ^ (e - lo).toNat : Nat)
    let y : Int := (if b then -1 else 1) * (n * 2 ^ (g - lo).toNat : Nat)
    let z := x + y
    if z = 0 then .fin (if a = b then a else rnd == 2) 0 lo
    else .fin (decide (z < 0)) z.natAbs lo

/-- The value with its sign inverted. -/
def negVal : Val → Val
  | .nan => .nan
  | .inf a => .inf (!a)
  | .fin a m e => .fin (!a) m e

/-- Exact product; ∞ × 0 is NaN (R91, R104). -/
def mulVal : Val → Val → Val
  | .nan, _ => .nan
  | _, .nan => .nan
  | .inf a, .inf b => .inf (a != b)
  | .inf a, .fin b n _ => if n = 0 then .nan else .inf (a != b)
  | .fin a m _, .inf b => if m = 0 then .nan else .inf (a != b)
  | .fin a m e, .fin b n g => .fin (a != b) (m * n) (e + g)

/-- Quotient with a sticky last bit, exact enough for one correct rounding into a format of at most 53 bits (R377). -/
def divVal : Val → Val → Val
  | .nan, _ => .nan
  | _, .nan => .nan
  | .inf _, .inf _ => .nan
  | .inf a, .fin b _ _ => .inf (a != b)
  | .fin a _ _, .inf b => .fin (a != b) 0 0
  | .fin a m e, .fin b n g =>
    if n = 0 then (if m = 0 then .nan else .inf (a != b))
    else
      let k := Nat.log2 n + 64
      let q := m * 2 ^ k / n
      let r := m * 2 ^ k % n
      .fin (a != b) (2 * q + (if r = 0 then 0 else 1)) (e - g - k - 1)

/-- Square root with a sticky last bit, for one correct rounding (R105 sqrt, R377); negative gives NaN, −0 gives −0. -/
def sqrtVal : Val → Val
  | .nan => .nan
  | .inf a => if a then .nan else .inf false
  | .fin a m e =>
    if m = 0 then .fin a 0 0
    else if a then .nan
    else
      let s : Int := if e % 2 = 0 then e - 128 else e - 127
      let n := m * 2 ^ (e - s).toNat
      let r := isqrt n
      .fin false (2 * r + (if r * r = n then 0 else 1)) (s / 2 - 1)

/-- Orders values with −0 below +0 (R104 VMIN, VMAX). -/
def leVal : Val → Val → Bool
  | .nan, _ => false
  | _, .nan => false
  | .inf a, .inf b => a || !b
  | .inf a, .fin _ _ _ => a
  | .fin _ _ _, .inf b => !b
  | .fin a m e, .fin b n g =>
    let lo := if e ≤ g then e else g
    let x := m * 2 ^ (e - lo).toNat
    let y := n * 2 ^ (g - lo).toNat
    match a, b with
    | true, false => true
    | false, true => false
    | false, false => decide (x ≤ y)
    | true, true => decide (y ≤ x)

/-- Numeric equality: the two zeros are equal, NaN equals nothing (R104). -/
def eqVal (x y : Val) : Bool :=
  match x, y with
  | .fin _ 0 _, .fin _ 0 _ => true
  | _, _ => leVal x y && leVal y x

/-- Numeric less-than (R104). -/
def ltVal (x y : Val) : Bool := leVal x y && !eqVal x y

/-- One rounded addition in a format (R104, R106). -/
def addF (f : Fmt) (rnd d a b : Nat) : Nat := roundTo f rnd d (addVal rnd (decodeVal f a) (decodeVal f b))
/-- One rounded multiplication. -/
def mulF (f : Fmt) (rnd d a b : Nat) : Nat := roundTo f rnd d (mulVal (decodeVal f a) (decodeVal f b))
/-- One rounded division. -/
def divF (f : Fmt) (a b : Nat) : Nat := roundTo f 0 0 (divVal (decodeVal f a) (decodeVal f b))
/-- One rounded square root. -/
def sqrtF (f : Fmt) (a : Nat) : Nat := roundTo f 0 0 (sqrtVal (decodeVal f a))
/-- A conversion between formats (R102, R103). -/
def convF (src dst : Fmt) (rnd d x : Nat) : Nat := roundTo dst rnd d (decodeVal src x)
/-- Whether a bit pattern is NaN or infinite. -/
def nonFinite (f : Fmt) (x : Nat) : Bool :=
  match decodeVal f x with
  | .fin _ _ _ => false
  | _ => true

/-- One draw of a core's generator (R99): the new state is the draw. -/
def xorshift (x : Word) : Word :=
  let a := x ^^^ (x <<< 13)
  let b := a ^^^ (a >>> 17)
  b ^^^ (b <<< 5)

/-- The seed of a core's generator (R100). -/
def seedOf (pseed : Word) (plot prow pcol : Nat) : Word :=
  let s := pseed + BitVec.ofNat 32 (0x9E3779B9 * (plot + 1) + 65536 * prow + pcol)
  if s = 0 then 1 else s

/-- A function of R105 at a finite FP32 input: a free value within the largest error of the exact result, `Config.vfunc` where that is one and the
nearest FP32 value elsewhere; an exp or exp2 that overflows gives +∞. -/
def vfuncNear (f : Nat) (x : Nat) (neg : Bool) (m : Nat) (e : Int) : Nat :=
  let a : Nat := m * 2 ^ (e + 256).toNat
  let n : Int := if neg then -(a : Int) else a
  if f < 2 ∧ 200 * (fixOne : Int) < n then infOf fp32 false
  else
    let y := exactFix f n m e
    let near := roundTo fp32 0 0 (.fin (decide (y < 0)) y.natAbs (-256))
    let free := (Config.vfunc f (BitVec.ofNat 32 x)).toNat
    match decodeVal fp32 near, decodeVal fp32 free with
    | .fin _ _ _, .fin b k g =>
      let c : Nat := k * 2 ^ (g + 256).toNat
      let z : Int := if b then -(c : Int) else c
      let err := errFix f y
      if (z - y).natAbs ≤ err then free else near
    | _, _ => near

/-- VFUNC on one FP32 lane (R105): the special inputs as the table gives them, sqrt correctly rounded, and elsewhere a free value within the largest
error. A NaN input gives the canonical NaN (R104). -/
def vfuncLane (f : Nat) (x : Nat) : Nat :=
  let v := decodeVal fp32 x
  let pinf := infOf fp32 false
  match v with
  | .nan => canonNaN fp32
  | .inf neg =>
    match f with
    | 0 | 1 => if neg then 0 else pinf
    | 2 => if neg then canonNaN fp32 else pinf
    | 3 => withSign fp32 neg 0
    | 4 | 5 => if neg then canonNaN fp32 else (if f = 4 then 0 else pinf)
    | 6 => if neg then 0 else 0x3F800000
    | 7 => withSign fp32 neg 0x3F800000
    | _ => if neg then withSign fp32 true 0 else pinf
  | .fin neg m e =>
    match f with
    | 2 => if m = 0 then infOf fp32 true else if neg then canonNaN fp32 else vfuncNear f x neg m e
    | 3 => if m = 0 then infOf fp32 neg
           else vfuncNear f x neg m e
    | 4 => if m = 0 then infOf fp32 neg else if neg then canonNaN fp32
           else vfuncNear f x neg m e
    | 5 => sqrtF fp32 x
    | _ => vfuncNear f x neg m e

end Sys2Proof.Machine
end

