-- ==== Sys2Proof/Machine/Ops.lean ====
section
/-! DEFINITION. The shared operations over the state: tiles and geometry, beats and holds, error records and
attention, domains, and the outcome of descriptors. -/

namespace Sys2Proof.Machine

/-- The outcome of a command. -/
abbrev Res := Host.Outcome State Fault Refusal

/-! ## Geometry and tiles (R5, R6, R25, R155) -/

/-- The number of a tile's logical coordinate. -/
def tileNo (t : TileAt) : Nat := 1024 * t.row.val + t.col.val
/-- The tile of a logical coordinate. -/
def tileAt (s : State) (t : TileAt) : Tile := lookupD Tile.free s.tiles (tileNo t)
/-- Replaces a tile. -/
def setTile (t : TileAt) (x : Tile) (s : State) : State := { s with tiles := put (tileNo t) x s.tiles }
/-- Changes a tile. -/
def updTile (t : TileAt) (f : Tile → Tile) (s : State) : State := setTile t (f (tileAt s t)) s
/-- The tile coordinate of a tile number. -/
def tileOfNo (n : Nat) : TileAt :=
  { row := ⟨n / 1024 % 768, Nat.mod_lt _ (by decide)⟩, col := ⟨n % 1024, Nat.mod_lt _ (by decide)⟩ }
/-- The parcel of a logical row and column (R6). -/
def parcelNo (r c : Nat) : Nat := 4 * (r / 256) + c / 256
/-- The parcel of a tile number. -/
def parcelOfNo (n : Nat) : Nat := parcelNo (n / 1024) (n % 1024)
/-- The parcel of a tile (R6). -/
def parcelOf (t : TileAt) : Fin 12 :=
  ⟨parcelNo t.row.val t.col.val % 12, Nat.mod_lt _ (by decide)⟩

/-- The logical neighbour at a router port: 0 N, 1 E, 2 S, 3 W (R138, R156, R157); none at the wafer's edge. -/
def neighbour (t : TileAt) (port : Nat) : Option TileAt :=
  match port with
  | 0 => if t.row.val = 0 then none else some { t with row := ⟨(t.row.val - 1) % 768, Nat.mod_lt _ (by decide)⟩ }
  | 1 => if t.col.val = 1023 then none else some { t with col := ⟨(t.col.val + 1) % 1024, Nat.mod_lt _ (by decide)⟩ }
  | 2 => if t.row.val = 767 then none else some { t with row := ⟨(t.row.val + 1) % 768, Nat.mod_lt _ (by decide)⟩ }
  | 3 => if t.col.val = 0 then none else some { t with col := ⟨(t.col.val - 1) % 1024, Nat.mod_lt _ (by decide)⟩ }
  | _ => none

/-- The good physical columns of a field-row, first to last (R155). -/
def goodCols (culls : List (Nat × Nat × Nat)) (r base : Nat) : List Nat :=
  (List.range 130).filterMap fun q =>
    if culls.any (fun e => e.1 == r && e.2.1 == base + q && decide (e.2.2 < 2)) then none else some (base + q)

/-- The physical column of logical column `c` in row `r` under a cull list; none in a row gap (R154, R155, R156). -/
def physOf (mapped : List (Nat × Nat × Nat)) (r c : Nat) : Option Nat :=
  let base := 130 * (c / 128)
  if mapped.any (fun e => e.1 == r && e.2.1 / 130 == c / 128 && decide (e.2.2 < 2)) then
    let good := goodCols mapped r base
    if good.length < 128 then none else good[c % 128]?
  else some (base + c % 128)

/-- The physical column of logical column `c` in row `r`. The cull list is the one mapped at the latest start or re-admission. -/
def physCol (s : State) (r c : Nat) : Option Nat := physOf s.boot.mapped r c

/-- Whether a row gap takes a tile off the logical grid (R138, R155, R158). -/
def inGap (s : State) (t : TileAt) : Bool := (physCol s t.row.val t.col.val).isNone

/-- The headland a tile belongs to (R26). -/
def headlandOf (t : TileAt) : Option Nat :=
  let r := t.row.val
  let c := t.col.val
  if 352 ≤ r ∧ r < 416 ∧ c < 8 then some 0
  else if r < 8 ∧ 480 ≤ c ∧ c < 544 then some 1
  else if 352 ≤ r ∧ r < 416 ∧ 1016 ≤ c then some 2
  else if 760 ≤ r ∧ 480 ≤ c ∧ c < 544 then some 3
  else none

/-- A tile's local SRAM or slab. -/
def memOf (x : Tile) : MemSpace → List Host.Cell
  | .sram => x.sram
  | .slab => x.slab
/-- Replaces a tile's local SRAM or slab. -/
def setMem (x : Tile) (m : MemSpace) (b : List Host.Cell) : Tile :=
  match m with
  | .sram => { x with sram := b }
  | .slab => { x with slab := b }

/-- A number as a `Fin`, taken modulo its bound. -/
def fin8 (n : Nat) : Fin 8 := ⟨n % 8, Nat.mod_lt _ (by decide)⟩
def fin4 (n : Nat) : Fin 4 := ⟨n % 4, Nat.mod_lt _ (by decide)⟩
def fin12 (n : Nat) : Fin 12 := ⟨n % 12, Nat.mod_lt _ (by decide)⟩
def fin24 (n : Nat) : Fin 24 := ⟨n % 24, Nat.mod_lt _ (by decide)⟩
def fin48 (n : Nat) : Fin 48 := ⟨n % 48, Nat.mod_lt _ (by decide)⟩
def fin64 (n : Nat) : Fin 64 := ⟨n % 64, Nat.mod_lt _ (by decide)⟩
def fin128 (n : Nat) : Fin 128 := ⟨n % 128, Nat.mod_lt _ (by decide)⟩

/-- The number of a hub (R255). -/
def hubNum : Hub → Nat
  | .w => 0
  | .n => 1
  | .e => 2
  | .s => 3

/-! ## Parcels, programs, beats and holds (R141, R163 to R166, R386) -/

def updParcel (p : Fin 12) (f : Parcel → Parcel) (s : State) : State :=
  { s with parcels := s.parcels.set p (f s.parcels[p]) }
def prog? (s : State) (k : Fin 8) : Option Prog := s.progs[k]
def setProg (k : Fin 8) (p : Option Prog) (s : State) : State := { s with progs := s.progs.set k p }
/-- Changes a resident program. -/
def updProg (k : Fin 8) (f : Prog → Prog) (s : State) : State := setProg k ((prog? s k).map f) s

/-- Engine time in nanoseconds (R8). -/
def nsNow (s : State) : Nat := s.time / unitsPerNs
/-- Microseconds in time units. -/
def us (n : Nat) : Nat := 1000 * n * unitsPerNs
/-- Milliseconds in time units. -/
def ms (n : Nat) : Nat := 1000000 * n * unitsPerNs

/-- The beat period of an operating point in time units (R386: 16/N ns). -/
def period (op : Nat) : Nat :=
  match op with
  | 0 => 8580
  | 1 => 9240
  | 2 => 10010
  | 3 => 10920
  | 4 => 12012
  | 5 => 15015
  | 6 => 20020
  | _ => 34320

/-- The PLL multiplier N of an operating point (R386). -/
def pllMult (op : Nat) : Nat :=
  match op with
  | 0 => 28
  | 1 => 26
  | 2 => 24
  | 3 => 22
  | 4 => 20
  | 5 => 16
  | 6 => 12
  | _ => 7

/-- V_nom of an operating point in mV (R386). -/
def vnom (op : Nat) : Nat :=
  match op with
  | 0 => 720
  | 1 => 705
  | 2 => 690
  | _ => 680

/-- The logic-rail voltage of a parcel at an operating point (R392). -/
def railMv (p : Parcel) (op : Nat) : Nat :=
  let v : Int := vnom op + p.offset + 10 * p.trim
  (max 680 (min 800 v)).toNat

/-- Reverses the order of six bits (R164). -/
def bitrev6 (n : Nat) : Nat :=
  32 * (n % 2) + 16 * (n / 2 % 2) + 8 * (n / 4 % 2) + 4 * (n / 8 % 2) + 2 * (n / 16 % 2) + n / 32 % 2

/-- The hold count that governs beat `cbn`: of the commands whose S has come, the one issued last (R164). Commands are
listed newest first. -/
def inForce (cmds : List HoldCmd) (cbn : Nat) : Nat :=
  match cmds with
  | [] => 0
  | c :: t => if c.at_ ≤ cbn then c.h else inForce t cbn

/-- Whether beat `cbn` is a hold beat (R164). -/
def isHold (s : State) (cbn : Nat) : Bool := decide (bitrev6 (cbn % 64) < inForce s.pwr.cmds cbn)

/-- Whether the present clock beat is a hold beat. -/
def holdNow (s : State) : Bool := isHold s s.beats.cbn

/-- Whether a parcel is powered, locked and not stopped for good: its beat clock runs but for a stop of all clocks (R165, R387). -/
def parcelUp (s : State) (p : Fin 12) : Bool :=
  let x := s.parcels[p]
  (x.st == .on || x.st == .evacuating) && x.logicOn && x.locked &&
  (match x.stopAt with | none => true | some n => decide (s.beats.cbn < n))

/-- Whether the beat clocks stand still by an operating-point change or a flow stop (R166, R403). -/
def clocksHeld (s : State) : Bool :=
  (match s.pwr.change with
   | none => false
   | some c => c.step == .stopped || (c.step == .announced && decide (c.stopAt ≤ s.beats.cbn))) ||
  s.pwr.flow.isSome

/-- Whether a parcel's beat clock runs in the present beat (R34, R165, R387, R403). -/
def parcelRuns (s : State) (p : Fin 12) : Bool := parcelUp s p && !clocksHeld s

/-- Whether any beat clock runs. -/
def anyRuns (s : State) : Bool := (List.finRange 12).any (parcelRuns s)

/-- The program beat number (R141). -/
def progBeat (s : State) (g : Prog) : Nat := s.beats.wrb - g.start

/-- Whether a program passes running beats now: started and not halted (R190). -/
def progRuns (s : State) (g : Prog) : Bool :=
  g.running && decide (g.start ≤ s.beats.wrb) &&
  (match g.haltAt with | none => true | some h => decide (progBeat s g < h))

/-- Whether a tile number belongs to a program's footprint (R147, R237). -/
def inFoot (k : Fin 8) (x : Tile) : Bool := (x.placed && x.pslot == k) || x.router.owner == k.val

/-- What a program's placement writes into a headland router: its drives there belong to its footprint (R160). -/
def headDrives (g : Prog) (t : TileAt) : List (Nat × DWord) :=
  (g.place.tiles.filter fun c => c.at_ == t && (headlandOf c.at_).isSome).flatMap (·.entries)

/-- Whether a program's footprint touches a parcel, by its tiles or by its drives in headland routers (R160). -/
def touches (s : State) (k : Fin 8) (p : Fin 12) : Bool :=
  (s.tiles.any fun e => parcelOfNo e.1 == p.val && inFoot k e.2) ||
  (match prog? s k with
   | some g => g.place.tiles.any fun c => parcelOf c.at_ == p && (headlandOf c.at_).isSome && !c.entries.isEmpty
   | none => false)

/-- The program slots whose footprint holds a tile. -/
def ownersOf (x : Tile) : List (Fin 8) := (List.finRange 8).filter fun k => inFoot k x

/-- The program slots whose footprint holds a tile or drives of its headland router (R160). -/
def usersOf (s : State) (t : TileAt) : List (Fin 8) :=
  (List.finRange 8).filter fun k => inFoot k (tileAt s t) || (match prog? s k with
    | some g => !(headDrives g t).isEmpty
    | none => false)

/-! ## Free values -/

/-- A free 64-bit value, and the state with the counter past it. -/
def freeDWord (s : State) : Nat × State :=
  ((Config.freeWord s.free).toNat + 2 ^ 32 * (Config.freeWord (s.free + 1)).toNat, { s with free := s.free + 2 })

/-! ## Domains (R433, R435, R441) -/

def engineCode : Nat := 0x0000
def mgmtCode : Nat := 0x0100
def hostifCode : Nat := 0x0200
def hubCode (h : Nat) : Nat := 0x0300 + h
def edgeCode (n : Nat) : Nat := 0x0400 + n
def parcelCode (p : Nat) : Nat := 0x0500 + p
def cellarCode (p : Nat) : Nat := 0x0600 + p
def progCode (k : Nat) : Nat := 0x0700 + k

/-- Whether a domain code names a domain (R433). -/
def codeOk (c : Nat) : Bool :=
  let i := c % 256
  match c / 256 with
  | 0 => i == 0
  | 1 => i == 0
  | 2 => i == 0
  | 3 => decide (i < 4)
  | 4 => decide (i < 24)
  | 5 => decide (i < 12)
  | 6 => decide (i < 12)
  | 7 => decide (i < 8)
  | _ => false

def dom (s : State) (c : Nat) : Dom := lookupD Dom.off s.doms c
def setDom (c : Nat) (d : Dom) (s : State) : State := { s with doms := put c d s.doms }
def updDom (c : Nat) (f : Dom → Dom) (s : State) : State := setDom c (f (dom s c)) s
/-- Moves a domain to a state, now. -/
def domTo (c : Nat) (st : DomSt) (s : State) : State := updDom c (fun d => { d with st := st, since := s.time }) s
def isOpen (s : State) (c : Nat) : Bool := (dom s c).st == .opened

/-- The code of a domain state (R435). -/
def DomSt.code : DomSt → Nat
  | .off => 0
  | .opening => 1
  | .opened => 2
  | .closing => 3
  | .closed => 4

/-- The state word of a domain (R441). -/
def stateWord (d : Dom) : Nat :=
  d.st.code + (if d.pend then 8 else 0) + (if d.held then 16 else 0) + (if d.lees then 32 else 0) +
  256 * d.cause + 2 ^ 32 * d.rseq

/-! ## Rings (R296 to R300) -/

/-- Entries of an SQ, and the published ones not yet fetched (R299). -/
def sqSize (q : Sq) : Nat := 2 ^ q.log2
def sqReady (q : Sq) : Nat := (q.tail + sqSize q - q.head) % sqSize q
/-- Entries of a CQ, and the written ones that the host has not freed. -/
def cqSize (q : Cq) : Nat := 2 ^ q.log2
def cqUsed (q : Cq) : Nat := (q.widx + cqSize q - q.head) % cqSize q
/-- Free CQ entries (R300): a head equal to the present one frees nothing (R299), so a ring holds one record fewer than its entries. -/
def cqFree (q : Cq) : Nat := if q.en then cqSize q - 1 - cqUsed q - q.resv else 0

/-! ## Attention and MSI-X (R313, R314, R461) -/

/-- What leaves the engine, newest first. -/
def emit (o : Out) (s : State) : State := { s with out := o :: s.out }

/-- Signals an MSI-X vector (R314): dropped while HOSTIF is not OPEN or MSI-X Enable is 0, pending while masked. -/
def signal (v : Nat) (s : State) : State :=
  if !isOpen s hostifCode || !s.hostif.msixEn then s
  else if s.hostif.fmask || (s.hostif.msix[fin64 v]).mask then
    { s with hostif := { s.hostif with pba := s.hostif.pba ||| (1 <<< (v % 64)) } }
  else emit (.msix (v % 64)) s

/-- An attention event is applied: its bit is set and SEQ is incremented, and the vector is signalled if enabled (R313, R314). -/
def attnApply (b : Nat) (s : State) : State :=
  let h := s.hostif
  let s' := { s with hostif := { h with events := h.events ||| (1 <<< b), seq := h.seq + 1 } }
  if h.vecEn then signal h.vec s' else s'

/-- An attention event: applied at once, or kept until MGMT reopens (R461). -/
def attn (b : Nat) (s : State) : State :=
  if isOpen s mgmtCode then attnApply b s else { s with log := { s.log with events := s.log.events ++ [b] } }

/-- The attention word (R313). -/
def attnWord (s : State) : Nat := s.hostif.events.toNat + 256 * s.hostif.seq.toNat

def attnErrLog : Nat := 0
def attnThermal : Nat := 1
def attnPower : Nat := 2
def attnProgFault : Nat := 3
def attnLink : Nat := 4
def attnTopology : Nat := 5
def attnSuspect : Nat := 6
def attnFw : Nat := 7

/-! ## Error records (R413 to R420, R455, R461) -/

/-- A blank record of a source and severity, detected now: no tile, no operation, no reading. -/
def blankRec (s : State) (src sev : Nat) : ErrRec :=
  { time := nsNow s, rseq := 0, sev := sev, src := src, ecode := 0, ukind := 0, row := 0xFFFF, lcol := 0xFFFF,
    pcol := 0xFFFF, unit := 0, okind := 0, pslot := 0, psv := false, task := 0, opword := 0, opaux := 0,
    beat := s.beats.cbn, temp := 0x8000, volt := 0, count := 1, info := 0, last := s.time, again := false }

/-- The reading of a sensor list, as TEMP carries it (R413: 0x8000 for no reading). -/
def tempOf (l : List Nat) (i : Nat) : Nat := (l[i]?).getD 0x8000

/-- The hotter of two readings; no reading if neither is there. -/
def hotter (a b : Nat) : Nat := if a = 0x8000 then b else if b = 0x8000 then a else max a b

/-- The 64 sensor indices of a parcel: its four fields' sensors (R6, R404). -/
def parcelSensors (p : Nat) : List Nat :=
  let f (fr fc : Nat) : List Nat := (List.range 16).map fun k => 16 * (8 * fr + fc) + k
  let fr := 2 * (p / 4)
  let fc := 2 * (p % 4)
  f fr fc ++ f fr (fc + 1) ++ f (fr + 1) fc ++ f (fr + 1) (fc + 1)

/-- The hottest sensor of a parcel (R410 TMAX); 0x8000 for no reading. -/
def parcelHot (f : SensorFrame) (p : Nat) : Nat :=
  (parcelSensors p).foldl (fun a i => hotter a (tempOf f.field i)) 0x8000

/-- The sensor nearest a tile (R418). -/
def tileTemp (s : State) (r pc : Nat) : Nat :=
  let k := 4 * (r % 128 / 32) + 4 * (pc % 130) / 130
  tempOf s.pwr.sens.field (16 * (8 * (r / 128) + pc / 130) + k)

/-- The voltage of a power-stage group's rail in the latest telemetry (R418). -/
def groupVolt (s : State) (g : Nat) : Nat := (s.pwr.volts[g]?).getD 0

/-- The PHY rail's power-stage group of PHY die 2h + x (R400). -/
def phyGroup (d : Nat) : Nat := 40 + 4 * (d % 2) + d / 2

/-- The PHY die of an edge port, as 2h + x (R24). -/
def phyOf (n : Nat) : Nat := n / 3

/-- The hub of an edge port (R24). -/
def hubOf (n : Nat) : Nat := n / 6

/-- A record that names a tile's unit of kind `uk`: core tile 0, slab 1, router 2 or crossing 10 (R414, R418). -/
def tileRec (s : State) (src sev uk unit : Nat) (t : TileAt) : ErrRec :=
  let r := t.row.val
  let pc := physCol s r t.col.val
  let p := parcelNo r t.col.val
  { blankRec s src sev with
    ukind := uk, unit := unit, row := r, lcol := t.col.val, pcol := pc.getD 0xFFFF,
    temp := tileTemp s r (pc.getD (130 * (t.col.val / 128) + t.col.val % 128)),
    volt := if uk = 1 then groupVolt s (24 + p) else groupVolt s (2 * p) }

/-- A record that names a program's operation: slot and program beat (R413, R415). -/
def withProg (s : State) (k : Fin 8) (e : ErrRec) : ErrRec :=
  { e with pslot := k.val, psv := true, beat := match prog? s k with | some g => progBeat s g | none => e.beat }

/-- A record of a hub unit (R414, R418). -/
def hubRec (s : State) (src sev h unit : Nat) : ErrRec :=
  { blankRec s src sev with
    ukind := 4, unit := 2 * 2 ^ 22 + 4 * unit + h, temp := hotter (tempOf s.pwr.sens.hub (2 * h)) (tempOf s.pwr.sens.hub (2 * h + 1)),
    volt := groupVolt s (36 + h) }

/-- A record of an edge port (R414, R418). -/
def portRec (s : State) (src sev n : Nat) : ErrRec :=
  let d := phyOf n
  { blankRec s src sev with
    ukind := 5, unit := n, temp := hotter (tempOf s.pwr.sens.phy (2 * d)) (tempOf s.pwr.sens.phy (2 * d + 1)),
    volt := groupVolt s (phyGroup d) }

/-- A record of a parcel (R414, R418). -/
def parcelRec (s : State) (src sev : Nat) (p : Fin 12) : ErrRec :=
  { blankRec s src sev with
    ukind := 7, unit := p.val, temp := parcelHot s.pwr.sens p.val, volt := groupVolt s (2 * p.val) }

/-- A record of a power-stage group, with its rail's voltage (R414, R418). -/
def groupRec (s : State) (src sev : Nat) (g : Fin 48) (volt : Nat) : ErrRec :=
  let i := g.val
  let t := if i < 36 then parcelHot s.pwr.sens (if i < 24 then i / 2 else i - 24)
    else if i < 40 then hotter (tempOf s.pwr.sens.hub (2 * (i - 36))) (tempOf s.pwr.sens.hub (2 * (i - 36) + 1))
    else
      let d := 2 * ((i - 40) % 4) + (i - 40) / 4
      hotter (tempOf s.pwr.sens.phy (2 * d)) (tempOf s.pwr.sens.phy (2 * d + 1))
  { blankRec s src sev with ukind := 6, unit := i, temp := t, volt := volt }

/-- A record of a program slot, of the host link, or of management (R414, R418). -/
def slotRec (s : State) (src sev : Nat) (k : Fin 8) : ErrRec :=
  withProg s k { blankRec s src sev with ukind := 8, unit := k.val }
def linkRec (s : State) (src sev : Nat) : ErrRec := { blankRec s src sev with ukind := 9 }
/-- A management record names the Vintner, hub unit 0 of HUB-W (R255, R416 SRC 0x21). -/
def mgmtRec (s : State) (cls low : Nat) : ErrRec := { hubRec s 0x21 0 0 0 with info := 2 ^ 56 * cls + low }

/-- Saturating sum at 2^32 − 1. -/
def sat32 (n : Nat) : Nat := min n 0xFFFFFFFF

/-- Whether a new record merges into a logged one (R420; an edge link event only with one of its kind, R352; the staging
window has one record for each granule, R137). -/
def merges (old new : ErrRec) : Bool :=
  decide (new.sev ≤ 1) && decide (old.sev ≤ 1) && old.src == new.src && old.ecode == new.ecode &&
  old.ukind == new.ukind && old.unit == new.unit && old.row == new.row && old.lcol == new.lcol && old.pcol == new.pcol &&
  (if new.src == 2 || new.src == 3 then old.info % 1024 == new.info % 1024
   else if new.src == 0x11 then old.info % 16 == new.info % 16
   else if new.src == 0x1C then old.info == new.info else true) &&
  (new.again || decide (new.last ≤ old.last + ms 1))

/-- INFO of a record that takes an occurrence in: a firewall record's number of drops covers that too (R506); any other keeps its own (R420). -/
def infoTaken (e new : ErrRec) : Nat :=
  if e.src = 0x21 ∧ e.info / 2 ^ 56 = 1 ∧ new.info / 2 ^ 56 = 1 then 2 ^ 56 + sat32 (e.info % 2 ^ 56 + new.info % 2 ^ 56) else e.info

/-- Adds an occurrence to the first record that takes it (R420); none if none does. -/
def mergeInto (new : ErrRec) : List ErrRec → Option (List ErrRec)
  | [] => none
  | e :: t =>
    if merges e new then some ({ e with count := sat32 (e.count + new.count), last := new.last, info := infoTaken e new } :: t)
    else (mergeInto new t).map (e :: ·)

/-- Logs a record now: merged, or given the next RSEQ, the oldest overwritten when the ring of 4,096 is full; ERR_LOG is set (R419,
R420, R455). -/
def logNow (e : ErrRec) (s : State) : State :=
  match (if e.again then (mergeInto e s.log.recs.reverse).map List.reverse else mergeInto e s.log.recs) with
  | some l => { s with log := { s.log with recs := l } }
  | none =>
    let l := if s.log.recs.length < 4096 then s.log.recs else s.log.recs.drop 1
    attnApply attnErrLog
      { s with log := { s.log with recs := l ++ [{ e with rseq := s.log.next }], next := (s.log.next + 1) % 2 ^ 32 } }

/-- The first buffered record of severity CORRECTED or RECOVERED taken out. -/
def dropMinor : List (ErrRec × List Nat) → Option (List (ErrRec × List Nat))
  | [] => none
  | e :: t => if e.1.sev ≤ 1 then some t else (dropMinor t).map (e :: ·)

/-- Buffers a record while MGMT is not OPEN (R461), with the domains whose fences it starts. -/
def logBuffer (e : ErrRec) (ds : List Nat) (s : State) : State :=
  if s.log.buf.length < 1024 then { s with log := { s.log with buf := s.log.buf ++ [(e, ds)] } }
  else if e.sev = 2 ∨ e.sev = 4 then
    match dropMinor s.log.buf with
    | some b => { s with log := { s.log with buf := b ++ [(e, ds)], dropped := s.log.dropped + 1 } }
    | none => { s with log := { s.log with dropped := s.log.dropped + 1 } }
  else { s with log := { s.log with dropped := s.log.dropped + 1 } }

/-- Logs a record (R413), or buffers it while MGMT is not OPEN (R461). -/
def logRec (e : ErrRec) (s : State) : State :=
  if isOpen s mgmtCode then logNow e s else logBuffer e [] s

/-- The RSEQ that a record logged now takes; 0xFFFF_FFFF while it waits for MGMT (R441, R461). -/
def nextRseq (s : State) : Nat := if isOpen s mgmtCode then s.log.next else 0xFFFFFFFF

/-- Logs a record that starts the fences of the domains `ds`. -/
def logFor (e : ErrRec) (ds : List Nat) (s : State) : State :=
  if isOpen s mgmtCode then logNow e s else logBuffer e ds s

/-- Logs a management event of a class; each sets FW_EVENT (R313, R417, R474). -/
def logEvent (cls low : Nat) (s : State) : State := attn attnFw (logRec (mgmtRec s cls low) s)

/-- A record as its 64 bytes (R413). -/
def recBytes (e : ErrRec) : List Byte :=
  leBytes 8 e.time ++ leBytes 4 e.rseq ++ leBytes 1 e.sev ++ leBytes 1 e.src ++ leBytes 2 e.ecode ++
  leBytes 1 e.ukind ++ zeros 1 ++ leBytes 2 e.row ++ leBytes 2 e.lcol ++ leBytes 2 e.pcol ++ leBytes 4 e.unit ++
  leBytes 1 e.okind ++ leBytes 1 (e.pslot + (if e.psv then 8 else 0) + 16 * e.task) ++ zeros 2 ++
  leBytes 4 e.opword ++ leBytes 4 e.opaux ++ leBytes 8 e.beat ++ leBytes 2 e.temp ++ leBytes 2 e.volt ++
  leBytes 4 e.count ++ leBytes 8 e.info

/-! ## Descriptors and their outcomes (R303, R310, R311, R453) -/

/-- Status codes (R311). -/
def stOk : Nat := 0x00
def stBad : Nat := 0x02
def stNotReady : Nat := 0x03
def stNoProgram : Nat := 0x04
def stFenced : Nat := 0x05
def stReopen : Nat := 0x06
def stPeerDown : Nat := 0x07
def stPlacement : Nat := 0x08
def stUncorr : Nat := 0x09
def stSeal : Nat := 0x0A
def stTimeout : Nat := 0x0B
def stAborted : Nat := 0x0C
def stAuth : Nat := 0x0D
def stLimit : Nat := 0x0E
def stAccess : Nat := 0x0F

/-- The fetched, uncompleted descriptor of a reference. -/
def descOf (s : State) (d : DescRef) : Option Desc := s.hostif.descs.find? fun x => x.ref == d

/-- Changes a descriptor in place. -/
def updDesc (d : DescRef) (f : Desc → Desc) (s : State) : State :=
  { s with hostif := { s.hostif with descs := s.hostif.descs.map fun x => if x.ref == d then f x else x } }

/-- Decides a descriptor's outcome, unless one is decided already (R453). -/
def decideDesc (d : DescRef) (status detail : Nat) (s : State) : State :=
  updDesc d (fun x => match x.outc with
    | some _ => x
    | none => { x with outc := some { status := status, detail := detail, time := nsNow s } }) s

/-- The opcode of a descriptor (R303). -/
def opcOf (x : Desc) : Nat := fieldLE x.bytes 0 1
/-- The field of `n` bytes at offset `o` of a descriptor. -/
def fld (x : Desc) (o n : Nat) : Nat := fieldLE x.bytes o n

/-- The program slot a descriptor names (R305, R308, R317, R345, R356, R373). -/
def slotOf (x : Desc) : Option (Fin 8) :=
  let o := opcOf x
  if 0x10 ≤ o ∧ o ≤ 0x14 then some (fin8 (fld x 48 1))
  else if 0x18 ≤ o ∧ o ≤ 0x1B then some (fin8 (fld x 33 1))
  else if o = 0x20 then some (fin8 (fld x 40 1))
  else if o = 0x30 ∨ o = 0x31 then (if fld x 30 1 % 4 = 1 ∨ fld x 30 1 % 4 = 2 then some (fin8 (fld x 31 1)) else none)
  else if o = 0x32 then some (fin8 (fld x 53 1))
  else if o = 0x33 then some (fin8 (fld x 28 1))
  else none

/-- DETAIL of FENCED (R452). -/
def fencedDetail (code : Nat) (sqwait done : Bool) : Nat :=
  code + (if sqwait then 0x10000 else 0) + (if done then 2 ^ 63 else 0)

/-- Whether an outcome is the fence of a program slot since a time (R79, R452): no other domain's, none of FENCE_WAIT, and none decided before. -/
def fencedBy (k : Fin 8) (since : Nat) (o : Outc) : Bool :=
  o.status == stFenced && o.detail % 2 ^ 17 == progCode k.val && decide (since ≤ o.time)

/-- The SQs with an uncompleted or earlier descriptor of a program (R79). -/
def boundSqs (g : Prog) : List (Fin 64) := g.sqs

end Sys2Proof.Machine
end

