-- ==== Sys2Proof/Machine/Router.lean ====
section
/-! DEFINITION. The service net between its endpoints: endpoints and gateways, the routers' tables, and packets on their way as flits through the routers' inputs
(R31, R32, R253 to R263, R275, R278, R279, R283, R287). The routers run in `tick`, one SNET cycle after the other; the command that brings a packet to its endpoint takes
what is left of it off the net. -/

namespace Sys2Proof.Machine

/-- The service routers that hold a hub's 8 gateways (R32). -/
def gateways (h : Nat) : List (Nat × Nat) :=
  (List.range 8).map fun g => match h with
    | 0 => (12 * g + 6, 0)
    | 1 => (0, 16 * g + 8)
    | 2 => (12 * g + 6, 127)
    | _ => (95, 16 * g + 8)

/-! ## Endpoints (R255) -/

/-- The endpoint of a hub unit (R255). -/
def hubEp (h unit : Nat) : BitVec 24 := BitVec.ofNat 24 (2 * 2 ^ 22 + 4 * unit + h)
/-- The endpoint of a core (R255). -/
def coreEp (t : TileAt) : BitVec 24 :=
  let r := t.row.val
  let c := t.col.val
  BitVec.ofNat 24 (r / 8 + 2 ^ 7 * (c / 8) + 2 ^ 14 * (8 * (r % 8) + c % 8))
def epKind (e : BitVec 24) : Nat := e.toNat / 2 ^ 22
def epHub (e : BitVec 24) : Nat := e.toNat % 4
def epUnit (e : BitVec 24) : Nat := e.toNat / 4 % 32
def epA (e : BitVec 24) : Nat := e.toNat % 128
def epB (e : BitVec 24) : Nat := e.toNat / 2 ^ 7 % 128
def epK (e : BitVec 24) : Nat := e.toNat / 2 ^ 14 % 64
/-- The Vintner. -/
def vintner : BitVec 24 := hubEp 0 0
/-- The tile of a core endpoint. -/
def epTile (e : BitVec 24) : TileAt := tileOfNo (1024 * (8 * epA e + epK e / 8) + 8 * epB e + epK e % 8)

/-- Whether a hub has a unit (R255). -/
def unitIn (h u : Nat) : Bool :=
  match u with
  | 0 => h == 0
  | 1 => true
  | 2 => true
  | 3 => true
  | 4 => h == 0
  | 5 => h == 0
  | 6 => true
  | _ => false

/-- Whether an endpoint ID names something: no reserved value, unit present (R255). -/
def epOk (e : BitVec 24) : Bool :=
  match epKind e with
  | 0 => decide (epA e < 96) && e.toNat / 2 ^ 20 % 4 == 0
  | 1 => decide (epA e < 96) && e.toNat / 2 ^ 14 % 256 == 0
  | 2 => e.toNat / 2 ^ 7 % 2 ^ 15 == 0 && unitIn (epHub e) (epUnit e)
  | _ => false

/-- The destination region of an endpoint: a parcel, or 12 + h for a hub (R278). -/
def epRegion (e : BitVec 24) : Nat :=
  match epKind e with
  | 0 => (parcelOf (epTile e)).val
  | 1 => parcelNo (8 * epA e) (8 * epB e)
  | _ => 12 + epHub e

/-- The parcel of a service router. -/
def routerParcel (r : Nat × Nat) : Nat := parcelNo (8 * r.1) (8 * r.2)

/-- Steps outside an interval. -/
def outside (lo hi x : Nat) : Nat := (lo - x) + (x - hi)

/-- Router hops from a router to a region (R278): a parcel's 32 × 32 routers, or a hub's nearest gateway. -/
def hopsTo (r : Nat × Nat) (region : Nat) : Nat :=
  if region < 12 then
    outside (32 * (region / 4)) (32 * (region / 4) + 31) r.1 + outside (32 * (region % 4)) (32 * (region % 4) + 31) r.2
  else ((gateways (region - 12)).map fun g => outside g.1 g.1 r.1 + outside g.2 g.2 r.2).foldl min 1000


/-! ## Counts (R279, R280) -/

def bump (v : Vector Nat 2) (e : BitVec 1) (n : Nat) : Vector Nat 2 :=
  let i : Fin 2 := if e = 1 then 1 else 0
  v.set i (v[i] + n)

/-- Counts a packet as injected in its epoch. -/
def countIn (p : Packet) (s : State) : State :=
  let n := s.snet
  if p.vcr = 0 then { s with snet := { n with inject := bump n.inject p.epoch 1 } }
  else { s with snet := { n with rInject := bump n.rInject p.epoch 1 } }

/-- Counts a packet as ejected in its epoch. -/
def countOut (p : Packet) (s : State) : State :=
  let n := s.snet
  if p.vcr = 0 then { s with snet := { n with eject := bump n.eject p.epoch 1 } }
  else { s with snet := { n with rEject := bump n.rEject p.epoch 1 } }

/-- Packets and responses that the net or a requester has discarded (R269, R279, R283, R285). -/
def countLost (s : State) : State := { s with snet := { s.snet with lost := s.snet.lost + 1 } }

/-! ## Tables and ways (R254, R262, R263, R278) -/

/-- The bank of an epoch. -/
def bankOf (e : BitVec 1) : Fin 2 := if e = 1 then 1 else 0

/-- Whether a parcel's routers have power: in a flow stop they stand, with what they hold (R403). -/
def netLive (s : State) (p : Nat) : Bool :=
  let st := s.parcels[fin12 p].st
  st == .on || st == .evacuating || st == .retained

/-- The gateway through which a hub injects to a region, as its bank names it (R278): in an ON parcel with the fewest hops; of equals the lowest-numbered (log 130). -/
def gatewayFor (s : State) (e : BitVec 1) (h region : Nat) : Nat × Nat :=
  let l := (gateways h).filter fun g => !(s.snet.banks[bankOf e]).getLsbD (routerParcel g)
  match l with
  | [] => ((gateways h).head?).getD (0, 0)
  | g :: t => t.foldl (fun a b => if hopsTo b region < hopsTo a region then b else a) g

/-- The router and port at which an endpoint meets the net, of a hub the gateway for the region at the other end (R253, R278). -/
def netPort (s : State) (e : BitVec 1) (ep : BitVec 24) (other : Nat) : (Nat × Nat) × Nat :=
  match epKind ep with
  | 0 => ((epA ep, epB ep), 5 + epK ep)
  | 1 => ((epA ep, epB ep), 69)
  | _ => (gatewayFor s e (epHub ep) other, 4)

/-- Where a packet goes in, and where it comes out. -/
def netEntry (s : State) (p : Packet) : (Nat × Nat) × Nat := netPort s p.epoch p.src (epRegion p.dst)
def netExit (s : State) (p : Packet) : (Nat × Nat) × Nat := netPort s p.epoch p.dst (epRegion p.src)

/-- The table bank of a router (R278). -/
def tableAt (s : State) (r : Nat × Nat) (e : BitVec 1) : NetTable := (s.snet.wires.tables[fin12 (routerParcel r)])[bankOf e]

/-- Whether a bank was computed with every parcel ON and no router bypassed. -/
def NetTable.whole (t : NetTable) : Bool := t.mask &&& 0xFFF == 0 && t.cut.isEmpty

/-- The output on the way along the row to a router's column, then along the column (R262). -/
def rowFirst (a b : Nat × Nat) : Nat := if a.2 < b.2 then 1 else if b.2 < a.2 then 3 else if a.1 < b.1 then 2 else 0

/-- The outputs a router permits to an ADAPTIVE packet with all parcels ON (R263): 0 N, 1 E, 2 S, 3 W; moves north and west come before moves south and east. -/
def adaptiveOuts (a b : Nat × Nat) : List Nat :=
  let back := (if b.1 < a.1 then [0] else []) ++ (if b.2 < a.2 then [3] else [])
  if back.isEmpty then (if a.1 < b.1 then [2] else []) ++ (if a.2 < b.2 then [1] else []) else back

/-- The outputs that a router's table permits to a packet; none where its region is UNREACHABLE (R262, R263, R278, R279). -/
def outsFor (s : State) (r : Nat × Nat) (p : Packet) : Option (List Nat) :=
  let t := tableAt s r p.epoch
  let x := netExit s p
  if t.mask.getLsbD (epRegion p.dst) then none
  else if r = x.1 then some [x.2]
  else if t.whole || (epKind p.dst != 2 && routerParcel r == routerParcel x.1) then some (if p.cls = 0 then [rowFirst r x.1] else adaptiveOuts r x.1)
  else
    let d := Config.detour t.mask t.cut (128 * r.1 + r.2) (epRegion p.dst)
    some (if p.cls = 0 then [d.1.toNat] else (List.range 4).filter fun o => d.2.getLsbD o)

/-- The router that a link port leads to: past bypassed ones, straight through (R253, R254). -/
def linkTo (cut : List (Nat × Nat)) : Nat → Nat × Nat → Nat → Option (Nat × Nat)
  | 0, _, _ => none
  | n + 1, r, o =>
    let u := match o with
      | 0 => if r.1 = 0 then none else some (r.1 - 1, r.2)
      | 1 => if 127 ≤ r.2 then none else some (r.1, r.2 + 1)
      | 2 => if 95 ≤ r.1 then none else some (r.1 + 1, r.2)
      | _ => if r.2 = 0 then none else some (r.1, r.2 - 1)
    u.bind fun u => if cut.contains u then linkTo cut n u o else some u
def link (s : State) (r : Nat × Nat) (o : Nat) : Option (Nat × Nat) := linkTo s.snet.bypass 128 r o

/-! ## Flits and inputs (R257, R258, R261) -/

/-- The VC of a packet (R258). -/
def netVc (p : Packet) : Nat := 2 * p.cls.toNat + p.vcr.toNat
/-- The flits of a packet: its header and its payload (R257). -/
def flitsOf (p : Packet) : Nat := 1 + (8 * p.plen.toNat + 15) / 16
/-- Whether a flit is its packet's first, and whether it ends it: HEAD and TAIL (R257). -/
def NetFlit.head (f : NetFlit) : Bool := f.i == 0 && !f.cut
def NetFlit.tail (f : NetFlit) : Bool := f.cut || f.i + 1 == flitsOf f.pkt

def inKey (r : Nat × Nat) (port vc : Nat) : Nat := 4 * (70 * (128 * r.1 + r.2) + port) + vc
def outKey (r : Nat × Nat) (o : Nat) : Nat := 70 * (128 * r.1 + r.2) + o
/-- The router and port of an input. -/
def routerOfIn (key : Nat) : Nat × Nat := (key / 280 / 128, key / 280 % 128)
def portOfIn (key : Nat) : Nat := key / 4 % 70

/-- What an input's VC holds; a VC that holds nothing is not listed. -/
def vcAt (s : State) (key : Nat) : NetVc := lookupD { flits := [], way := none } s.snet.wires.ins key
def setVc (key : Nat) (v : NetVc) (s : State) : State :=
  let w := s.snet.wires
  { s with snet := { s.snet with wires := { w with ins := if v.flits.isEmpty && v.way.isNone then w.ins.filter (·.1 != key) else put key v w.ins } } }
/-- The room of an input's VC: each holds 8 flits (R261). -/
def roomAt (s : State) (key : Nat) : Nat := 8 - (vcAt s key).flits.length

def outAt (s : State) (key : Nat) : NetOut := lookupD { held := [], req := 2, rsp := 3 } s.snet.wires.outs key
def setOut (key : Nat) (o : NetOut) (s : State) : State := { s with snet := { s.snet with wires := { s.snet.wires with outs := put key o s.snet.wires.outs } } }

/-- A packet as it was injected, whatever became of it on its way. -/
def asSent (p : Packet) : Packet := { p with headBad := false, bodyBad := false }

/-- Keeps with a packet on its way that the net discarded it, or that it holds a BAD flit. -/
def markSent (f : Packet → Packet) (p : Packet) (s : State) : State :=
  let m (l : List Packet) : List Packet := l.map fun q => if asSent q = asSent p then f q else q
  { s with snet := { s.snet with flight := m s.snet.flight, wires := { s.snet.wires with late := m s.snet.wires.late } } }
def markGone : Packet → State → State := markSent fun q => { q with headBad := true }
def markBad : Packet → State → State := markSent fun q => { q with bodyBad := true }

/-- The net discards a packet and counts it; one that met an UNREACHABLE entry counts as ejected, unless its epoch was given up (R279, R281, R283). -/
def netLoss (p : Packet) (ejected : Bool) (s : State) : State :=
  let late := s.snet.wires.late.any fun q => asSent q == asSent p
  markGone p (countLost (if ejected && !late then countOut p s else s))

/-! ## One SNET cycle (R253, R254, R261 to R263, R266, R279, R283, R287) -/

/-- Of several outputs, the one whose next input has more room on a VC, of equals a column move (R263). -/
def freest (s : State) (r : Nat × Nat) (vc : Nat) (l : List Nat) : Nat :=
  let room (o : Nat) : Nat := match link s r o with
    | some u => roomAt s (inKey u ((o + 2) % 4) vc)
    | none => 0
  match l with
  | [] => 72
  | a :: t => t.foldl (fun a b => if room a < room b ∨ (room a = room b ∧ b % 2 = 0 ∧ a % 2 = 1) then b else a) a

/-- Whether a router's port leads nowhere: to a parcel that is not there, or off the wafer (R283). -/
def portShut (s : State) (r : Nat × Nat) (o : Nat) : Bool :=
  decide (o < 4) && (match link s r o with
    | some u => !netLive s (routerParcel u)
    | none => true)

/-- Where the first flit of an input's VC goes in this cycle: an output; 70 or 71 if its packet is discarded, at an UNREACHABLE entry or at a closed port. -/
def wantOf (s : State) (key : Nat) (v : NetVc) : Option Nat :=
  let r := routerOfIn key
  match v.flits with
  | [] => none
  | f :: _ =>
    if s.snet.wires.cycle < f.at_ then none
    else match (match v.way with
      | some w => some w.1
      | none => (outsFor s r f.pkt).map (freest s r (netVc f.pkt))) with
      | none => some 70
      | some o => some (if portShut s r o then 71 else o)

/-- The WRITE messages at a tile port (R266): those that have packets there, or of which the port has begun to take one. -/
def writesOpen (s : State) (e : BitVec 24) : List (BitVec 24 × BitVec 12) :=
  ((s.snet.msgs.filter fun m => m.dst == e && m.opc == 2).map (fun m => (m.src, m.tag)) ++
   (s.snet.wires.taken.filter fun p => p.dst == e && p.opc == 2).map fun p => (p.src, p.tag)).eraseDups

/-- Whether an endpoint takes a packet: a WRITE only with a place for its message (R266). -/
def portTakes (s : State) (p : Packet) : Bool :=
  p.opc != 2 || epKind p.dst != 0 || (writesOpen s p.dst).contains (p.src, p.tag) || decide ((writesOpen s p.dst).length < 4)

/-- Whether a flit can go to an output in this cycle: the VC is its packet's or free, and there is room beyond. A tile port passes a flit in two cycles (R253; log 165). -/
def canGo (s : State) (r : Nat × Nat) (o : Nat) (e : Nat × NetFlit) : Bool :=
  (match ((outAt s (outKey r o)).held.find? fun h => h.1 == e.1 % 4) with
   | some h => h.2 == e.1
   | none => e.2.head) &&
  (if o < 4 then (match link s r o with
    | some u => decide (0 < roomAt s (inKey u ((o + 2) % 4) (e.1 % 4)))
    | none => false)
   else (o == 4 || o == 69 || s.snet.wires.cycle % 2 == 0) && (!e.2.head || portTakes s e.2.pkt))

/-- An endpoint takes a flit. -/
def ejectFlit (f : NetFlit) (s : State) : State :=
  let s := if f.head then { s with snet := { s.snet with wires := { s.snet.wires with taken := s.snet.wires.taken ++ [asSent f.pkt] } } } else s
  if f.bad then markBad f.pkt s else s

/-- The first flit of an input's VC leaves it toward an output. -/
def popFlit (key o : Nat) (s : State) : State :=
  match (vcAt s key).flits with
  | [] => s
  | f :: t => setVc key { flits := t, way := if f.tail then none else some (o, f.pkt) } s

/-- A flit comes into an input's VC; it can leave it 4 cycles later (R287). -/
def pushFlit (key : Nat) (f : NetFlit) (s : State) : State :=
  let v := vcAt s key
  setVc key { v with flits := v.flits ++ [f] } s

/-- Moves a flit to an output; until its tail has passed, the VC there is its packet's (R261). -/
def moveFlit (r : Nat × Nat) (o : Nat) (e : Nat × NetFlit) (s : State) : State :=
  let vc := e.1 % 4
  let x := outAt s (outKey r o)
  let held := x.held.filter (·.1 != vc)
  let x := { x with held := if e.2.tail then held else held ++ [(vc, e.1)], req := if vc % 2 = 0 then vc else x.req, rsp := if vc % 2 = 1 then vc else x.rsp }
  let s := setOut (outKey r o) x (popFlit e.1 o s)
  if o < 4 then (match link s r o with
    | some u => pushFlit (inKey u ((o + 2) % 4) vc) { e.2 with at_ := s.snet.wires.cycle + 4 } s
    | none => s)
  else ejectFlit e.2 s

/-- The VC that is served: response VCs before request VCs, the two of equal rank alternately (R261). -/
def nextVc (x : NetOut) (has : Nat → Bool) : Nat :=
  let pick (last a b : Nat) : Nat := if has a && has b then (if last = a then b else a) else if has a then a else b
  if has 1 || has 3 then pick x.rsp 1 3 else pick x.req 0 2

/-- An output sends one flit, if one can go. Which of several packets that want one VC goes first, the manual does not say: a free value. -/
def serveOut (s0 : State) (s : State) (g : (Nat × Nat) × Nat × List (Nat × NetFlit)) : State :=
  let (r, o, l) := g
  let l := l.filter (canGo s0 r o)
  let vc := nextVc (outAt s0 (outKey r o)) fun v => l.any fun e => e.1 % 4 == v
  match l.filter fun e => e.1 % 4 == vc with
  | [] => s
  | [e] => moveFlit r o e s
  | e :: t => moveFlit r o (((e :: t)[(Config.netTurn s0.snet.wires.cycle (outKey r o)).toNat % (t.length + 1)]?).getD e) s

/-- A flit is discarded; with the first one its packet is (R279, R283). -/
def discardFlit (s : State) (e : Nat × NetFlit × Nat) : State :=
  let (key, f, why) := e
  let begun : Bool := match (vcAt s key).way with
    | some w => decide (70 ≤ w.1)
    | none => false
  let w := s.snet.wires
  let s := { s with snet := { s.snet with wires := { w with outs := w.outs.map fun o => (o.1, { o.2 with held := o.2.held.filter (·.2 != key) }) } } }
  popFlit key why (if begun then s else netLoss f.pkt (why == 70) s)

/-- The share of SNET cycles, in eighths, in which a level permits request flits (R275). -/
def levelShare (n : Nat) : Nat :=
  match n with
  | 0 => 8
  | 1 => 6
  | 2 => 4
  | 3 => 2
  | _ => 1

/-- Whether a gateway or tile port may inject on a VC in this cycle: a hub's level holds requests back, and a tile port passes a flit in two cycles (R253, R275; log 165). -/
def mayInject (s : State) (key : Nat) : Bool :=
  let c := s.snet.wires.cycle
  if portOfIn key = 4 then
    let h := ((List.range 4).find? fun h => (gateways h).contains (routerOfIn key)).getD 0
    key % 2 == 1 || decide (c % 8 < levelShare (s.snet.level[h]?.getD 0))
  else c % 2 == 0

/-- A request's last packet has gone onto the net: its time begins (R269). -/
def noteSent (p : Packet) (s : State) : State :=
  if p.vcr = 0 ∧ p.last then
    { s with snet := { s.snet with reqs := s.snet.reqs.map fun r => if r.unit = p.src ∧ r.tag = p.tag ∧ r.opc = p.opc then { r with at_ := s.time } else r } }
  else s

def feedAt (s : State) (key : Nat) : List (Packet × Nat) := lookupD [] s.snet.wires.feeds key
def setFeed (key : Nat) (l : List (Packet × Nat)) (s : State) : State :=
  let w := s.snet.wires
  { s with snet := { s.snet with wires := { w with feeds := if l.isEmpty then w.feeds.filter (·.1 != key) else put key l w.feeds } } }

/-- A gateway or tile port injects one flit, if one can go. -/
def injectFlit (s0 : State) (s : State) (port : Nat) : State :=
  let ok (vc : Nat) : Bool := !(feedAt s0 (4 * port + vc)).isEmpty && decide (0 < roomAt s0 (4 * port + vc)) && mayInject s0 (4 * port + vc)
  let x := outAt s0 (860160 + port)
  let vc := nextVc x ok
  let key := 4 * port + vc
  if !ok vc || !netLive s0 (routerParcel (routerOfIn key)) then s
  else match feedAt s key with
    | [] => s
    | (p, n) :: t =>
      let s := setOut (860160 + port) { x with req := if vc % 2 = 0 then vc else x.req, rsp := if vc % 2 = 1 then vc else x.rsp } s
      let s := pushFlit key { pkt := p, i := n, bad := false, cut := false, at_ := s.snet.wires.cycle + 5 } s
      if n + 1 = flitsOf p then noteSent p (setFeed key t s) else setFeed key ((p, n + 1) :: t) s

/-- One SNET cycle: every output sends at most one flit and every port injects at most one, as things stand when it begins. -/
def netCycle (s : State) : State :=
  let s := { s with snet := { s.snet with wires := { s.snet.wires with cycle := s.snet.wires.cycle + 1 } } }
  let wants : List (Nat × NetFlit × Nat) := s.snet.wires.ins.filterMap fun e =>
    if netLive s (routerParcel (routerOfIn e.1)) then (e.2.flits.head?).bind fun f => (wantOf s e.1 e.2).map fun o => (e.1, f, o) else none
  let outs := ((wants.filter fun e => decide (e.2.2 < 70)).map fun e => (routerOfIn e.1, e.2.2)).eraseDups
  let groups := outs.map fun g => (g.1, g.2, (wants.filter fun e => routerOfIn e.1 == g.1 && e.2.2 == g.2).map fun e => (e.1, e.2.1))
  let t := groups.foldl (serveOut s) ((wants.filter fun e => e.2.2 == 70 || e.2.2 == 71).foldl discardFlit s)
  ((s.snet.wires.feeds.map (·.1 / 4)).eraseDups).foldl (injectFlit s) t

/-- Up to `n` SNET cycles, as long as anything is on the net. -/
def netRun : Nat → State → State
  | 0, s => s
  | n + 1, s => if s.snet.wires.ins.isEmpty && s.snet.wires.feeds.isEmpty then s else netRun n (netCycle s)

/-- The SNET cycles of 1.4 GHz that have passed (R31). -/
def netNow (s : State) : Nat := s.time / 10725

/-- The service net comes up to the time; in a flow stop nothing on it moves (R274, R403). -/
def netPass (s : State) : State :=
  let c := netNow s
  let s := if s.pwr.flow.isSome then s else netRun (c - s.snet.wires.cycle) s
  { s with snet := { s.snet with wires := { s.snet.wires with cycle := c } } }

/-! ## In, out, and what a lost parcel cuts (R256, R279, R283) -/

/-- A packet waits at its gateway or tile port to be injected. -/
def feedPacket (p : Packet) (s : State) : State :=
  let x := netEntry s p
  let key := inKey x.1 x.2 (netVc p)
  setFeed key (feedAt s key ++ [(p, 0)]) s

/-- Whether any of a packet is on the net or waits to be injected. -/
def onWires (s : State) (p : Packet) : Bool :=
  s.snet.wires.ins.any (fun e => e.2.flits.any fun f => asSent f.pkt == asSent p) || s.snet.wires.feeds.any fun e => e.2.any fun q => asSent q.1 == asSent p

/-- Takes what is left of a packet off the net. -/
def pullPacket (p : Packet) (s : State) : State :=
  let w := s.snet.wires
  let mine (q : Packet) : Bool := asSent q == asSent p
  let way (v : NetVc) : Bool := match v.way with
    | some e => mine e.2
    | none => false
  let keys := (w.ins.filter fun e => way e.2).map (·.1)
  let strip (v : NetVc) : NetVc := { flits := v.flits.filter fun f => !mine f.pkt, way := if way v then none else v.way }
  let fed := w.feeds.any fun e => e.2.any fun q => mine q.1
  let w := { w with
    ins := (w.ins.map fun e => (e.1, strip e.2)).filter fun e => !e.2.flits.isEmpty || e.2.way.isSome,
    outs := w.outs.map fun o => (o.1, { o.2 with held := o.2.held.filter fun h => !keys.contains h.2 }),
    feeds := (w.feeds.map fun e => (e.1, e.2.filter fun q => !mine q.1)).filter fun e => !e.2.isEmpty,
    taken := w.taken.erase (asSent p) }
  let s := { s with snet := { s.snet with wires := w } }
  if fed then noteSent p s else s

/-- The packet of which an input's VC waits for more flits. -/
def NetVc.unfinished (v : NetVc) : Option Packet :=
  match v.flits.getLast? with
  | some f => if f.tail then none else some f.pkt
  | none => v.way.map (·.2)

/-- An input that faces a lost parcel ends the packet it holds a part of with a BAD tail (R283). -/
def cutTail (s : State) (q : Fin 12) (e : Nat × NetVc) : Nat × NetVc :=
  let faces : Bool := decide (portOfIn e.1 < 4) && (match link s (routerOfIn e.1) (portOfIn e.1) with
    | some u => routerParcel u == q.val
    | none => false)
  match e.2.unfinished with
  | some p => if faces then (e.1, { e.2 with flits := e.2.flits ++ [{ pkt := p, i := flitsOf p, bad := true, cut := true, at_ := s.snet.wires.cycle + 4 }] }) else e
  | none => e

/-- A parcel's routers are lost with what they hold; the routers beside it close their ports (R283). -/
def cutNet (q : Fin 12) (s : State) : State :=
  let w := s.snet.wires
  let here (key : Nat) : Bool := routerParcel (routerOfIn key) == q.val
  let held := ((w.ins.filter fun e => here e.1).flatMap fun e => e.2.flits.map fun f => asSent f.pkt).eraseDups
  let fed := (w.feeds.filter fun e => here e.1).flatMap fun e => e.2.map (·.1)
  let s := { s with snet := { s.snet with wires := { w with
    ins := (w.ins.filter fun e => !here e.1).map (cutTail s q),
    outs := w.outs.filter fun e => !here (4 * (e.1 % 860160)), feeds := w.feeds.filter fun e => !here e.1 } } }
  let s := fed.foldl (fun s p => netLoss p false s) s
  held.foldl (fun s p => if onWires s p then markBad p s else markGone p s) s

/-! ## Occupancy (R275) -/

/-- The flits that the request VCs of a hub's gateway routers hold, router by router. -/
def gatewaySums (s : State) (h : Nat) : List Nat :=
  (gateways h).map fun g => ((s.snet.wires.ins.filter fun e => routerOfIn e.1 == g && e.1 % 2 == 0).map fun e => e.2.flits.length).sum

/-! ## Messages -/

/-- A request packet of a hub unit on behalf of a program slot; the epoch and the tag come with its injection (R258, R260, R265). -/
def reqPacket (opc : BitVec 6) (space : BitVec 2) (dst src : BitVec 24) (ps : Option (Fin 8)) (first last : Bool)
    (countOff addr : Nat) (b : List Byte) : Packet :=
  { opc := opc, cls := 0, vcr := 0, epoch := 0, first := first, last := last, space := space, dst := dst, src := src,
    tag := 0, pslot := BitVec.ofNat 3 (match ps with | some k => k.val | none => 0), psv := ps.isSome,
    plen := BitVec.ofNat 8 (b.length / 8), countOff := BitVec.ofNat 24 countOff, addr := BitVec.ofNat 16 addr, payload := b,
    headBad := false, bodyBad := false }

/-- The packets of a MSG message (R257, R260, R265): ADAPTIVE, at most 1 KiB each, in whole 8-byte words. -/
def cutMsg (dst src : BitVec 24) (ps : Option (Fin 8)) (b : List Byte) : List Packet :=
  let w := b ++ zeros ((8 - b.length % 8) % 8)
  let n := (w.length + 1023) / 1024
  (List.range n).map fun i =>
    { reqPacket 3 0 dst src ps (i == 0) (i + 1 == n) (if i = 0 then w.length / 8 else 128 * i) 0 ((w.drop (1024 * i)).take 1024) with cls := 1 }

/-- The request of a message of `n` bytes from a hub unit. -/
def msgReq (u : BitVec 24) (why : NetWhy) (n : Nat) (s : State) : NetReq :=
  { unit := u, tag := 0, opc := 3, epoch := s.snet.epoch, at_ := s.time, total := none, got := 0, parts := [], bad := none, why := why,
    base := 0, skip := 0, keep := n }

end Sys2Proof.Machine
end

