-- ==== Sys2Proof/Machine/EdgeOps.lean ====
section
/-! DEFINITION. Shared operations of the edge links: CRCs, flits, the link layer's sender, packets, channels,
grants and peers (R328, R334 to R342). -/

namespace Sys2Proof.Machine

/-! ## CRCs -/

/-- One reflected CRC-32 bit step (R334). -/
def crc32Bit (c : BitVec 32) : BitVec 32 := if c.getLsbD 0 then (c >>> 1) ^^^ 0xEDB88320 else c >>> 1
/-- One byte of the reflected CRC-32. -/
def crc32Byte (c : BitVec 32) (b : Byte) : BitVec 32 :=
  crc32Bit (crc32Bit (crc32Bit (crc32Bit (crc32Bit (crc32Bit (crc32Bit (crc32Bit (c ^^^ b.setWidth 32))))))))
/-- CRC-32 as R334 states. -/
def crc32 (l : List Byte) : BitVec 32 := (l.foldl crc32Byte 0xFFFFFFFF) ^^^ 0xFFFFFFFF

def crc16Bit (c : BitVec 16) : BitVec 16 := if c.getLsbD 15 then (c <<< 1) ^^^ 0x1021 else c <<< 1
def crc16Byte (c : BitVec 16) (b : Byte) : BitVec 16 :=
  crc16Bit (crc16Bit (crc16Bit (crc16Bit (crc16Bit (crc16Bit (crc16Bit (crc16Bit (c ^^^ (b.setWidth 16 <<< 8)))))))))
/-- CRC-16 as R328 states. -/
def crc16 (l : List Byte) : BitVec 16 := l.foldl crc16Byte 0xFFFF

def crc64Bit (c : BitVec 64) : BitVec 64 := if c.getLsbD 63 then (c <<< 1) ^^^ 0x42F0E1EBA9EA3693 else c <<< 1
def crc64Byte (c : BitVec 64) (b : Byte) : BitVec 64 :=
  crc64Bit (crc64Bit (crc64Bit (crc64Bit (crc64Bit (crc64Bit (crc64Bit (crc64Bit (c ^^^ (b.setWidth 64 <<< 56)))))))))
/-- The seal CRC-64 (R367). -/
def crc64 (l : List Byte) : BitVec 64 := l.foldl crc64Byte 0

/-! ## Flits and the link layer's sender (R334 to R337) -/

def portOf (s : State) (n : Fin 24) : Port := s.edge.ports[n]
def setPort (n : Fin 24) (p : Port) (s : State) : State :=
  { s with edge := { s.edge with ports := s.edge.ports.set n p } }
def updPort (n : Fin 24) (f : Port → Port) (s : State) : State := setPort n (f (portOf s n)) s

/-- A list of bytes cut or padded with zeros to `n`. -/
def padTo (n : Nat) (l : List Byte) : List Byte := l.take n ++ zeros (n - l.length)

/-- The bytes of a flit that its CRC covers (R334). -/
def flitBody (f : Flit) : List Byte :=
  leBytes 4 (f.ftype.toNat + 4 * f.vc.toNat + 16 * f.seq.toNat + 2 ^ 14 * f.ack.toNat + 2 ^ 24 * f.cvc.toNat +
    2 ^ 26 * f.ccnt.toNat) ++ leBytes 8 f.thdr.toNat ++ padTo 240 f.body

/-- Whether a received flit's CRC holds (R334, R335). -/
def flitOk (f : Flit) : Bool := crc32 (flitBody f) == f.crc

/-- The virtual channel whose credits go out next (R336: each VC in turn). -/
def creditVc (p : Port) : Fin 4 :=
  let ok (i : Nat) : Bool := decide (p.rxCred[(⟨i % 4, Nat.mod_lt _ (by decide)⟩ : Fin 4)] ≠ 0)
  let i := ((List.range 4).find? fun j => ok (p.crNext + j)).getD 0
  ⟨(p.crNext + i) % 4, Nat.mod_lt _ (by decide)⟩

/-- A flit as the port sends it now: every flit carries a valid ACK and returns credits (R334, R336). -/
def mkFlit (p : Port) (ftype : BitVec 2) (vc : BitVec 2) (seq : BitVec 10) (thdr : BitVec 64) (body : List Byte) : Flit :=
  let v := creditVc p
  let n := min 63 p.rxCred[v]
  let f : Flit := {
    ftype := ftype, vc := vc, seq := seq, ack := p.rxSeq, cvc := BitVec.ofNat 2 v.val,
    ccnt := BitVec.ofNat 6 n, thdr := thdr, body := padTo 240 body, crc := 0, fixed := 0, uncorr := false }
  { f with crc := crc32 (flitBody f) }

/-- What the port keeps after sending a flit: the credits it returned are gone, and its ACK is out. -/
def creditsSent (p : Port) : Port :=
  let v := creditVc p
  { p with ackSent := p.rxSeq, rxCred := p.rxCred.set v (p.rxCred[v] - min 63 p.rxCred[v]), crNext := v.val + 1 }

/-- Sends a CTRL or IDLE flit (R334, R337). -/
def sendPlain (n : Fin 24) (ftype : BitVec 2) (body : List Byte) (s : State) : State :=
  let p := portOf s n
  emit (.flit n (mkFlit p ftype 0 0 0 body)) (setPort n (creditsSent p) s)

def sendCtrl (n : Fin 24) (body : List Byte) (s : State) : State := sendPlain n 2 body s
def sendIdle (n : Fin 24) (s : State) : State := sendPlain n 0 [] s

/-- Whether a port has an ACK or credits to send (R334, R336). -/
def owesNews (p : Port) : Bool := p.st == .up && (p.ackSent != p.rxSeq || p.rxCred.toList.any (· != 0))

/-- With no other flit to send, the port's IDLEs carry the ACK and the credits that are due (R334, R336); `fuel` bounds them, one for each VC at 63 credits. -/
def idles (n : Fin 24) : Nat → State → State
  | 0, s => s
  | fuel + 1, s => if owesNews (portOf s n) then idles n fuel (sendIdle n s) else s

/-- Sends a held DATA flit again, with the present ACK and credits (R335). -/
def resend (n : Fin 24) (f : Flit) (s : State) : State :=
  let p := portOf s n
  emit (.flit n (mkFlit p 1 f.vc f.seq f.thdr f.body)) (setPort n (creditsSent p) s)

/-- Replays every unacknowledged DATA flit in order (R335). -/
def replayAll (n : Fin 24) (s : State) : State := (portOf s n).replay.foldl (fun s e => resend n e.1 s) s

/-- Sends waiting DATA flits in order while their VC has credit and the replay buffer has room (R335, R336). -/
def drainTx (n : Fin 24) : List (Nat × BitVec 64 × List Byte) → State → State
  | [], s => s
  | (vc, thdr, body) :: t, s =>
    let p := portOf s n
    let v : Fin 4 := ⟨vc % 4, Nat.mod_lt _ (by decide)⟩
    if p.st = .up ∧ p.txCred[v] ≠ 0 ∧ p.replay.length < 512 then
      let f := mkFlit p 1 (BitVec.ofNat 2 vc) p.txSeq thdr body
      let p' := creditsSent p
      drainTx n t (emit (.flit n f) (setPort n
        { p' with txSeq := p.txSeq + 1, txCred := p'.txCred.set v (p'.txCred[v] - 1), replay := p.replay ++ [(f, 0)],
                  ackAt := if p.replay.isEmpty then s.time else p.ackAt } s))
    else drainTx n t (updPort n (fun q => { q with txq := q.txq ++ [(vc, thdr, body)] }) s)

/-- Tries the port's waiting DATA flits. -/
def pumpPort (n : Fin 24) (s : State) : State :=
  let q := (portOf s n).txq
  drainTx n q (updPort n (fun p => { p with txq := [] }) s)

/-- The transport header of a flit (R338). -/
def thdrOf (k : EdgePkt) (fidx : Nat) (pend : Bool) (vlen : Nat) : BitVec 64 :=
  BitVec.ofNat 64 (k.src + 2 ^ 8 * k.dst + 2 ^ 16 * k.chan + 2 ^ 24 * k.psn + 2 ^ 40 * fidx +
    (if pend then 2 ^ 45 else 0) + (if k.mfirst then 2 ^ 46 else 0) + (if k.mlast then 2 ^ 47 else 0) + 2 ^ 48 * vlen +
    2 ^ 56 * k.kind + (if k.abort then 2 ^ 59 else 0) + 2 ^ 60 * k.inc)

/-- The virtual channel of a packet (R336). -/
def vcOf (k : EdgePkt) : Nat := if k.kind = 1 then 2 else if k.kind = 2 then 3 else if k.chan < 128 then 0 else 1

/-- The flits of a packet, every one but the last with 240 bytes (R338); `fuel` bounds the flits of a packet. -/
def cutFlits (k : EdgePkt) : Nat → Nat → List Byte → List (Nat × BitVec 64 × List Byte)
  | 0, _, _ => []
  | fuel + 1, i, bs =>
    if bs.length ≤ 240 then [(vcOf k, thdrOf k i true bs.length, bs)]
    else (vcOf k, thdrOf k i false 240, bs.take 240) :: cutFlits k fuel (i + 1) (bs.drop 240)

/-- Hands a packet to a port. -/
def sendPkt (n : Fin 24) (k : EdgePkt) (s : State) : State :=
  pumpPort n (updPort n (fun p => { p with txq := p.txq ++ cutFlits k 18 0 k.bytes }) s)

/-! ## Channels (R338 to R342) -/

def chanKey (peer chan : Nat) : Nat := 256 * peer + chan
def echan (s : State) (k : Nat) : EChan := lookupD EChan.idle s.edge.chans k
def setEchan (k : Nat) (c : EChan) (s : State) : State := { s with edge := { s.edge with chans := put k c s.edge.chans } }
def updEchan (k : Nat) (f : EChan → EChan) (s : State) : State := setEchan k (f (echan s k)) s

/-- A peer never heard of: incarnation 0 (R342). -/
def Peer.fresh : Peer := { down := none, inc := 0, heard := none, beat := none }
def peerOf (s : State) (d : Nat) : Peer := lookupD Peer.fresh s.edge.peers d
def setPeer (d : Nat) (p : Peer) (s : State) : State := { s with edge := { s.edge with peers := put d p s.edge.peers } }

/-- The route mask of a channel: a change waits for the channel's next message boundary (R341). -/
def maskFor (s : State) (k : Nat) : BitVec 24 :=
  match find? s.edge.pendMask k with
  | some m => m
  | none => s.edge.routes[fin128 (k / 256)]

/-- Whether a port's peer and the route mask allow a channel (R341). -/
def leadsTo (s : State) (k : Nat) (n : Fin 24) : Bool :=
  let p := portOf s n
  (p.switched || p.peerId == k / 256) && (maskFor s k).getLsbD n.val

/-- Whether a port qualifies for a channel (R341). -/
def qualifies (s : State) (k : Nat) (n : Fin 24) : Bool := (portOf s n).st == .up && leadsTo s k n

/-- Whether a channel keeps its port: while it qualifies, and across a retrain, which the transport sees as a delay only (R341, R351). -/
def keeps (s : State) (k : Nat) (n : Fin 24) : Bool :=
  ((portOf s n).st == .up || (portOf s n).st == .retrain) && leadsTo s k n

/-- The first qualifying port after number `x`, in rising order round the 24 ports (R341). -/
def portAfter (s : State) (k x : Nat) : Option (Fin 24) :=
  ((List.range 24).map fun i => fin24 (x + 1 + i)).find? (qualifies s k)

/-- The port of a channel: the one it has while that qualifies, else the next (R341). -/
def choosePort (s : State) (k : Nat) : Option (Fin 24) :=
  match (echan s k).port with
  | some n => if keeps s k (fin24 n) then some (fin24 n) else portAfter s k n
  | none => portAfter s k ((k / 256 + k % 256) % 24)

/-- The hub of a channel's port; HUB-W while it has none. -/
def portHub (s : State) (k : Nat) : Nat :=
  match choosePort s k with
  | some n => hubOf n.val
  | none => 0

/-- The engine's own ID. -/
def ownId (s : State) : Nat := s.edge.engineId

/-- The edge transport timeout in time units (R340, R353: values below 100 act as 100). -/
def tmo (s : State) : Nat := us (max 100 s.edge.timeout)

/-- Whether a channel holds a port or packets that need one: only then may its port be chosen or moved before a packet goes (R341). -/
def hasWay (c : EChan) : Bool := c.port.isSome || !c.unack.isEmpty

/-- Takes or keeps the port chosen for a channel, resending from the oldest unacknowledged packet when it moved (R341). -/
def takePort (k : Nat) (s : State) : State :=
  let c := echan s k
  match choosePort s k with
  | none => setEchan k { c with port := none } s
  | some n =>
    if c.port = some n.val then s
    else (c.unack.map (·.1)).foldl (fun s p => sendPkt n p s) (setEchan k { c with port := some n.val } s)

/-- A channel keeps its port or moves; one that has sent no packet takes none yet (R341). -/
def settle (k : Nat) (s : State) : State := if hasWay (echan s k) then takePort k s else s

/-- The next packet of the first unfinished message, if grant, window and bytes allow it (R338, R339, R351). -/
def nextPacket (s : State) (k : Nat) : Option (EdgePkt × EChan) :=
  let c := echan s k
  let done := (c.tx.takeWhile (·.done)).length
  match c.tx[done]? with
  | none => none
  | some m =>
    if c.grant ≤ c.txMsg + done ∨ 64 ≤ c.unack.length ∨ (peerOf s (k / 256)).down.isSome then none
    else
      let n := if m.abort then 0 else min 3840 (m.len - m.sent)
      if m.bytes.length < m.sent + n then none
      else
        let last := m.abort || decide (m.sent + n = m.len)
        let pkt : EdgePkt := {
          src := ownId s, dst := k / 256, chan := k % 256, psn := c.txPsn % 65536,
          mfirst := decide (m.sent = 0), mlast := last, kind := 0, abort := m.abort, inc := (peerOf s (k / 256)).inc,
          bytes := (m.bytes.drop m.sent).take n }
        some (pkt, { c with txPsn := c.txPsn + 1, unack := c.unack ++ [(pkt, s.time)],
                            tx := c.tx.set done { m with sent := m.sent + n, done := last } })

/-- DETAIL of PEER_DOWN (R346). -/
def peerDownDetail (peer chan cause bytes : Nat) : Nat := peer + 256 * chan + 65536 * cause + 2 ^ 32 * bytes

/-- Decides PEER_DOWN for the sends and receives of a channel, with the bytes that each has sent or had delivered (R342, R346). -/
def peerDownDescs (k cause : Nat) (s : State) : State :=
  let c := echan s k
  let det (n : Nat) := peerDownDetail (k / 256) (k % 256) cause n
  let s := c.tx.foldl (fun s m => match m.desc with
    | some d => decideDesc d stPeerDown (det m.sent) s
    | none => s) s
  c.rx.foldl (fun s r => match r.desc with
    | some d => if r.live then decideDesc d stPeerDown (det (min r.len r.come)) s else s
    | none => s) s

/-- Once the route mask of a channel is empty its sends and receives end with PEER_DOWN and cause 5; a message not begun is not sent, and what still comes for a receive
is discarded (R346). -/
def routeGone (k : Nat) (s : State) : State :=
  if maskFor s k ≠ 0 then s
  else updEchan k (fun c => { c with
    tx := (c.tx.filter fun m => m.desc.isNone || m.sent != 0 || m.done).map fun m => { m with desc := none },
    rx := c.rx.map fun r => if r.desc.isSome then { r with live := false } else r }) (peerDownDescs k 5 s)

/-- At a message boundary a changed route mask takes effect for the channel (R341, R346). -/
def boundary (k : Nat) (last : Bool) (s : State) : State :=
  if last then settle k (routeGone k { s with edge := { s.edge with pendMask := s.edge.pendMask.filter fun e => e.1 != k } }) else s

/-- The hub that does a collective's work (R366, R427). -/
def chooseHub (s : State) (k : Nat) : Nat :=
  let first := ((List.range 4).find? fun h => s.adders.getLsbD h).getD 0
  match choosePort s k with
  | some n => if s.adders.getLsbD (hubOf n.val) then hubOf n.val else first
  | none => first

/-- Whether the next message of a channel is a collective's. -/
def nextOfColl (c : EChan) : Bool := match (c.tx.dropWhile (·.done)).head? with
  | some m => m.desc.isNone
  | none => false

/-- The first segment that a collective sends fixes its hub (R366): that of the port of channel CHAN toward the successor. -/
def fixHub (k : Nat) (s : State) : State :=
  if !nextOfColl (echan s k) then s
  else { s with colls := s.colls.map fun c =>
    if c.live && c.hub.isNone && c.group.contains (k / 256) && decide (c.chan ≤ k % 256 ∧ k % 256 ≤ c.chan + 1) then { c with hub := some (chooseHub s c.toward) }
    else c }

/-- Sends packets of a channel, at most `fuel`; its port is chosen for the first of them (R341). -/
def pumpN (k : Nat) : Nat → State → State
  | 0, s => s
  | f + 1, s =>
    match nextPacket s k with
    | none => s
    | some _ =>
      let s := fixHub k (takePort k s)
      match (echan s k).port, nextPacket s k with
      | some n, some (pkt, c) => pumpN k f (boundary k pkt.mlast (sendPkt (fin24 n) pkt (setEchan k c s)))
      | _, _ => s

/-- Sends a TACK for a channel (R339); with no port that qualifies it stays due. -/
def sendTack (k : Nat) (s : State) : State :=
  let s := takePort k s
  let c := echan s k
  match c.port with
  | none => setEchan k { c with tackDue := true } s
  | some n => sendPkt (fin24 n)
      { src := ownId s, dst := k / 256, chan := k % 256, psn := 0, mfirst := false, mlast := false, kind := 1, abort := false,
        inc := (peerOf s (k / 256)).inc, bytes := leBytes 2 c.rxPsn ++ leBytes 2 c.posted }
      (setEchan k { c with since := 0, ackDue := none, tackDue := false } s)

/-- Sends what a channel may send now, a TACK that waited for a port too. -/
def pump (k : Nat) (s : State) : State :=
  let s := pumpN k 64 (settle k s)
  if (echan s k).tackDue then sendTack k s else s

/-- Queues a message on a channel and sends what may go. -/
def enqueue (k : Nat) (m : TxMsg) (s : State) : State := pump k (updEchan k (fun c => { c with tx := c.tx ++ [m] }) s)

/-- Posts a receive; the grant changes, so a TACK goes out (R339). -/
def postRecv (k : Nat) (r : RxPost) (s : State) : State :=
  sendTack k (updEchan k (fun c => { c with rx := c.rx ++ [r], posted := c.posted + 1 }) s)

/-- Parts that follow on the bytes a message has join them. -/
def joinParts : Nat → TxMsg → TxMsg
  | 0, m => m
  | fuel + 1, m => match m.parts.find? fun e => e.1 == m.bytes.length with
    | none => m
    | some e => joinParts fuel { m with bytes := m.bytes ++ e.2, parts := m.parts.erase e }

/-- Gives a send's message bytes that stand at `off` of it, in whatever order they come (R345). -/
def placeTx (d : DescRef) (off : Nat) (b : List Byte) (s : State) : State :=
  let f (m : TxMsg) : TxMsg := if m.desc = some d then joinParts (m.parts.length + 1) { m with parts := m.parts ++ [(off, b)] } else m
  match s.edge.chans.find? fun e => e.2.tx.any fun m => m.desc == some d with
  | some e => pump e.1 (updEchan e.1 (fun c => { c with tx := c.tx.map f }) s)
  | none => s

/-- Gives message `no` of a channel, which no descriptor sent, its bytes (R366). -/
def fillTx (k no : Nat) (b : List Byte) (s : State) : State :=
  let c := echan s k
  match c.tx[no - c.txMsg]? with
  | none => s
  | some m =>
    if no < c.txMsg ∨ m.desc.isSome ∨ m.bytes ≠ [] then s
    else pump k (setEchan k { c with tx := c.tx.set (no - c.txMsg) { m with bytes := b.take m.len } } s)

/-- Ends message `no` of a channel with ABORT: its bytes are lost (R351, R366). -/
def dropTx (k no : Nat) (s : State) : State :=
  let c := echan s k
  match c.tx[no - c.txMsg]? with
  | none => s
  | some m =>
    if no < c.txMsg ∨ m.desc.isSome ∨ m.bytes ≠ [] then s
    else pump k (setEchan k { c with tx := c.tx.set (no - c.txMsg) { m with abort := true } } s)

/-- Ends the edge work of a descriptor that ended otherwise: a send ends with ABORT, a receive's rest is discarded (R351). -/
def abortEdge (d : DescRef) (s : State) : State :=
  let f (c : EChan) : EChan :=
    { c with tx := c.tx.map fun m => if m.desc = some d ∧ ¬ m.done then { m with abort := true } else m,
             rx := c.rx.map fun r => if r.desc = some d then { r with live := false } else r }
  let hit := (s.edge.chans.filter fun e => e.2.tx.any (fun m => m.desc == some d && !m.done)).map (·.1)
  hit.foldl (fun s k => pump k s) { s with edge := { s.edge with chans := s.edge.chans.map fun e => (e.1, f e.2) } }

/-- Ends the descriptors of a broken channel with PEER_DOWN (R342, R346). -/
def breakChan (cause : Nat) (s : State) (e : Nat × EChan) : State :=
  setEchan e.1 { EChan.idle with held := e.2.held } (peerDownDescs e.1 cause s)

/-- Declares a peer down for its channels (R342). -/
def breakPeer (peer cause : Nat) (s : State) : State :=
  let cs := s.edge.chans.filter fun e => e.1 / 256 == peer
  let s := setPeer peer { peerOf s peer with down := some cause } s
  cs.foldl (breakChan cause) s

/-- A port leaves UP or its state: flits not sent are dropped, and its channels move (R335, R341). -/
def movePortChans (n : Fin 24) (s : State) : State :=
  let ks := (s.edge.chans.filter fun e => e.2.port == some n.val).map (·.1)
  ks.foldl (fun s k => settle k s) s

/-- Takes a port to a state; LINK_CHANGE is set at every entry to and departure from UP (R326). -/
def portTo (n : Fin 24) (st : PortSt) (s : State) : State :=
  let old := (portOf s n).st
  let s := updPort n (fun p => { p with st := st, at_ := s.time }) s
  if (old = .up ∧ st ≠ .up) ∨ (old ≠ .up ∧ st = .up) then attn attnLink s else s

/-- The fields a port loses when it goes to DISABLED or FAILED: link state and unacknowledged flits (R326, R335). -/
def linkLost (p : Port) : Port :=
  { p with width := 0, base := 0, rev := false, inv := 0, ackSent := 0, again := false, txSeq := 0, rxSeq := 0, replay := [], nakAt := none, txq := [],
           txCred := Vector.replicate 4 0, rxCred := Vector.replicate 4 0, badCw := 0, cwLeft := 0, cwBad := false, partials := [], inbox := [],
           heard := false, hellos := 0, probe := none }

/-- Disables a port: lanes idle, cable end unpowered (R326). -/
def disablePort (n : Fin 24) (s : State) : State :=
  movePortChans n (updPort n (fun p => { linkLost p with power := 0 }) (portTo n .disabled s))

/-- A port enters FAILED: link state is lost, the cable end is unpowered (R326, R335, R518). -/
def failQuiet (n : Fin 24) (s : State) : State :=
  movePortChans n (updPort n (fun p => { linkLost p with power := 0 }) (portTo n .failed s))

/-- A port enters FAILED, with its record (R352). -/
def failPort (n : Fin 24) (s : State) : State := logRec { portRec s 0x11 1 n.val with info := 4 } (failQuiet n s)

/-- A port enters RETRAIN: replay buffer, SEQ and credits survive (R332, R335); how often each flit has been replayed is counted anew, and codewords
begin anew with the new lock (log 135). -/
def retrainPort (n : Fin 24) (s : State) : State :=
  let s := updPort n (fun p => { p with
    retrains := min 255 (p.retrains + 1), replay := p.replay.map (fun e => (e.1, 0)), badCw := 0, cwLeft := 0, cwBad := false }) (portTo n .retrain s)
  logRec { portRec s 0x11 1 n.val with info := 3 } s

end Sys2Proof.Machine
end

