-- ==== Sys2Proof/Machine/CollOps.lean ====
section
/-! DEFINITION. The schedules of collectives: rings, chunks, segments, phases, headers and seals (R354, R355, R361 to R368). Phases are numbered as
ALL_REDUCE has them: under the torus 0 row reduce, 1 column reduce, 2 column gather, 3 row gather; in the ring 0 reduce, 1 gather; a broadcast
runs in 0 and, under the torus, 1; the norm exchange in 8 and, under the torus, 9. -/

namespace Sys2Proof.Machine

/-! ## Rings (R354, R361, R362) -/

/-- Engine ID of a rank. -/
def memberAt (c : Coll) (r : Nat) : Nat := (c.group[r]?).getD 0
def gsize (c : Coll) : Nat := c.group.length
/-- Columns and rows of the torus. -/
def ringTx (c : Coll) : Nat := max 1 c.tx
def ringTy (c : Coll) : Nat := gsize c / ringTx c

/-- Whether a phase runs in the column ring, on channel CHAN + 1 (R362). -/
def onCol (c : Coll) (p : Nat) : Bool := c.torus && (p == 1 || p == 2 || p == 9)
/-- Length of the ring of a phase, and the member's place in it. -/
def ringLen (c : Coll) (p : Nat) : Nat := if !c.torus then gsize c else if onCol c p then ringTy c else ringTx c
def ringAt (c : Coll) (p : Nat) : Nat := if !c.torus then c.rank else if onCol c p then c.rank / ringTx c else c.rank % ringTx c
/-- The rank at a place of the ring of a phase. -/
def ringRank (c : Coll) (p i : Nat) : Nat :=
  if !c.torus then i else if onCol c p then i * ringTx c + c.rank % ringTx c else c.rank / ringTx c * ringTx c + i
/-- Successor and predecessor in the ring of a phase, as channel keys. -/
def succKey (c : Coll) (p : Nat) : Nat :=
  chanKey (memberAt c (ringRank c p ((ringAt c p + 1) % ringLen c p))) (c.chan + if onCol c p then 1 else 0)
def predKey (c : Coll) (p : Nat) : Nat :=
  chanKey (memberAt c (ringRank c p ((ringAt c p + ringLen c p - 1) % ringLen c p))) (c.chan + if onCol c p then 1 else 0)

/-! ## Chunks and segments (R355, R364) -/

/-- First element and length of part `i` of `n` elements in `k` parts (R355). -/
def partStart (n k i : Nat) : Nat := i * (n / k) + min i (n % k)
def partLen (n k i : Nat) : Nat := n / k + if i < n % k then 1 else 0

/-- First element and length of a chunk of a phase. -/
def chunkRange (c : Coll) (p k : Nat) : Nat × Nat :=
  if c.op = 3 then (0, c.count)
  else if !c.torus then (partStart c.count (gsize c) k, partLen c.count (gsize c) k)
  else if onCol c p then
    let r := c.rank % ringTx c
    let n := partLen c.count (ringTx c) r
    (partStart c.count (ringTx c) r + partStart n (ringTy c) k, partLen n (ringTy c) k)
  else (partStart c.count (ringTx c) k, partLen c.count (ringTx c) k)

/-- The shard of a rank: first element and length (R355). -/
def shardOf (c : Coll) : Nat × Nat :=
  if c.torus then chunkRange { c with op := 0 } 1 (c.rank / ringTx c) else chunkRange { c with op := 0 } 0 c.rank

/-- CHUNK as the header carries it (R364). -/
def chunkNo (c : Coll) (p k : Nat) : Nat :=
  if !c.torus ∨ c.op = 3 then k else if onCol c p then 256 * (c.rank % ringTx c) + k else 256 * k

/-- The format that a phase's segments carry (R356, R375): the gather of a press collective carries the working format `w`. -/
def segFmt (c : Coll) (w : Fmt) (p : Nat) : Fmt :=
  let gather := if c.torus then p == 2 || p == 3 else p == 1
  if c.press && gather then w else if c.bf then bf16 else fp32

/-- The most elements of a segment (R364). -/
def segMax (f : Fmt) : Nat := if f.width = 6 then 5592404 else 4194304 * 8 / f.width
def segCount (f : Fmt) (n : Nat) : Nat := (n + segMax f - 1) / segMax f

/-! ## Phases and what comes in them (R361, R362, R378) -/

/-- The phases of a collective, in order; broadcast leaves out what does not pass a rank. -/
def phasesOf (c : Coll) : List Nat :=
  match c.op, c.torus with
  | 0, false => if c.press then [0, 8, 1] else [0, 1]
  | 0, true => if c.press then [0, 1, 8, 9, 2, 3] else [0, 1, 2, 3]
  | 1, false => [0]
  | 1, true => [0, 1]
  | 2, false => [1]
  | 2, true => [2, 3]
  | _, false => [0]
  | _, true => if c.rank / ringTx c = c.root / ringTx c then [0, 1] else [1]

/-- Whether a phase is a reduce phase. -/
def isReduce (c : Coll) (p : Nat) : Bool := c.op != 3 && (p == 0 || (c.torus && p == 1))

/-- The place of a broadcast's source in the ring of a phase. -/
def bcastFrom (c : Coll) (p : Nat) : Nat :=
  if !c.torus then c.root else if onCol c p then c.root / ringTx c else c.root % ringTx c

/-- Segments of a chunk of a phase. -/
def segsOf (c : Coll) (w : Fmt) (p k : Nat) : Nat := segCount (segFmt c w p) (chunkRange c p k).2

/-- The messages that come in a phase, in order: step, chunk, segment. In the norm exchange the chunk is the rank the norms are of. -/
def inList (c : Coll) (w : Fmt) (p : Nat) : List (Nat × Nat × Nat) :=
  let n := ringLen c p
  let i := ringAt c p
  if p = 8 then (List.range (n - 1)).map fun st => (st, ringRank c p ((i + 2 * n - st - 1) % n), 0)
  else if p = 9 then (List.range (n - 1)).flatMap fun st =>
    (List.range (ringTx c)).map fun q => (st, (i + 2 * n - st - 1) % n * ringTx c + q, q)
  else if c.op = 3 then
    (if i = bcastFrom c p then [] else (List.range (segsOf c w p 0)).map fun g => (0, 0, g))
  else (List.range (n - 1)).flatMap fun st =>
    let k := if isReduce c p then (i + 2 * n - st - 2) % n else (i + 2 * n - st - 1) % n
    (List.range (segsOf c w p k)).map fun g => (st, k, g)

/-- The phases that remain, the present one first. -/
def restPhases (c : Coll) : List Nat := (phasesOf c).dropWhile (· != c.phase)

/-- Whether a member sends in a phase. -/
def sendsIn (c : Coll) (p : Nat) : Bool :=
  if c.op = 3 then (ringAt c p + 1) % ringLen c p != bcastFrom c p else true

/-- The channels on which messages come. -/
def inKeys (c : Coll) : List Nat := ((restPhases c).map (predKey c)).eraseDups

/-- The working format of a press collective (R375). -/
def wfOf (c : Coll) : Fmt := (fmtOf c.wf).getD fp32

/-- Messages still due on a channel. -/
def dueOn (c : Coll) (k : Nat) : Nat :=
  ((restPhases c).map fun p => if predKey c p = k then (inList c (wfOf c) p).length - (if p = c.phase then c.got else 0) else 0).sum

/-- Whether a member has still to send in its present phase: it has not begun, or a message still due is one that it forwards (R361). -/
def sendsOn (c : Coll) : Bool :=
  !c.begun || ((inList c (wfOf c) c.phase).drop c.got).any fun e => c.op == 3 || decide (e.1 + 2 < ringLen c c.phase)

/-- The channels on which a member still owes a step (R365, R371). -/
def owes (c : Coll) : List Nat :=
  (((restPhases c).filter fun p => sendsIn c p && (p != c.phase || sendsOn c)).map (succKey c)).eraseDups

/-- The step in which a member is. -/
def curStep (c : Coll) : Nat := match (inList c (wfOf c) c.phase)[c.got]? with
  | some e => e.1
  | none => 0

/-! ## Messages (R339, R364) -/

/-- PHASE as the header carries it (R364): 0 in the ring. -/
def hdrPhase (c : Coll) (p : Nat) : Nat := if c.torus then p % 8 else 0

/-- Descriptor byte 52 as the header repeats it. -/
def opByte (c : Coll) : Nat := c.op + (if c.press then 8 else 0) + (if c.torus then 16 else 0) + (if c.bf then 32 else 0)

/-- The CRC-32 of the group table. -/
def groupDigest (g : List Nat) : Nat := (crc32 (g.map (BitVec.ofNat 8))).toNat

/-- The 64-byte collective header (R364). -/
def collHeader (c : Coll) (kind step phase segidx chunk scount : Nat) (scrc ssum : Nat) (status sflag adetail : Nat) : List Byte :=
  leBytes 2 c.cid ++ leBytes 1 step ++ leBytes 1 kind ++ leBytes 1 phase ++ leBytes 1 c.rank ++ leBytes 2 segidx ++
  leBytes 4 chunk ++ leBytes 4 scount ++ leBytes 8 scrc ++ leBytes 8 ssum ++ leBytes 4 c.count ++
  leBytes 1 (opByte c) ++ leBytes 1 (gsize c) ++ leBytes 1 c.tx ++ leBytes 1 c.root ++
  leBytes 4 (groupDigest c.group) ++ leBytes 1 status ++ leBytes 1 sflag ++ zeros 2 ++ leBytes 8 adetail ++
  zeros 8

/-- A whole message of known bytes, of a collective. -/
def collMsg (b : List Byte) : TxMsg := { desc := none, bytes := b, parts := [], len := b.length, sent := 0, done := false, abort := false }

/-- A receive posted for a collective: a segment is at most 64 bytes and 4 MiB. -/
def collPost : RxPost := { desc := none, len := 4194368, come := 0, got := [], live := true, full := false }

/-! ## Elements and seals (R82, R366 to R368) -/

/-- Elements of `w` bits packed into bytes (R82, R364). -/
def packBits (w : Nat) (l : List Nat) : List Byte :=
  leBytes ((w * l.length + 7) / 8) (l.foldr (fun x a => x % 2 ^ w + 2 ^ w * a) 0)
/-- The first `n` elements of `w` bits of a byte string. -/
def unpackBits (w n : Nat) (b : List Byte) : List Nat :=
  let v : Nat := ofLE b
  (List.range n).map fun i => v / 2 ^ (w * i) % 2 ^ w

/-- Adjacent pairs added, lower index first. -/
def addPairs : List Nat → List Nat
  | a :: b :: t => addF fp64 0 0 a b :: addPairs t
  | l => l

/-- The 16 accumulators of a seal sum after the elements from index `i` on (R367). -/
def sealAccs (f : Fmt) : Nat → List Nat → Vector Nat 16 → Vector Nat 16
  | _, [], v => v
  | i, x :: t, v =>
    let k : Fin 16 := ⟨i % 16, Nat.mod_lt _ (by decide)⟩
    sealAccs f (i + 1) t (v.set k (addF fp64 0 0 v[k] (convF f fp64 0 0 x)))

/-- The seal sum Σ of elements, a binary64 (R367). -/
def sealSum (f : Fmt) (l : List Nat) : Nat :=
  let v := sealAccs f 0 l (Vector.replicate 16 0)
  ((addPairs (addPairs (addPairs (addPairs v.toList)))).head?).getD 0

/-- An element's magnitude: its sign bit cleared. -/
def magOf (f : Fmt) (x : Nat) : Nat := x % 2 ^ (f.width - 1)

/-- The exact value m × 2^e. -/
def exact2 (m : Nat) (e : Int) : Val := .fin false m e

/-- The tolerance of the third check (R368). -/
def sealTol (bf : Bool) (sflag : Bool) (n : Nat) (m : Nat) : Val :=
  let mv := decodeVal fp64 m
  let second := mulVal (exact2 (n + 2) (-52)) mv
  if sflag then
    addVal 0 (addVal 0 (mulVal (exact2 1 (if bf then -8 else -24)) mv) (exact2 n (if bf then -134 else -150))) second
  else second

/-- The magnitude of a value. -/
def absVal : Val → Val
  | .nan => .nan
  | .inf _ => .inf false
  | .fin _ m e => .fin false m e

/-- Whether the sum of a segment agrees with its seal (R368 check 3). -/
def sumOk (f : Fmt) (bf sflag : Bool) (l : List Nat) (ssum : Nat) : Bool :=
  let t := sealSum f l
  let m := sealSum f (l.map (magOf f))
  if nonFinite fp64 t || nonFinite fp64 m then t == ssum
  else if nonFinite fp64 ssum then false
  else leVal (absVal (addVal 0 (decodeVal fp64 t) (negVal (decodeVal fp64 ssum)))) (sealTol bf sflag l.length m)

end Sys2Proof.Machine
end

