-- ==== Sys2Proof/Machine/Fence.lean ====
section
/-! DEFINITION. Shared recovery operations: the end of a collective and its aborts, reachability and service-net tables,
program fences, the loss of a parcel, the suspect-unit policy, forced states, and FATAL (R278 to R285, R364,
R371, R384, R402, R407, R424 to R428, R434 to R449). -/

namespace Sys2Proof.Machine

/-! ## The early end of a collective (R364, R369, R371, R384) -/

/-- Whether two collectives are one. -/
def sameColl (c : Coll) (x : Coll) : Bool := c.desc == x.desc

/-- The channels a collective holds: CHAN to CHAN + 2 with every member (R359). -/
def heldKeys (c : Coll) : List Nat := c.group.flatMap fun m => [chanKey m c.chan, chanKey m (c.chan + 1), chanKey m (c.chan + 2)]

/-- The hub that does, or will do, a collective's work (R366); one that has sent nothing works in the hub that it would choose now (log 172). -/
def hubFor (s : State) (c : Coll) : Nat := c.hub.getD (chooseHub s c.toward)

/-- The name under which the hub of an ended collective is kept for late seal notices (R370): the notice's channel and the CID. -/
def noticeKey (k cid : Nat) : Nat := 65536 * k + cid

/-- Takes a collective off, freeing its channels; its hub is remembered for the seal notices that may still come (R370). -/
def dropColl (c : Coll) (s : State) : State :=
  let s := { s with colls := s.colls.filter fun x => !sameColl c x }
  if !c.live then s
  else
    let h := hubFor s c
    let ks := ((phasesOf c).map fun q => chanKey (succKey c q / 256) (c.chan + 2)).eraseDups
    let s := { s with sealHubs := ks.foldl (fun l k => put (noticeKey k c.cid) h l) s.sealHubs }
    (heldKeys c).foldl (fun s k => updEchan k (fun e => { e with held := false }) s) s

/-- Sends a header-only message of a collective on a channel (R365). From the working hub to another hub's port it crosses the service net (R22, R366), as a request
that waits for its injection; a working hub that is out of service sends nothing more over the net, and the port's hub gives the message (log 172). -/
def sendHead (c : Coll) (k : Nat) (b : List Byte) (s : State) : State :=
  let h := hubFor s c
  let p := portHub s k
  if p = h ∨ !(isOpen s (hubCode h)) then enqueue k (collMsg b) s
  else
    let e := echan s k
    let s := updEchan k (fun e => { e with tx := e.tx ++ [{ collMsg [] with len := b.length }] }) s
    let r := msgReq (hubEp h 3) (.segOut c.desc k (e.txMsg + e.tx.length)) b.length s
    { s with snet := { s.snet with waiting := s.snet.waiting ++ [(r, cutMsg (hubEp p 6) (hubEp h 3) (some c.slot) b)] } }

/-- Sends an abort on every channel that is still owed a step (R365, R371). -/
def sendAborts (c : Coll) (status detail : Nat) (s : State) : State :=
  (owes c).foldl (fun s k => sendHead c k (collHeader c 3 (curStep c) (hdrPhase c c.phase) 0 0 0 0 0 status 0 detail) s) s

/-- What a predecessor still sends to an ended collective is accepted and discarded, up to its abort (R371). -/
def setDrain (c : Coll) (s : State) (k : Nat) : State :=
  let n := dueOn c k
  if n = 0 then s
  else if (echan s k).rx.any fun r => r.desc.isNone && !r.full then updEchan k (fun e => { e with drain := n }) s
  else postRecv k collPost (updEchan k (fun e => { e with drain := n, rx := e.rx.filter fun r => !r.full }) s)

/-- Ends a running or waiting collective early: its descriptor's outcome and the aborts (R369, R371, R384). `taken` messages of the present phase have come and are
discarded. -/
def endCollTaken (c : Coll) (taken status detail : Nat) (s : State) : State :=
  let s := decideDesc c.desc status detail s
  if c.live then
    let c' := { c with got := c.got + taken }
    dropColl c ((inKeys c').foldl (setDrain c') (sendAborts c status detail s))
  else dropColl c s
def endColl (c : Coll) (status detail : Nat) (s : State) : State := endCollTaken c 0 status detail s

/-! ## Reachability and service-net tables (R278 to R284, R327) -/

/-- The parcels on whose edge a hub's gateways lie (R32). -/
def gatewayParcels (h : Nat) : List Nat :=
  match h with
  | 0 => [0, 4, 8]
  | 1 => [0, 1, 2, 3]
  | 2 => [3, 7, 11]
  | _ => [8, 9, 10, 11]

/-- Whether a parcel's service routers carry traffic: ON or EVACUATING, with no flow stop (R284, R403). -/
def netOn (s : State) (p : Nat) : Bool :=
  let st := s.parcels[fin12 p].st
  (st == .on || st == .evacuating) && s.pwr.flow.isNone

/-- Parcels next to a parcel in the 3 × 4 grid. -/
def nextParcels (p : Nat) : List Nat :=
  (if p % 4 = 0 then [] else [p - 1]) ++ (if p % 4 = 3 then [] else [p + 1]) ++ (if p < 4 then [] else [p - 4]) ++
  (if 8 ≤ p then [] else [p + 4])

/-- Whether a table may lead into or across a parcel: its net is on, and it does not wait to be switched off (R278, R282). -/
def routed (s : State) (p : Nat) : Bool := netOn s p && !s.parcels[fin12 p].parting

/-- One round of spreading over parcels that carry routes. -/
def spread (s : State) (l : List Nat) : List Nat :=
  (List.range 12).filter fun p => routed s p && (l.contains p || (nextParcels p).any l.contains)

/-- The parcels that a hub's gateways reach. -/
def reached (s : State) (h : Nat) : List Nat :=
  let l := (gatewayParcels h).filter (routed s)
  spread s (spread s (spread s (spread s (spread s (spread s (spread s (spread s (spread s (spread s (spread s l))))))))))

/-- Whether a hub is reachable: a gateway in an ON parcel and a route from HUB-W (R276, R284). -/
def reach (s : State) (h : Nat) : Bool := (gatewayParcels h).any fun p => (reached s 0).contains p

/-- The regions a new table must mark UNREACHABLE: parcels not ON or that no ON gateway reaches, and hubs out of reach (R278, R284). -/
def wantMask (s : State) : BitVec 16 :=
  let ok (p : Nat) : Bool := (List.range 4).any fun h => (reached s h).contains p
  let bits := (List.range 12).map (fun p => if ok p then 0 else 2 ^ p) ++ (List.range 4).map (fun h => if reach s h then 0 else 2 ^ (12 + h))
  BitVec.ofNat 16 bits.sum

/-- The idle bank's index. -/
def idleBank (s : State) : Fin 2 := if s.snet.epoch then 0 else 1

/-- Writes a bank: that of the hubs and of every ON router (R278, R280). -/
def writeTables (b : Fin 2) (m : BitVec 16) (s : State) : State :=
  let n := s.snet
  let w := n.wires
  let tables := Vector.ofFn fun q : Fin 12 => if netOn s q.val then w.tables[q].set b { mask := m, cut := n.bypass } else w.tables[q]
  { s with snet := { n with banks := n.banks.set b m, wires := { w with tables := tables } } }

/-- Both banks of a parcel's routers, or of all routers and hubs (R278, R281). -/
def loadRouters (q : Fin 12) (m : BitVec 16) (s : State) : State :=
  let w := s.snet.wires
  { s with snet := { s.snet with wires := { w with tables := w.tables.set q (Vector.replicate 2 { mask := m, cut := s.snet.bypass }) } } }
def loadTables (m : BitVec 16) (s : State) : State :=
  let w := s.snet.wires
  { s with snet := { s.snet with banks := Vector.replicate 2 m,
                                 wires := { w with tables := Vector.replicate 12 (Vector.replicate 2 { mask := m, cut := s.snet.bypass }) } } }

/-- Begins a table change: the idle bank is written and the epoch flips (R280 steps 1 and 2), or the change waits for the one in
progress (R281). -/
def tableChange (m : BitVec 16) (s : State) : State :=
  let n := s.snet
  match n.change with
  | some _ => { s with snet := { n with queued := n.queued ++ [m] } }
  | none =>
    let c : TblChange := { mask := m, step := 3, at_ := s.time }
    let s := writeTables (idleBank s) m s
    { s with snet := { s.snet with epoch := !n.epoch, change := some c } }

/-- Ports of a hub. -/
def hubPorts (h : Nat) : List (Fin 24) := (List.range 6).map fun i => fin24 (6 * h + i)

/-- Whether a port's hub serves it: HUB-x OPEN and reachable, its hub and PHY rails on (R326, R327, R402, R505). -/
def portServed (s : State) (n : Fin 24) : Bool :=
  isOpen s (hubCode (hubOf n.val)) && reach s (hubOf n.val) && s.module.hrails.getLsbD (hubOf n.val) &&
  s.module.phys.getLsbD (phyOf n.val)

/-- A port enters ID_READ (R326). -/
def idRead (n : Fin 24) (s : State) : State :=
  updPort n (fun p => { linkLost p with idok := false, idpage := [], power := 0 }) (portTo n .idRead s)

/-- Whether a port's PHY rail is off while its hub is served: it stays FAILED (R402). -/
def phyOff (s : State) (n : Fin 24) : Bool := !s.module.phys.getLsbD (phyOf n.val)

/-- Applies R327 to one port. -/
def servePort (s : State) (n : Fin 24) : State :=
  let p := portOf s n
  if !(isOpen s (hubCode (hubOf n.val)) && reach s (hubOf n.val)) then
    (if p.st = .disabled then s else disablePort n s)
  else if p.st = .disabled ∧ p.en ∧ ¬ phyOff s n ∧ isOpen s (edgeCode n.val) then idRead n s
  else s

/-- The three ports of a PHY die whose rail has gone enter FAILED (R402, R505), but those that their hub holds DISABLED (R327). -/
def failDie (d : Nat) (s : State) : State :=
  ([0, 1, 2].map fun i => fin24 (3 * d + i)).foldl (fun s n =>
    if (portOf s n).st = .disabled ∧ !(isOpen s (hubCode (hubOf n.val)) && reach s (hubOf n.val)) then s else failPort n s) s

/-- Applies R327 to every port after a hub's state or reach changed. -/
def servePorts (s : State) : State := (List.finRange 24).foldl servePort s

/-! ## Program fences (R447 to R449, R384, R351) -/

/-- The program's base period: LEN of the start phase (R229). -/
def basePeriod (g : Prog) : Nat := match g.place.phases[g.place.start]? with
  | some x => x.len
  | none => 0

/-- Rounds up to a whole number of periods. -/
def roundUp (n b : Nat) : Nat := if b = 0 then n else (n + b - 1) / b * b

/-- F of R190 and R449: LATENCY rounded up to whole base periods. -/
def flushBeats (g : Prog) : Nat := roundUp g.place.latency (basePeriod g)

/-- The program's drain bound (R188). -/
def drainBeats (g : Prog) : Nat := g.place.drain

/-- Ends with FENCED every undecided descriptor that names a program slot, except one that loads it (R441, R447). -/
def fenceDescs (k : Fin 8) (s : State) : State :=
  let ds := s.hostif.descs.filter fun x => slotOf x == some k && opcOf x != 0x10 && x.outc.isNone
  ds.foldl (fun s x => abortEdge x.ref (decideDesc x.ref stFenced (fencedDetail (progCode k.val) false false) s)) s

/-- Ends with FENCED every collective of a slot (R384). -/
def fenceColls (k : Fin 8) (s : State) : State :=
  let cs := s.colls.filter fun c => c.slot == k
  cs.foldl (fun s c => endColl c stFenced (fencedDetail (progCode k.val) false false) s) s

/-- Starts the fence of a program slot: its domain is CLOSING, new and waiting descriptors end FENCED, timed traffic flushes until the
halt beat (R447, R449). A close already in progress keeps its first cause (R468). -/
def fenceProg (k : Fin 8) (cause rseq : Nat) (lees : Bool) (s : State) : State :=
  match prog? s k with
  | none => s
  | some g =>
    let d := dom s (progCode k.val)
    if d.st = .closing ∨ d.st = .closed ∧ d.held = false then s
    else
      let s := setDom (progCode k.val)
        { d with st := .closing, cause := cause, rseq := rseq, held := false, lees := false, leesReq := lees, since := s.time } s
      let s := fenceColls k (fenceDescs k { s with placing := s.placing.filter fun p => p.slot != k })
      let h := if g.running then progBeat s g + flushBeats g + drainBeats g else progBeat s g
      updProg k (fun g => { g with bar := none, waiting := [], haltAt := some h }) s

/-- Logs a record and fences the program slots `ks` with its cause (R441, R447). -/
def recFence (e : ErrRec) (ks : List (Fin 8)) (cause : Nat) (s : State) : State :=
  let r := nextRseq s
  let s := logFor e (ks.map fun k => progCode k.val) s
  ks.foldl (fun s k => fenceProg k cause r true s) s

/-- The resident programs whose footprint touches a parcel. -/
def progsIn (s : State) (p : Fin 12) : List (Fin 8) :=
  (List.finRange 8).filter fun k => (prog? s k).isSome && touches s k p

/-- The SQs bound to the programs of a tile lose their next OK (R126, R420). -/
def spoil (t : TileAt) (s : State) : State :=
  (usersOf s t).foldl (fun s k => match prog? s k with
    | some g => { s with hostif := { s.hostif with spoilt := s.hostif.spoilt ++ g.sqs } }
    | none => s) s

/-! ## Parcel loss (R29, R131, R134, R137, R165, R283, R387, R402, R408, R436) -/

/-- Memory contents of a parcel lost: local SRAM, slabs, or both (R131). -/
def loseMem (p : Fin 12) (sram slab : Bool) (s : State) : State :=
  { s with tiles := s.tiles.map fun e =>
      if parcelOfNo e.1 = p.val then
        (e.1, { e.2 with sram := if sram then [] else e.2.sram, slab := if slab then [] else e.2.slab })
      else e }

/-- Whether a slab lies in a parcel. -/
def slabIn (p : Fin 12) (t : TileAt) : Bool := parcelOf t == p

/-- Granules with a slab in a parcel, by number. -/
def granulesIn (s : State) (p : Fin 12) : List Nat :=
  ((List.range s.stage.granules.length).filter fun i => ((s.stage.granules[i]?).getD []).any (slabIn p))

/-- Staging slabs of a lost parcel: reads are poisoned until the window is shrunk and regrown; one record per granule (R137). -/
def loseStage (p : Fin 12) (s : State) : State :=
  let gs := granulesIn s p
  let s := { s with stage := { s.stage with lost := s.stage.lost ++ (s.stage.granules.flatten.filter (slabIn p)) } }
  gs.foldl (fun s i => logRec { parcelRec s 0x1C 1 p with info := i } s) s

/-- The number of an area in SRC 0x1B's INFO (R416). -/
def areaNo : Area → Nat
  | .lees => 0
  | .log => 1
  | .tables => 2
  | .image _ => 3

/-- What is gone with the last readable copy of an area (R134): the lees record, or what the engine kept of a program's image. The log and the tables stand in
the Vintner's SRAM too (R455; log 129): without its mirror the log is gone when it has to be restored from it. -/
def areaLost (a : Area) (s : State) : State :=
  match a with
  | .lees => { s with lees := none }
  | .image k => updProg k (fun g => { g with img := Img.none }) s
  | .log | .tables => s

/-- Copies of reserved areas with a slab among `hit` become unreadable; an area with no readable copy left is lost, with a record (R134). -/
def copiesGone (p : Fin 12) (hit : TileAt → Bool) (s : State) : State :=
  let f (r : Reserved) : Reserved := { r with copies := r.copies.map fun c => if c.1.any hit then (c.1, false) else c }
  let hits := s.reserved.filter fun r => r.copies.any fun c => c.2 && c.1.any hit
  let s := { s with reserved := s.reserved.map f }
  hits.foldl (fun s r => if (f r).copies.any (·.2) then s
    else areaLost r.area (logRec { parcelRec s 0x1B 2 p with info := areaNo r.area } s)) s

/-- Reserved-area copies in a lost parcel become unreadable (R134). -/
def loseReserved (p : Fin 12) (s : State) : State := copiesGone p (slabIn p) s

/-- Words on links into or out of a parcel are discarded (R153, R449). -/
def dropLinks (p : Fin 12) (s : State) : State :=
  { s with links := s.links.filter fun l => parcelOf l.dst != p && (match neighbour l.dst l.port with
      | some t => parcelOf t != p
      | none => true) }

/-- Sets a parcel's state and cause, and its domain with it (R435, R410). -/
def parcelTo (p : Fin 12) (st : PSt) (cause : Nat) (dst : DomSt) (dcause rseq : Nat) (s : State) : State :=
  let s := updParcel p (fun x => { x with st := st, cause := cause }) s
  updDom (parcelCode p.val) (fun d => { d with st := dst, cause := dcause, rseq := rseq, since := s.time }) s

/-- A parcel goes out of service: it stops, its logic rail goes off, its local SRAM is lost, programs that touch it are fenced, the
service net routes around it, and it is OFF with `cause` (R283, R402, R436). `cellar` says whether its cellar rail goes too. -/
def takeParcel (p : Fin 12) (cause rseq : Nat) (cellar : Bool) (s : State) : State :=
  let ks := progsIn s p
  let s := parcelTo p .off cause .closed 4 rseq s
  let s := updParcel p (fun x => { x with logicOn := false, locked := false, stopAt := none, iMeas := 0, hot105 := [], gone := true, parting := false,
                                          cellarOn := x.cellarOn && !cellar }) s
  let s := if cellar then updDom (cellarCode p.val) (fun d => { d with st := .closed, cause := 4, rseq := rseq, since := s.time }) s else s
  let s := cutNet p (dropLinks p (loseMem p true cellar s))
  let s := loseReserved p (loseStage p s)
  let s := ks.foldl (fun s k => fenceProg k 5 rseq true s) s
  servePorts (tableChange (wantMask s) s)

/-- A parcel is lost without warning, with its record (R283, R402, R436). -/
def loseParcel (p : Fin 12) (cause : Nat) (e : ErrRec) (cellar : Bool) (s : State) : State :=
  let r := nextRseq s
  takeParcel p cause r cellar (logFor e (parcelCode p.val :: (progsIn s p).map fun k => progCode k.val) s)

/-! ## Evacuation (R407, R427) -/

/-- Begins an evacuation: EVACUATING, its record, and a re-placement for every program that touches the parcel (R407 step 1). -/
def startEvac (p : Fin 12) (cause : Nat) (s : State) : State :=
  if s.parcels[p].st ≠ .on then s
  else
    let r := nextRseq s
    let ks := progsIn s p
    let s := logRec (parcelRec s 0x17 1 p) s
    let s := parcelTo p .evacuating 0 .closing cause r s
    { s with placing := s.placing ++ ks.map fun k =>
        { desc := none, slot := k, evac := some p, image := [], at_ := s.time, fresh := true, ready := true, live := none, timed := false, plots := [] } }

/-- The records generation increases, with its record once the engine is READY (R417, R487). -/
def bumpGen (s : State) : State :=
  let s := { s with boot := { s.boot with gen := s.boot.gen + 1 } }
  if s.boot.ready then logEvent 0x11 (s.boot.gen % 2 ^ 32) s else s

/-- Adds tiles to the cull list; the records generation increases, with its record (R427, R487). -/
def addCulls (l : List (Nat × Nat × Nat)) (s : State) : State :=
  let new := l.filter fun e => !s.boot.culls.contains e
  if new.isEmpty then s
  else bumpGen { s with boot := { s.boot with culls := s.boot.culls ++ new } }

/-! ## Holds and operating points shared by several commands (R164, R388, R389, R397, R401) -/

/-- The key of a physical tile in the ratings list. -/
def ratingKey (r pc : Nat) : Nat := 1040 * r + pc

/-- Issues a hold command, S 64 beats ahead (R164, R397). -/
def issueHold (h : Nat) (s : State) : State :=
  let c : HoldCmd := { at_ := s.beats.cbn + 64, h := h }
  emit (.hold c.at_ h) { s with pwr := { s.pwr with cmds := c :: s.pwr.cmds } }

/-- The hold count that governs the present beat. -/
def hForce (s : State) : Nat := inForce s.pwr.cmds s.beats.cbn

/-- Whether a forced state is in force (R388, R401, R406, R450). -/
def forcedNow (s : State) : Bool := s.pwr.forced || !s.pwr.dies.isEmpty || s.pwr.mgmtForce

/-- The programs that are running. -/
def runningProgs (s : State) : List Prog :=
  (List.finRange 8).filterMap fun k => match prog? s k with
    | some g => if g.running then some g else none
    | none => none

/-- The operating-point preference of a program's current phase, none unless 0–7 (R229, R388). -/
def prefOf (g : Prog) : Option Nat :=
  match g.place.phases[g.phase]? with
  | some x => if x.opPref ≤ 7 then some x.opPref else none
  | none => none

/-- P of R388: the fastest stated preference; 8 for none (R410). -/
def prefNow (s : State) : Nat := ((runningProgs s).filterMap prefOf).foldl min 8

/-- The physical tiles of every resident footprint's cores, as rating keys. -/
def footKeys (s : State) : List Nat :=
  s.tiles.filterMap fun e => if e.2.placed then (physCol s (e.1 / 1024) (e.1 % 1024)).map (ratingKey (e.1 / 1024)) else none

/-- RFLOOR (R388): the slowest rating among the cores of all resident footprints, OP0 when none is resident. -/
def rfloor (s : State) : Nat :=
  (footKeys s).foldl (fun a k => match find? s.pwr.rating k with
    | some v => if v ≤ 7 then max a v else a
    | none => a) 0

/-- The effective operating point by R388. -/
def effRule (s : State) : Nat :=
  if (runningProgs s).isEmpty then 7
  else
    let p := if prefNow s = 8 then s.pwr.ceil else prefNow s
    max (max p s.pwr.ceil) (max (max s.pwr.tcap (rfloor s)) (if forcedNow s then 7 else 0))

/-- Starts a change of operating point (R390): a slower one is announced at once, a faster one ramps first. -/
def startChange (target : Nat) (s : State) : State :=
  let c : OpChange := if s.pwr.eff < target
    then { target := target, step := .announced, stopAt := s.beats.cbn + 64, at_ := s.time }
    else { target := target, step := .ramp, stopAt := 0, at_ := s.time }
  { s with pwr := { s.pwr with change := some c } }

/-- The evaluation of R389, by the power controller: none while MGMT is not OPEN (R433, R450). -/
def evaluate (s : State) : State :=
  if s.pwr.flow.isSome || !isOpen s mgmtCode then s
  else
    let r := effRule s
    let w := s.pwr
    match w.change with
    | none =>
      if w.eff < r then startChange r s
      else if r < w.eff ∧ w.landedAt + ms 1 ≤ s.time then startChange r s
      else s
    | some c =>
      if c.step = .landed ∧ w.eff < r then startChange r s
      else s

/-- A forced change to OP7 (R401, R409): a voltage ramp is abandoned, an announced stop relocks at OP7, a ramp-down is abandoned; none starts during a flow stop (R403). -/
def forceSlow (s : State) : State :=
  if s.pwr.flow.isSome then s
  else match s.pwr.change with
  | none => if s.pwr.eff < 7 then startChange 7 s else s
  | some c =>
    match c.step with
    | .ramp => if s.pwr.eff < 7 then startChange 7 s else { s with pwr := { s.pwr with change := none } }
    | .announced => { s with pwr := { s.pwr with change := some { c with target := 7 } } }
    | .stopped => { s with pwr := { s.pwr with change := some { c with target := 7 } } }
    | .landed => if s.pwr.eff < 7 then startChange 7 s else s

/-! ## Suspect-unit policy (R425 to R429) -/

/-- Sets the replacement flag (R427); a record of the module, so the generation increases with it (R487). -/
def setReplace (s : State) : State := if s.boot.replace then s else bumpGen { s with boot := { s.boot with replace := true } }

/-- Recurrence: a further SUSPECT record within RECUR_H hours of the previous step (R428). -/
def recurs (s : State) (last : Option Nat) : Bool :=
  match last with
  | none => false
  | some t => decide (s.time ≤ t + 3600 * 1000 * ms s.boot.recurH)

/-- The physical tile index within its parcel of row `r` and physical column `pc`, as RATINGS counts (R477). -/
def ratingIdx (r pc : Nat) : Nat := (r % 256) * 260 + pc % 260

/-- Every core of a parcel is rated one point slower than `op` (R428). -/
def rateDown (p : Fin 12) (op : Nat) (s : State) : State :=
  let mine (k : Nat) : Bool := k / 1040 / 256 == p.val / 4 && k % 1040 / 260 == p.val % 4
  let keys := (List.range 256).flatMap fun r => (List.range 260).map fun c => ratingKey (256 * (p.val / 4) + r) (260 * (p.val % 4) + c)
  let old := s.pwr.rating
  let kept := old.filter fun e => !mine e.1
  let new := keys.filterMap fun k => match find? old k with
    | some v => if v = 15 then none else some (k, max v (min 7 (op + 1)))
    | none => none
  { s with pwr := { s.pwr with rating := (kept.filter fun e => e.1 < ratingKey (256 * (p.val / 4)) 0) ++ new ++
      (kept.filter fun e => ratingKey (256 * (p.val / 4)) 0 ≤ e.1) } }

/-- RETIRE for a parcel: evacuation with cause 1 and the suspect tile on the cull list (R427). -/
def retireParcel (p : Fin 12) (t : TileAt) (s : State) : State :=
  let s := match physCol s t.row.val t.col.val with
    | some pc => addCulls [(t.row.val, pc, 0)] s
    | none => s
  setReplace (startEvac p 4 s)

/-- Raises a parcel's trim by 10 mV (R392, R395): the voltage follows at once, or after the landing of a change in progress (R409). -/
def raiseTrim (p : Fin 12) (s : State) : State :=
  bumpGen (updParcel p (fun x =>
    let x := { x with trim := x.trim + 1 }
    if s.pwr.change.isNone && x.logicOn then { x with vmv := railMv x s.pwr.eff } else x) s)

/-- Whether every core of a parcel that has a rating is rated OP7 (R428). -/
def ratedLowest (p : Fin 12) (s : State) : Bool :=
  s.pwr.rating.all fun e => !(e.1 / 1040 / 256 == p.val / 4 && e.1 % 1040 / 260 == p.val % 4) || e.2 == 15 || e.2 == 7

/-- COMPENSATE for a parcel (R428): a record that is no recurrence counts as a first one (log 174). -/
def compParcel (p : Fin 12) (t : TileAt) (s : State) : State :=
  let x := s.parcels[p]
  let again := recurs s x.lastSusp
  let s := updParcel p (fun x => { x with lastSusp := some s.time }) s
  if x.trim < 4 then raiseTrim p s
  else if x.stepped && again && ratedLowest p s then retireParcel p t s
  else evaluate (bumpGen (updParcel p (fun x => { x with stepped := true }) (rateDown p s.pwr.eff s)))

/-- The policy on a suspect tile acts on its parcel; nothing more for a parcel that is not ON (R425, R429). -/
def suspectTile (t : TileAt) (s : State) : State :=
  let p := parcelOf t
  if s.parcels[p].st ≠ .on then s
  else if s.boot.policy = 0 then retireParcel p t s else compParcel p t s

/-- Takes a hub's adders and press out of service; collectives running on it end with DATA_UNCORRECTABLE (R427). -/
def retireHub (h : Nat) (s : State) : State :=
  let cs := s.colls.filter fun c => c.hub == some h
  let s := setReplace { s with adders := s.adders &&& ~~~(1#4 <<< h) }
  cs.foldl (fun s c => endColl c stUncorr 0 s) s

/-- The policy on a suspect hub unit 3 (R425, R427, R428); on a hub out of reach it acts later (R429). First record and recurrence act alike: the rail rises by 10 mV
up to its limit, and at the limit the hub's adders and press are retired. -/
def suspectHub (h : Fin 4) (s : State) : State :=
  if !reach s h.val then { s with pwr := { s.pwr with hubWait := s.pwr.hubWait ++ [h] } }
  else if s.boot.policy = 0 then retireHub h.val s
  else if s.pwr.hubLift[h] < 30 then { s with pwr := { s.pwr with hubLift := s.pwr.hubLift.set h (s.pwr.hubLift[h] + 10) } }
  else retireHub h.val s

/-- Hubs may be reachable again: the policy acts on the suspect ones that waited (R429). -/
def hubsBack (s : State) : State :=
  s.pwr.hubWait.foldl (fun s h => suspectHub h s) { s with pwr := { s.pwr with hubWait := [] } }

/-- Logs a SUSPECT record, sets SUSPECT_UNIT (R313, R419). -/
def logSuspect (e : ErrRec) (s : State) : State := attn attnSuspect (logRec e s)

/-! ## FATAL (R424) -/

/-- FATAL: every parcel rail off, edge ports idle, the record held in always-on storage, ATTN_OUTn low, the host link down. -/
def fatal (cause : Nat) (s : State) : State :=
  let e : ErrRec := { hubRec s 0x22 4 0 0 with info := cause }
  { s with
    parcels := s.parcels.map fun p => { p with st := .off, logicOn := false, cellarOn := false, locked := false },
    tiles := [], links := [], progs := Vector.replicate 8 none, placing := [], watches := [], colls := [],
    edge := { s.edge with ports := s.edge.ports.map fun p => { linkLost p with st := .disabled, power := 0 }, chans := [] },
    doms := [], hostif := { s.hostif with link := false, descs := [], reads := [] },
    stage := { s.stage with granules := [], lost := [] }, reserved := [],
    boot := { s.boot with readmits := [] },
    module := { s.module with fatal := some e, attnLow := true } }

end Sys2Proof.Machine
end

