-- ==== Sys2Proof/Machine/Streams.lean ====
section
/-! DEFINITION. Shared operations of the host link's reads and of the stream slots: landing buffers, egress queues, headland buffers
(R26, R29, R159, R315 to R319, R322, R422). -/

namespace Sys2Proof.Machine

/-! ## Host reads (R422) -/

/-- Issues a read of host memory for a descriptor; what continues with its data is `why`. -/
def askHost (d : DescRef) (why : Why) (addr : DWord) (len : Nat) (s : State) : State :=
  let h := s.hostif
  let r : HostReq := { tag := h.nextTag, desc := d, why := why, addr := addr, len := len }
  emit (.hostRead h.nextTag addr len) { s with hostif := { h with reads := h.reads ++ [r], nextTag := h.nextTag + 1 } }

/-- Whether a descriptor was fetched before the latest host-interface reset: its buffers are the earlier host's (R321). -/
def fetchedBefore (s : State) (d : DescRef) : Bool :=
  match descOf s d with
  | some x => x.old
  | none => false

/-- Writes a descriptor's bytes to host memory, and keeps the address of the last byte (R292). From a HOSTIF reset on (R320) the write is dropped, and the descriptor cannot
complete OK any more (ORD-2, R467). -/
def toHost (d : DescRef) (addr : DWord) (b : List Byte) (s : State) : State :=
  if b.isEmpty then s
  else if isOpen s hostifCode && !fetchedBefore s d then
    emit (.hostWrite addr b) (updDesc d (fun x => { x with last := some (addr + BitVec.ofNat 64 (b.length - 1)) }) s)
  else updDesc d (fun x => { x with dropped := true }) s

/-- A descriptor that is to end with a status other than OK when its work ends keeps the first such status. -/
def failDesc (d : DescRef) (status detail : Nat) (s : State) : State :=
  updDesc d (fun x => { x with fault := match x.fault with
    | some f => some f
    | none => some (status, detail) }) s

/-- Ends a descriptor whose work is done: with the status it is to fail with, else OK and `detail`. One with a dropped host write ends
RESET_ABORTED with DONE = 0 and the detail it would have carried (R321, ORD-2; log 123). -/
def doneDesc (d : DescRef) (detail : Nat) (s : State) : State :=
  match descOf s d with
  | none => s
  | some x =>
    let o := x.fault.getD (stOk, detail)
    if x.dropped then decideDesc d stAborted (o.2 % 2 ^ 63) s
    else decideDesc d o.1 o.2 (updDesc d (fun x => { x with took := true }) s)

/-! ## Stream slots (R315, R317, R318) -/

def xferIn (x : Desc) : Nat := fld x 32 4
def xferOut (x : Desc) : Nat := fld x 36 4
def xferPort (x : Desc) : Nat := fld x 42 2

/-- The started, undecided STREAM_XFERs of a program's port, in fetch order (R302, R318). -/
def xfersOf (s : State) (k : Fin 8) (port : Nat) : List Desc :=
  s.hostif.descs.filter fun x => opcOf x == 0x20 && slotOf x == some k && xferPort x == port && x.started && x.outc.isNone

/-- Changes a stream slot of a program. -/
def updSlot (k : Fin 8) (n : Nat) (f : Slot → Slot) (s : State) : State :=
  updProg k (fun g => { g with slots := g.slots.map fun e => if e.1 == n then (e.1, f e.2) else e }) s

/-- The stream slot `n` of a program. -/
def slotAt (s : State) (k : Fin 8) (n : Nat) : Option Slot :=
  match prog? s k with
  | some g => find? g.slots n
  | none => none

/-- Ends a STREAM_XFER when its input is released and its output written (R318). -/
def finishXfer (d : DescRef) (s : State) : State :=
  match descOf s d with
  | none => s
  | some x =>
    if x.outc.isNone && x.moved == xferIn x && x.wrote == xferOut x then
      doneDesc d (x.wrote + (if x.stale then 2 ^ 32 else 0)) s
    else s

/-- Whether HUB-W exchanges frames with the hub of slot `n`: its own slots always, others over the service net (R22, R284). -/
def hubMet (s : State) (n : Nat) : Bool := n / 128 == 0 || reach s (n / 128)

/-- Bytes of a STREAM_XFER's output are written to OUT_ADDR, from offset `off` on (R318). -/
def writeOut (d : DescRef) (off : Nat) (b : List Byte) (s : State) : State :=
  match descOf s d with
  | none => s
  | some x =>
    if x.outc.isSome then s
    else finishXfer d (updDesc d (fun y => { y with wrote := y.wrote + b.length }) (toHost d (BitVec.ofNat 64 (fld x 24 8 + off)) b s))

/-- Reads the next part of the input units into the landing buffer as space frees (R318): one read at a time, none while the hub moves buffers
(R316), the HOSTIF domain is not OPEN or the slot's hub is out of reach (R319). -/
def fillSlot (k : Fin 8) (n : Nat) (s : State) : State :=
  match slotAt s k n with
  | none => s
  | some x =>
    if s.moving.getLsbD (n / 128) || !isOpen s hostifCode || !hubMet s n || x.units.any (fun u => decide (u.read < u.asked)) then s
    else match x.units.find? fun u => decide (u.asked < u.len) with
      | none => s
      | some u =>
        let room := x.lcap - x.landing.length
        let m := min (u.len - u.asked) room
        if m = 0 || (decide (m < u.len - u.asked) && decide (room < 4096)) then s
        else match descOf s u.desc with
          | none => s
          | some d =>
            askHost u.desc .streamIn (BitVec.ofNat 64 (fld d 16 8 + u.asked)) m
              (updSlot k n (fun x => { x with units := x.units.map fun v => if v.desc == u.desc then { v with asked := v.asked + m } else v }) s)

/-- Whether a descriptor's unit of a slot still waits for `m` bytes that were asked for. -/
def awaits (x : Slot) (d : DescRef) (m : Nat) : Bool := x.units.any fun u => u.desc == d && decide (u.read + m ≤ u.asked)

/-- Bytes of an input unit land, as they were read. -/
def landIn (k : Fin 8) (n : Nat) (d : DescRef) (b : List Byte) (s : State) : State :=
  fillSlot k n (updSlot k n (fun x => { x with
    landing := x.landing ++ b, units := x.units.map fun u => if u.desc == d then { u with read := u.read + b.length } else u }) s)

/-- The slot bound to a port of a program. -/
def bindOf (g : Prog) (port : Nat) : Option PortBind := g.place.ports[port]?

/-- Takes `n` bytes from the front units; with them the STREAM_XFERs whose bytes they are. -/
def takeUnits : Nat → List SUnit → List SUnit × List (DescRef × Nat)
  | _, [] => ([], [])
  | n, u :: t =>
    if n = 0 then (u :: t, [])
    else
      let m := min n (u.len - u.rel)
      let note := if u.host then [(u.desc, m)] else []
      if u.rel + m < u.len then ({ u with rel := u.rel + m } :: t, note)
      else
        let r := takeUnits (n - m) t
        (r.1, note ++ r.2)

/-- Takes the next 16 bytes out of the landing buffer (R318). -/
def release16 (k : Fin 8) (n : Nat) (s : State) : State :=
  match slotAt s k n with
  | none => s
  | some x =>
    let r := takeUnits 16 x.units
    let s := updSlot k n (fun x => { x with landing := x.landing.drop 16, units := r.1 }) s
    fillSlot k n (r.2.foldl (fun s e => finishXfer e.1 (updDesc e.1 (fun y => { y with moved := y.moved + e.2 }) s)) s)

/-- Whether a slot takes `m` bytes of an edge message: every earlier unit has landed, and there is room (R345). -/
def takesEdge (x : Slot) (m : Nat) : Bool := x.units.all (fun u => u.read == u.len) && decide (x.landing.length + m ≤ x.lcap)

/-- Bytes of an edge message join the landing buffer (R345). -/
def landEdge (k : Fin 8) (n : Nat) (d : DescRef) (b : List Byte) (s : State) : State :=
  updSlot k n (fun x => { x with
    landing := x.landing ++ b,
    units := if b.isEmpty then x.units
      else x.units ++ [{ desc := d, host := false, len := b.length, asked := b.length, read := b.length, rel := 0 }] }) s

/-! ## What a reset does to a slot (R322) -/

/-- The record of discarded and padded bytes of a slot (R322, SRC 0x1D). -/
def slotLossRec (s : State) (k : Fin 8) (n discarded padded : Nat) : ErrRec :=
  withProg s k { hubRec s 0x1D 1 (n / 128) 2 with info := discarded % 2 ^ 32 + 2 ^ 32 * (padded % 2 ^ 32) }

/-- What a reset leaves of a slot's units and their landed bytes, and the bytes padded (R322): a partly released unit's rest becomes zero, units not
begun go; bytes of edge messages stay unless `all` goes (R448). -/
def keepUnits (all : Bool) : List SUnit → List Byte → List SUnit × List Byte × Nat
  | [], _ => ([], [], 0)
  | u :: t, b =>
    let m := u.read - u.rel
    let r := keepUnits all t (b.drop m)
    if !all && !u.host then (u :: r.1, b.take m ++ r.2.1, r.2.2)
    else if 0 < u.rel ∧ u.rel < u.len then
      ({ u with asked := u.len, read := u.len } :: r.1, zeros (u.len - u.rel) ++ r.2.1, u.len - u.rel + r.2.2)
    else r

/-- What the loss of a slot's cores leaves of its units (R316): a unit with bytes there is completed with zero words, one without goes on. -/
def fillUnits : List SUnit → List SUnit × List Byte × Nat
  | [] => ([], [], 0)
  | u :: t =>
    let r := fillUnits t
    if u.rel < u.read then ({ u with asked := u.len, read := u.len } :: r.1, zeros (u.len - u.rel) ++ r.2.1, u.len - u.rel + r.2.2)
    else (u :: r.1, r.2.1, r.2.2)

/-- One slot at a host-interface reset or its like (R322): reads in flight are dropped, a partly released unit's rest becomes zero words, units not begun
are dropped, the rest of a partly written output unit is discarded, what has not left the program yet among it; with `all` every exit byte goes (R448). One record
counts both. -/
def slotReset (k : Fin 8) (n : Nat) (all : Bool) (s : State) : State :=
  match slotAt s k n with
  | none => s
  | some x =>
    let refs := x.units.map (·.desc)
    let kept := keepUnits all x.units x.landing
    let pad := kept.2.2
    let part := match (xfersOf s k x.port).find? fun d => decide (d.sent < xferOut d) with
      | some d => if 0 < d.sent then xferOut d - d.sent else 0
      | none => 0
    let gone := if all then x.egress.length else min part x.egress.length
    let later := part - min part x.egress.length
    let s := { s with hostif := { s.hostif with reads := s.hostif.reads.filter fun r => !(r.why == .streamIn && refs.contains r.desc) } }
    let s := updSlot k n (fun x => { x with
      landing := kept.2.1, units := kept.1,
      egress := x.egress.drop gone, old := x.old - gone, skip := x.skip + later }) s
    if gone + later + pad = 0 then s else logRec (slotLossRec s k n (gone + later) pad) s

/-- One slot whose buffers lay on lost headland cores (R316). -/
def slotCores (k : Fin 8) (n : Nat) (s : State) : State :=
  match slotAt s k n with
  | none => s
  | some x =>
    let kept := fillUnits x.units
    let gone := x.egress.length
    let s := updSlot k n (fun x => { x with landing := kept.2.1, units := kept.1, egress := [], old := 0 }) s
    if gone + kept.2.2 = 0 then s else logRec (slotLossRec s k n gone kept.2.2) s

/-- Every slot of a resident program. -/
def eachSlot (f : Fin 8 → Nat → State → State) (p : Nat → Bool) (s : State) : State :=
  (List.finRange 8).foldl (fun s k => match prog? s k with
    | some g => ((g.slots.map (·.1)).filter p).foldl (fun s n => f k n s) s
    | none => s) s

/-- Exit bytes kept across a closing of the host interface are STALE (R318, R322). -/
def markStale (s : State) : State := eachSlot (fun k n => updSlot k n fun x => { x with old := x.egress.length }) (fun _ => true) s

/-! ## Spans and headlands (R26, R29, R159, R316) -/

/-- The hub and span port a router's port faces, if any (R159). -/
def spanOf (t : TileAt) (port : Nat) : Option (Nat × Nat) :=
  let r := t.row.val
  let c := t.col.val
  if c = 0 ∧ port = 3 ∧ 352 ≤ r ∧ r < 416 then some (0, r - 352)
  else if r = 0 ∧ port = 0 ∧ 480 ≤ c ∧ c < 544 then some (1, c - 480)
  else if c = 1023 ∧ port = 1 ∧ 352 ≤ r ∧ r < 416 then some (2, r - 352)
  else if r = 767 ∧ port = 2 ∧ 480 ≤ c ∧ c < 544 then some (3, c - 480)
  else none

/-- The headland core number `i` of a hub, row by row, as a tile number (R26). -/
def headCore (h i : Nat) : Nat :=
  match h with
  | 0 => 1024 * (352 + i / 8) + i % 8
  | 1 => 1024 * (i / 64) + 480 + i % 64
  | 2 => 1024 * (352 + i / 8) + 1016 + i % 8
  | _ => 1024 * (760 + i / 64) + 480 + i % 64

/-- The exit links of a hub's headland (R161): those that lead from its cores to cores of no headland, each as a core and the port of its router. A span's words enter
and leave the wafer at the ports of `spanOf` alone, so that they pass these links. -/
def exitLinks (h : Nat) : List (TileAt × Nat) :=
  (List.range 512).flatMap fun i => ((List.range 4).filter fun o => match neighbour (tileOfNo (headCore h i)) o with
    | some u => (headlandOf u).isNone
    | none => false).map fun o => (tileOfNo (headCore h i), o)

/-- The port of a headland core's router toward its inner edge, across from the hub (R159, R161). -/
def innerPort (h : Nat) : Nat := match h with
  | 0 => 1
  | 1 => 2
  | 2 => 3
  | _ => 0

/-- Whether a headland core is available (R29). -/
def headUp (s : State) (h i : Nat) : Bool :=
  netLive s (parcelOfNo (headCore h i)) && !inGap s (tileOfNo (headCore h i))

/-- The span port `n` of a hub is in service when its attaching core is available (R29, R159). -/
def spanUp (s : State) (h n : Nat) : Bool :=
  match h with
  | 0 => headUp s 0 (8 * n)
  | 1 => headUp s 1 n
  | 2 => headUp s 2 (8 * n + 7)
  | _ => headUp s 3 (448 + n)

/-- Whether any span port of a hub is in service. -/
def anySpan (s : State) (h : Nat) : Bool := (List.range 64).any (spanUp s h)

/-- What stands in the way of a port's slot: a fenced hub, or for a port with a fixed hub NOT_READY (R311, R316, R319, R448). -/
def slotBlocked (s : State) (p : PortBind) (x : Slot) : Option (Nat × Nat) :=
  let h := p.slot / 128
  let st := (dom s (hubCode h)).st
  if st = .closing ∨ st = .closed then some (stFenced, fencedDetail (hubCode h) false false)
  else if p.hubField = 0 then none
  else if st ≠ .opened ∨ ¬ reach s h then some (stNotReady, 2)
  else if ¬ anySpan s h then some (stNotReady, 3)
  else if x.lcap = 0 then some (stNotReady, 6)
  else none

/-- STREAM_XFERs that are under way end once their port's slot is not available (R316, R319): the unit that it is in the middle of is completed with zero words, as at a
host-interface reset (DEDUCED, log 166). -/
def blockXfers (s : State) : State :=
  (List.finRange 8).foldl (fun s k => match prog? s k with
    | none => s
    | some g => (g.place.ports.zipIdx).foldl (fun s e => match slotAt s k e.1.slot with
      | none => s
      | some x => match slotBlocked s e.1 x with
        | none => s
        | some b =>
          let l := xfersOf s k e.2
          if l.isEmpty then s else l.foldl (fun s d => decideDesc d.ref b.1 b.2 s) (slotReset k e.1.slot false s)) s) s

/-- The bound slots of a hub, by number. -/
def boundSlots (s : State) (h : Nat) : List Nat :=
  let all := (List.finRange 8).flatMap fun k => match prog? s k with
    | some g => (g.slots.map (·.1)).filter fun n => n / 128 == h
    | none => []
  all.mergeSort

/-- The capacities of a hub's `i`-th bound slot among `b`, with `a` headland cores available (R316). -/
def slotCaps (a b i : Nat) : Nat × Nat :=
  let q := a / b
  if q = 0 then (if i < a then (65536, 32768) else (0, 0))
  else (65536 * min 4 q, min 65536 (32768 * q))

/-- Whether a slot's buffers lie on an unavailable core: slot i of a hub is taken to lie on headland cores 4i to 4i + 3 (log 19). -/
def slotLost (s : State) (n : Nat) : Bool := (List.range 4).any fun j => !headUp s (n / 128) (4 * (n % 128) + j)

/-- Divides a hub's headland cores among its bound slots (R316). With `loss`, slots whose cores went lose what they held there. -/
def redivide (loss : Bool) (h : Nat) (s : State) : State :=
  let a := ((List.range 512).filter (headUp s h)).length
  let b := boundSlots s h
  if b.isEmpty then s
  else
    let s := if loss then eachSlot slotCores (fun n => n / 128 == h && slotLost s n) s else s
    let capOf (n : Nat) : Nat × Nat := slotCaps a b.length (b.findIdx (· == n))
    let changes := (List.finRange 8).any fun k => match prog? s k with
      | some g => g.slots.any fun e => e.1 / 128 == h && (e.2.lcap, e.2.ecap) != capOf e.1
      | none => false
    if changes then
      eachSlot (fun k n => updSlot k n fun x => { x with lcap := (capOf n).1, ecap := (capOf n).2 }) (fun n => n / 128 == h)
        { s with moving := s.moving ||| (1#4 <<< h) }
    else s

/-- The hubs whose headland lies in a parcel (R26). -/
def headHubs (p : Nat) : List Nat :=
  match p with
  | 4 => [0]
  | 1 | 2 => [1]
  | 7 => [2]
  | 9 | 10 => [3]
  | _ => []

/-- The headland buffers of a lost parcel go (R316), and STREAM_XFERs that it leaves without a slot end (R319). -/
def headLoss (p : Fin 12) (s : State) : State := blockXfers ((headHubs p.val).foldl (fun s h => redivide true h s) s)

/-- Whether a slot of a hub holds a partly released unit: its buffers stay as they are (R316). -/
def hubBusy (s : State) (h : Nat) : Bool :=
  (List.finRange 8).any fun k => match prog? s k with
    | some g => g.slots.any fun e => e.1 / 128 == h && e.2.units.any fun u => decide (0 < u.rel ∧ u.rel < u.len)
    | none => false

/-- When cores returned, the hub divides again at the next binding change, barrier or evacuation (R316). -/
def redivideAll (s : State) : State := (List.range 4).foldl (fun s h => if hubBusy s h then s else redivide false h s) s

end Sys2Proof.Machine
end

