-- ==== Sys2Proof/Machine/Operands.lean ====
section
/-! DEFINITION. Operand forms of the core: registers, immediates, relocated addresses, the loop buffer and the lane
shapes of a vector register (R38, R39, R45 to R47, R51, R58, R64, R82). -/

namespace Sys2Proof.Machine

/-! ## Registers (R38, R39) -/

def i4 (r : BitVec 4) : Fin 16 := ⟨r.toNat % 16, Nat.mod_lt _ (by decide)⟩
def i3 (r : BitVec 3) : Fin 8 := ⟨r.toNat % 8, Nat.mod_lt _ (by decide)⟩
def i2 (r : BitVec 2) : Fin 4 := ⟨r.toNat % 4, Nat.mod_lt _ (by decide)⟩

def rdG (x : Task) (r : BitVec 4) : Word := x.g[i4 r]
def wrG (r : BitVec 4) (v : Word) (x : Task) : Task := { x with g := x.g.set (i4 r) v }
/-- p0 always reads 1 (R39). -/
def rdP (x : Task) (r : BitVec 2) : Bool := if r = 0 then true else x.p[i2 r]
/-- A write to p0 is discarded (R39). -/
def wrP (r : BitVec 2) (v : Bool) (x : Task) : Task := if r = 0 then x else { x with p := x.p.set (i2 r) v }
def rdV (x : Task) (r : BitVec 3) : Line := x.v[i3 r]
def wrV (r : BitVec 3) (v : Line) (x : Task) : Task := { x with v := x.v.set (i3 r) v }

/-- A task's private state. -/
def taskAt (s : State) (k : TaskAt) : Task := (tileAt s k.tile).tasks[k.task]
/-- Changes a task. -/
def updTask (k : TaskAt) (f : Task → Task) (s : State) : State :=
  updTile k.tile (fun x => { x with tasks := x.tasks.set k.task (f x.tasks[k.task]) }) s
/-- A task's configuration words (R41). -/
def cfgAt (s : State) (k : TaskAt) : TaskCfg := (tileAt s k.tile).cfg[k.task]

/-! ## Immediates -/

def sx13 (x : BitVec 13) : Word := x.signExtend 32
def zx13 (x : BitVec 13) : Word := x.setWidth 32
def zx16 (x : BitVec 16) : Word := x.setWidth 32
/-- A branch offset, added to a 13-bit pc modulo 2^13 (R38, R52). -/
def offPc (x : BitVec 18) : BitVec 13 := x.setWidth 13

/-! ## Relocation and bounds (R45, R47); the sums are unsigned and do not wrap -/

/-- Whether `n` bytes at relative local address `a` lie in the task's local region. -/
def inLocal (c : TaskCfg) (a n : Nat) : Bool := decide (a + n ≤ 64 * c.lbound)
/-- Whether `n` bytes at relative cellar address `a` lie in the task's cellar region. -/
def inCellar (c : TaskCfg) (a n : Nat) : Bool := decide (a + n ≤ 64 * c.cbound)
/-- The physical byte of a relative local address. -/
def physL (c : TaskCfg) (a : Nat) : Nat := 64 * c.lbase + a
/-- The slab byte of a relative cellar address. -/
def physC (c : TaskCfg) (a : Nat) : Nat := 64 * c.cbase + a

/-! ## Loop buffer (R64) -/

/-- The instruction at index `pc` in the task's loop-buffer lines, from the line tagged for it: of several lines with one tag the lowest-numbered (R64;
log 137). -/
def fetchWord (x : Tile) (c : TaskCfg) (pc : Nat) : Option Word :=
  let tag := 16 * (pc / 16)
  match (List.range c.lbCount).find? fun j => match x.code[c.lbFirst + j]? with
      | some l => l.tag == some tag
      | none => false with
  | none => none
  | some j => match x.code[c.lbFirst + j]? with
    | some l => some (l.words.extractLsb' (32 * (pc % 16)) 32)
    | none => none

/-- The loop-buffer line that holds the instruction at `pc`, counted from the task's first line; the same line that a fetch takes (log 137). -/
def lineOf (x : Tile) (c : TaskCfg) (pc : Nat) : Option Nat :=
  (List.range c.lbCount).find? fun j => match x.code[c.lbFirst + j]? with
    | some l => l.tag == some (16 * (pc / 16))
    | none => false

/-! ## Lanes of a vector register (R58, R82) -/

def lane32 (v : Line) (i : Nat) : Nat := (v.extractLsb' (32 * i) 32).toNat
def lane16 (v : Line) (i : Nat) : Nat := (v.extractLsb' (16 * i) 16).toNat
/-- The lanes of a register in shape W: 16 of 32 bits or 32 of 16 bits. -/
def lanes (w : BitVec 1) (v : Line) : List Nat :=
  if w = 0 then (List.range 16).map (lane32 v) else (List.range 32).map (lane16 v)
/-- Packs elements of `n` bits, the first lowest (R82). -/
def packN (n : Nat) : List Nat → Nat
  | [] => 0
  | x :: t => x % 2 ^ n + 2 ^ n * packN n t
/-- A register of lanes in shape W. -/
def packLanes (w : BitVec 1) (l : List Nat) : Line := BitVec.ofNat 512 (packN (if w = 0 then 32 else 16) l)
/-- Replaces `n` bits at bit `lo` of a line. -/
def setBits (v : Line) (lo n x : Nat) : Line :=
  let m : Line := BitVec.ofNat 512 (2 ^ n - 1) <<< lo
  (v &&& ~~~m) ||| (BitVec.ofNat 512 (x % 2 ^ n) <<< lo)
/-- Quarter q of a register (R60). -/
def quarter (v : Line) (q : BitVec 2) : Quad := v.extractLsb' (128 * q.toNat) 128
/-- Element e of a packed bit string of `n`-bit elements (R82). -/
def elem (n : Nat) (v : Line) (e : Nat) : Nat := (v.toNat / 2 ^ (n * e)) % 2 ^ n

end Sys2Proof.Machine
end

