-- ==== Sys2Proof/Machine/Flags.lean ====
section
/-! DEFINITION. What decides whether an instruction issues: fault codes, guards, the scoreboard's interlocks and
the ports' claims (R49, R66, R67, R77, R115). The core has no condition flags beside its predicates. -/

namespace Sys2Proof.Machine

/-! ## Program fault codes (R77) -/

def fIllegal : Nat := 0x01
def fOwner : Nat := 0x02
def fBranch : Nat := 0x03
def fSegment : Nat := 0x04
def fLoop : Nat := 0x05
def fAlign : Nat := 0x06
def fLbound : Nat := 0x07
def fCbound : Nat := 0x08
def fFormat : Nat := 0x09
def fPort : Nat := 0x0A
def fCodeMiss : Nat := 0x0B
def fOverrun : Nat := 0x0C
def fChannel : Nat := 0x0D

/-- A fault code where a condition holds. -/
def faultIf (c : Bool) (code : Nat) : List Nat := if c then [code] else []

/-- The lowest code of several (R77). -/
def lowest : List Nat → Option Nat
  | [] => none
  | c :: t => match lowest t with
    | none => some c
    | some d => some (min c d)

/-- What issue must know of an instruction: whether its encoding is illegal, whether it must always execute (R49), the registers it reads
and those it writes with the beats after issue at which they are usable (R66), the beat it waits for under other interlocks, its
wide-port beats and cellar slots (R66, R115, R117), and the program faults its operands raise (R77). -/
structure Plan where
  ill    : Bool := false
  always : Bool := false
  gs     : List (BitVec 4) := []
  ps     : List (BitVec 2) := []
  vs     : List (BitVec 3) := []
  gd     : List (BitVec 4 × Nat) := []
  pd     : List (BitVec 2 × Nat) := []
  vd     : List (BitVec 3 × Nat) := []
  wait   : Nat := 0
  wide   : List Nat := []
  slots  : List Nat := []
  faults : List Nat := []

/-- Whether the guard lets the instruction execute (R49). -/
def guardOk (x : Task) (g : Guard) : Bool := rdP x g.gp != (g.gs == 1)

/-- Whether the guard is "always": GP = 0 and GS = 0. -/
def guardAlways (g : Guard) : Bool := g.gp == 0 && g.gs == 0

/-- Whether an instruction waits under an interlock in beat `t` (R66, R73, R76, R93): for its guard, its sources, and every pending write
of a register it writes. -/
def waits (x : Task) (g : Guard) (pl : Plan) (t : Nat) : Bool :=
  (pl.gs ++ pl.gd.map (·.1)).any (fun r => decide (t < x.gReady[i4 r])) ||
  (g.gp :: pl.ps ++ pl.pd.map (·.1)).any (fun r => decide (t < x.pReady[i2 r])) ||
  (pl.vs ++ pl.vd.map (·.1)).any (fun r => decide (t < x.vReady[i3 r])) || decide (t < pl.wait)

/-- Marks the results of an instruction issued in beat `t` as usable from their beats (R66); p0 has none. -/
def scoreboard (pl : Plan) (t : Nat) (x : Task) : Task :=
  let x := pl.gd.foldl (fun x e => { x with gReady := x.gReady.set (i4 e.1) (t + e.2) }) x
  let x := pl.pd.foldl (fun x e => if e.1 = 0 then x else { x with pReady := x.pReady.set (i2 e.1) (t + e.2) }) x
  pl.vd.foldl (fun x e => { x with vReady := x.vReady.set (i3 e.1) (t + e.2) }) x

/-- Whether an instruction's port beats meet beats already claimed (R67, R115): the same wide-port beat, or overlapping two-beat slots. -/
def conflict (x : Tile) (pl : Plan) : Bool :=
  pl.wide.any x.wide.contains ||
  pl.slots.any fun a => x.slots.any fun b => decide (a ≤ b + 1 ∧ b ≤ a + 1)

/-- Claims an instruction's port beats. -/
def claim (pl : Plan) (x : Tile) : Tile := { x with wide := x.wide ++ pl.wide, slots := x.slots ++ pl.slots }

end Sys2Proof.Machine
end

