-- ==== Sys2Proof/Machine/Issue.lean ====
section
/-! DEFINITION. Own beats and issue: which beat belongs to a task, when its instruction issues, program faults, the loop
stack and segments (R42 to R44, R49, R53, R54, R66 to R69, R77 to R80), and residue checks (R108, R109). -/

namespace Sys2Proof.Machine

/-! ## Program faults (R77 to R79) -/

/-- DETAIL of ACCESS_FAULT for a program fault (R312). -/
def faultDetail (x : Tile) (task : Fin 4) (code : Nat) : Nat :=
  code + 2 ^ 8 * task.val + 2 ^ 10 * x.pslot.val + 2 ^ 16 * x.plot + 2 ^ 32 * x.prow + 2 ^ 40 * x.pcol

/-- The record of a program fault (R78, R415). -/
def faultRec (s : State) (k : TaskAt) (code word : Nat) : ErrRec :=
  withProg s (tileAt s k.tile).pslot
    { tileRec s 0x01 2 0 0 k.tile with ecode := code, okind := 1, task := k.task.val, opword := word }

/-- A program fault (R77 to R79): the task stops, a DOMAIN_LOST record is logged, PROGRAM_FAULT is set, the program's slot is fenced
with cause 3, and the first affected completion on each bound SQ will carry the code of the first record. -/
def programFault (k : TaskAt) (code word : Nat) (s : State) : State :=
  let x := tileAt s k.tile
  let ps := x.pslot
  let r := nextRseq s
  let first := isOpen s (progCode ps.val)
  let s := updTask k (fun t => { t with faulted := true }) s
  let s := attn attnProgFault (logFor (faultRec s k code word) [progCode ps.val] s)
  let s := match prog? s ps with
    | some g => if first then
        { s with hostif := { s.hostif with owed := s.hostif.owed ++ g.sqs.map fun q => (q, ps, faultDetail x k.task code, nsNow s) } }
      else s
    | none => s
  fenceProg ps 3 r true s

/-! ## Own beats (R42 to R44) -/

/-- The pattern entry of program beat `b` (R42). -/
def patEntry (x : Tile) (b : Nat) : Nat := (x.pattern.extractLsb' (3 * (b % 16)) 3).toNat

/-- Whether the core of a tile runs a program in the present beat: placed, its program running, its parcel's clock going, no hold beat
(R42, R43). -/
def coreRuns (s : State) (t : TileAt) : Bool :=
  let x := tileAt s t
  x.placed && parcelRuns s (parcelOf t) && !holdNow s &&
  (match prog? s x.pslot with | some g => progRuns s g | none => false)

/-- The program beat number at a tile. -/
def beatAt (s : State) (t : TileAt) : Nat :=
  match prog? s (tileAt s t).pslot with
  | some g => progBeat s g
  | none => 0

/-- Whether the present beat is an own beat of task `k` not yet used (R42). -/
def ownReady (s : State) (k : TaskAt) : Bool :=
  let x := tileAt s k.tile
  coreRuns s k.tile && patEntry x (beatAt s k.tile) == k.task.val && x.ownAt != some s.beats.wrb

/-- Counts the own beat, also toward an open segment (R44, R68, R69). -/
def countOwn (k : TaskAt) (s : State) : State :=
  updTask k (fun t => { t with own := t.own + 1, seg := t.seg.map fun e => (e.1, e.2 + 1) })
    (updTile k.tile (fun x => { x with ownAt := some s.beats.wrb }) s)

/-- Whether own beat n of an open segment has passed (R68). -/
def overrun (t : Task) : Bool :=
  match t.seg with
  | some e => decide (e.1 < e.2)
  | none => false

/-- One own beat of task `k`: it issues nothing while not enabled, halted or faulted, in the second beat of a taken branch, or in a segment's
padding (R44, R66, R68); the instruction due after own beat n of a segment faults (R68); otherwise `act` issues. -/
def ownBeatWith (chk : Bool) (k : TaskAt) (act : State → State) (s : State) : State :=
  if ownReady s k then
    let s := countOwn k s
    let t := taskAt s k
    if !(cfgAt s k).en || t.halted || t.faulted then s
    else if t.skip ≠ 0 then updTask k (fun t => { t with skip := t.skip - 1 }) s
    else if t.pad ≠ 0 then updTask k (fun t => { t with pad := t.pad - 1 }) s
    else if chk && overrun t then programFault k fOverrun 0 s
    else act s
  else s

/-! ## Program counter and loop stack (R52, R54) -/

/-- What follows instruction `pc`: the top of the innermost loop that ends there and has passes left, else the next instruction (R54: a return
to the top costs no beat). -/
def advLoop : List LoopEnt → BitVec 13 → BitVec 13 × List LoopEnt
  | [], pc => (pc + 1, [])
  | e :: t, pc =>
    if e.last = pc then (if e.left = 0 then advLoop t pc else (e.first, { e with left := e.left - 1 } :: t))
    else (pc + 1, e :: t)

/-- Moves past instruction `pc`. -/
def advFrom (pc : BitVec 13) (t : Task) : Task :=
  let a := advLoop t.loops pc
  { t with pc := a.1, loops := a.2 }

/-! ## Issue (R49, R66, R67, R77) -/

/-- The checked points of R108 that an instruction passes: 0 staging, 1 products, 2 alignment and rounding, 3 accumulation, 4 the vector unit's
multipliers and adders and the VFUNC evaluation. -/
def residuePoints (i : Instr) : List Nat :=
  match i with
  | .mlds .. => [0]
  | .mma .. => [1, 2]
  | .mrd .. => [3]
  | .vadd .. | .vsub .. | .vmul .. | .vfma .. | .vfunc .. | .vrsum .. => [4]
  | _ => []

/-- Whether a FINITE lane's A has not the residue that it has carried (R108). -/
def residueBad (l : Lane) : Bool := l.st == .finite && (l.a.toInt.emod 7).toNat != l.res

/-- The mismatches that instruction `i` finds in a tile; lanes that are not FINITE are not compared (R108). R109 does not say whether several products of a
product beat, or several lanes at one MRD, make one record or one each: here they make one for each checked point and beat (DESIGN CHOICE, log 151). -/
def residueHits (i : Instr) (x : Tile) : List Nat :=
  (residuePoints i).filter fun p =>
    (x.residue.contains p && (p != 3 || x.lanes.any fun l => l.st == .finite)) || (p == 3 && x.lanes.any residueBad)

/-- A residue mismatch at point `p` (R109, R420): a SUSPECT record that names core and operation, the next completion on each bound SQ spoilt, and
the suspect-unit policy. The result stays as computed. -/
def residueMismatch (k : TaskAt) (word : Nat) (s : State) (p : Nat) : State :=
  let e := withProg s (tileAt s k.tile).pslot { tileRec s 0x06 3 0 0 k.tile with okind := 1, task := k.task.val, opword := word, info := p }
  suspectTile k.tile (logSuspect e (spoil k.tile (updTile k.tile (fun x => { x with residue := x.residue.filter (· != p) }) s)))

/-- Issues instruction `i` of task `k`: it waits under its interlocks; in its issue beat ILLEGAL_INSTRUCTION comes first (R77: the lowest code);
a false guard uses the own beat without effect; else the lowest fault, or its effect after its results and port beats are claimed and the
pc has moved on. -/
def issue (i : Instr) (k : TaskAt) (g : Guard) (pl : Plan) (eff : State → State) (s : State) : State :=
  let word := ((encodeCore i).getD 0).toNat
  let t := taskAt s k
  let b := s.beats.wrb
  if waits t g pl b then s
  else if pl.ill || (pl.always && !guardAlways g) then programFault k fIllegal word s
  else if !guardOk t g then
    (if pl.faults.contains fIllegal then programFault k fIllegal word s else updTask k (advFrom t.pc) s)
  else match lowest (pl.faults ++ faultIf (conflict (tileAt s k.tile) pl) fPort) with
    | some c => programFault k c word s
    | none => (residueHits i (tileAt s k.tile)).foldl (residueMismatch k word)
        (eff (updTask k (fun x => advFrom t.pc (scoreboard pl b x)) (updTile k.tile (claim pl) s)))

/-- An own beat of task `k` in which instruction `i` is due. -/
def ownBeat (i : Instr) (k : TaskAt) (g : Guard) (pl : State → Plan) (eff : State → State) (s : State) : State :=
  ownBeatWith true k (fun s => issue i k g (pl s) eff s) s

/-- An instruction of task `k` as a reader (R415). -/
def byInstr (k : TaskAt) (i : Instr) : Reader := .instruction k.task ((encodeCore i).getD 0).toNat

/-- Schedules what an instruction, or the engine itself, does at a later beat. -/
def schedule (t : TileAt) (due : Nat) (early : Bool) (r : Reader) (a : Act) (s : State) : State :=
  updTile t (fun x => { x with acts := x.acts ++ [{ due := due, early := early, by_ := r, act := a }] }) s

end Sys2Proof.Machine
end

