-- ==== Sys2Proof/Machine/Window.lean ====
section
/-! DEFINITION. The matrix unit's arithmetic: staging entries and their sparse and transposed loads, products, window
accumulators and readout (R71 to R75, R82 to R95, R195 to R202). -/

namespace Sys2Proof.Machine

/-! ## Staging entries (R71, R72, R195 to R202) -/

/-- Element width in bits of a staged format (R71). -/
def stageWidth (f : Nat) : Nat := match fmtOf f with
  | some x => x.width
  | none => 8

/-- Elements per slice (R71). -/
def perSlice (f : Nat) : Nat :=
  match stageWidth f with
  | 4 => 16
  | 16 => 4
  | 32 => 2
  | _ => 8

/-- The operand class of a format (R74): 0 8 × 8 float, 1 8 × 8 integer, 2 depth-2 float, 3 depth-2 integer, 4 BF16, 5 FP32. -/
def opClass (f : Nat) : Option Nat :=
  match f with
  | 0x0 => some 5
  | 0x1 => some 4
  | 0x2 | 0x3 | 0x4 | 0x5 | 0x9 | 0xA | 0xB | 0xC => some 0
  | 0x6 | 0xD => some 2
  | 0x7 => some 1
  | 0x8 => some 3
  | _ => none

/-- Whether a format carries MX scales (R59, R72). -/
def isMx (f : Nat) : Bool := decide (9 ≤ f ∧ f ≤ 13)

/-- Bytes read for an entry's values (R71). -/
def valueBytes (f : Nat) : Nat := if stageWidth f = 6 then 48 else 64

/-- Value `i` of a block that starts at byte `voff` of a line, 0 when it runs past the line (R200). -/
def blockVal (w voff i : Nat) (line : Line) : Nat :=
  if 8 * voff + w * i + w ≤ 512 then (line.toNat / 2 ^ (8 * voff + w * i)) % 2 ^ w else 0

/-- N:M expansion (R200): the i-th set bit of MASK takes value i. -/
def expandMask (w voff : Nat) (line : Line) (mask : Nat) : Nat → Nat → Nat → List Nat
  | 0, _, _ => []
  | n + 1, e, i =>
    if (mask / 2 ^ e) % 2 = 1 then blockVal w voff i line :: expandMask w voff line mask n (e + 1) (i + 1)
    else 0 :: expandMask w voff line mask n (e + 1) i

/-- The walk of a row list (R202): columns in order, COUNT[s] indices each (above 8 taken as 8), naming elements 8s + row. -/
def rowWalk (counts rows : Nat) : List Nat :=
  let cnt (s : Nat) : Nat := min 8 ((counts / 16 ^ s) % 16)
  let cols := (List.range 8).flatMap fun s => List.replicate (cnt s) s
  cols.mapIdx fun i s => 8 * s + (rows / 8 ^ i) % 8

/-- Row-list expansion (R202): the i-th index read takes value i; a later one of the same element is kept. -/
def expandRows (w voff : Nat) (line : Line) (counts rows : Nat) : List Nat :=
  let walk := (rowWalk counts rows).mapIdx fun i e => (e, i)
  (List.range 64).map fun e => match walk.reverse.find? fun p => p.1 == e with
    | some p => blockVal w voff p.2 line
    | none => 0

/-- The transpose of an entry's elements (R72, R200): (slice s, position p) to (slice p, position s), each depth place kept. -/
def transpose (f : Nat) (l : List Nat) : List Nat :=
  if stageWidth f = 4 then
    (List.range 128).map fun e => (l[16 * (e / 2 % 8) + 2 * (e / 16) + e % 2]?).getD 0
  else (List.range 64).map fun e => (l[8 * (e % 8) + e / 8]?).getD 0

/-- The elements of a packed line (R82). -/
def unpack (f : Nat) (v : Line) : List Nat := (List.range (8 * perSlice f)).map (elem (stageWidth f) v)

/-- The integer significand of an element modulo 7 (R108). -/
def residueOf (f e : Nat) : Nat :=
  match fmtOf f with
  | none => 0
  | some t => match decodeVal t e with
    | .fin _ m _ => m % 7
    | _ => 0

/-- A staging entry from its elements, each with its residue (R108). -/
def mkStaged (f : BitVec 4) (l : List Nat) (scales : Word) : Staged :=
  { fmt := some f, data := BitVec.ofNat 512 (packN (stageWidth f.toNat) l), scales := scales, res := l.map (residueOf f.toNat) }

/-- The entry of a mode 0, 1 or 4 load: the values line as it is, or transposed (R72). -/
def stagePlain (mode : Nat) (f : BitVec 4) (line : Line) (scales : Word) : Staged :=
  let l := unpack f.toNat line
  mkStaged f (if mode = 4 then transpose f.toNat l else l) (if mode = 1 then scales else 0)

/-- The entry of a sparse load from its values line and its record's bytes as a number (R199 to R202): as they read, whether or not they match anything
(R203, R204); its residues are those of what it expands to (R205). -/
def stageSparse (mode : Nat) (f : BitVec 4) (line : Line) (rec : Nat) : Staged :=
  let w := stageWidth f.toNat
  if mode = 3 then
    mkStaged f (expandRows w (bits rec 229 224) line (bits rec 31 0) (bits rec 223 32)) 0
  else
    let l := expandMask w (bits rec 85 80) line (bits rec 63 0) 64 0 0
    if mode = 5 then mkStaged f (transpose f.toNat l) (BitVec.ofNat 32 (bits rec 79 64))
    else mkStaged f l 0

/-- The exact value of element `e` of an entry with its block scale applied (R84, R85). -/
def stagedVal (x : Staged) (e : Nat) : Val :=
  match x.fmt with
  | none => .nan
  | some f =>
    match fmtOf f.toNat with
    | none => .nan
    | some t =>
      let v := decodeVal t (elem t.width x.data e)
      if isMx f.toNat then
        let s := (x.scales.toNat / 256 ^ (e / 32)) % 256
        if s = 255 then .nan else mulVal v (.fin false 1 ((s : Int) - 127))
      else v

/-! ## Products and lanes (R75, R86 to R91) -/

/-- The contributions of one product beat: lane and exact value (R75, R88). -/
def contributions (ea eb : Staged) (sa sb blk : Nat) : List (Nat × Val) :=
  let a (i : Nat) : Val := stagedVal ea (match ea.fmt with | some f => perSlice f.toNat * sa + i | none => 0)
  let b (j : Nat) : Val := stagedVal eb (match eb.fmt with | some f => perSlice f.toNat * sb + j | none => 0)
  let grid (n : Nat) : List (Nat × Nat) := (List.range n).flatMap fun i => (List.range n).map fun j => (i, j)
  match ea.fmt.bind fun f => opClass f.toNat with
  | some 0 | some 1 => (grid 8).map fun p => (8 * p.1 + p.2, mulVal (a p.1) (b p.2))
  | some 2 | some 3 => (grid 8).map fun p =>
      (8 * p.1 + p.2, addVal 0 (mulVal (a (2 * p.1)) (b (2 * p.2))) (mulVal (a (2 * p.1 + 1)) (b (2 * p.2 + 1))))
  | some 4 => (grid 4).map fun p => (8 * (4 * (blk / 2) + p.1) + (4 * (blk % 2) + p.2), mulVal (a p.1) (b p.2))
  | some 5 => (grid 2).map fun p => (8 * (2 * (blk / 4) + p.1) + (2 * (blk % 4) + p.2), mulVal (a p.1) (b p.2))
  | _ => []

/-- The pairs of element places in two slices that a product beat multiplies, by operand class (R75). -/
def productPairs (cls : Nat) : List (Nat × Nat) :=
  let grid (n : Nat) : List (Nat × Nat) := (List.range n).flatMap fun i => (List.range n).map fun j => (i, j)
  match cls with
  | 0 | 1 => grid 8
  | 2 | 3 => (grid 8).flatMap fun p => [(2 * p.1, 2 * p.2), (2 * p.1 + 1, 2 * p.2 + 1)]
  | 4 => grid 4
  | _ => grid 2

/-- Whether some product's residue is not the product of the residues stored with its operands (R108). -/
def productBad (ea eb : Staged) (sa sb : Nat) : Bool :=
  match ea.fmt, eb.fmt, ea.fmt.bind (fun f => opClass f.toNat) with
  | some f, some g, some cls =>
    let at_ (x : Staged) (h : BitVec 4) (i : Nat) : Nat × Nat :=
      (residueOf h.toNat (elem (stageWidth h.toNat) x.data i), (x.res[i]?).getD 0)
    (productPairs cls).any fun p =>
      let a := at_ ea f (perSlice f.toNat * sa + p.1)
      let b := at_ eb g (perSlice g.toNat * sb + p.2)
      a.1 * b.1 % 7 != a.2 * b.2 % 7
  | _, _, _ => false

/-- A finite contribution entering a FINITE lane (R89, R90, R108); the flag says whether it was rounded. The range check takes the sum with the rounded
multiple (log 132). -/
def addFinite (l : Lane) (neg : Bool) (m : Nat) (e : Int) : Lane × Bool :=
  let k : Int := e - ((l.w.toNat : Int) - 192)
  let n : Nat := if 0 ≤ k then m * 2 ^ k.toNat else roundInt 0 0 neg m (-k).toNat
  let inex : Bool := decide (k < 0) && decide (m % 2 ^ (-k).toNat ≠ 0)
  let sum : Int := l.a.toInt + (if neg then -(n : Int) else n)
  let l := { l with inexact := l.inexact || inex, res := (l.res + (if neg then 7 - n % 7 else n % 7)) % 7 }
  if sum < -(2 ^ 127 : Int) then ({ l with st := .ovfNeg }, inex)
  else if (2 ^ 127 : Int) ≤ sum then ({ l with st := .ovfPos }, inex)
  else ({ l with a := BitVec.ofInt 128 sum }, inex)

/-- One contribution to a lane, by the first row of R91 that applies; the flag says whether R89 rounded it. -/
def contribute (l : Lane) (v : Val) : Lane × Bool :=
  match v with
  | .nan => ({ l with st := .nan }, false)
  | .inf neg =>
    match l.st with
    | .nan => (l, false)
    | .infPos => (if neg then { l with st := .nan } else l, false)
    | .infNeg => (if neg then l else { l with st := .nan }, false)
    | _ => ({ l with st := if neg then .infNeg else .infPos }, false)
  | .fin neg m e =>
    match l.st with
    | .finite => addFinite l neg m e
    | _ => (l, false)

/-- One product beat of a tile's matrix unit (R73, R75, R92): lanes updated, WIN_INEXACT events counted, saturating. -/
def productBeat (x : Tile) (ea eb : Fin 8) (sa sb blk : Nat) : Tile :=
  let cs := contributions x.stage[ea] x.stage[eb] sa sb blk
  cs.foldl (fun x c =>
    let i : Fin 64 := fin64 c.1
    let r := contribute x.lanes[i] c.2
    { x with lanes := x.lanes.set i r.1, inexact := if r.2 then sat32 (x.inexact + 1) else x.inexact }) x

/-- A lane cleared by MCLR or by MRD with CLR = 1 (R93, R94): W is kept. -/
def clearLane (l : Lane) : Lane := { l with a := 0, st := .finite, inexact := false, res := 0 }

/-! ## Readout (R94, R95) -/

/-- A sampled lane rounded to a format (R95). -/
def readLane (f : Fmt) (rnd d : Nat) (l : Lane) : Nat :=
  match l.st with
  | .nan => canonNaN f
  | .infPos => infOf f false
  | .infNeg => infOf f true
  | .ovfPos => overflowOf f rnd false
  | .ovfNeg => overflowOf f rnd true
  | .finite =>
    if l.a = 0 then 0
    else roundTo f rnd d (.fin (decide (l.a.toInt < 0)) l.a.toInt.natAbs ((l.w.toNat : Int) - 192))

/-- The draws of `n` lane results, in order, and the generator's state after them (R99, R101). -/
def draws : Nat → Word → List Nat × Word
  | 0, x => ([], x)
  | n + 1, x =>
    let y := xorshift x
    let r := draws n y
    (y.toNat :: r.1, r.2)

/-- Draws for `n` lane results: taken only under RND = 3 (R101). -/
def drawsFor (rnd n : Nat) (x : Word) : List Nat × Word :=
  if rnd = 3 then draws n x else (List.replicate n 0, x)

/-- The 64 lanes read out in row-major order (R76, R94). -/
def readLanes (f : Fmt) (rnd : Nat) (ds : List Nat) (ls : Vector Lane 64) : List Nat :=
  (ls.toList.zip ds).map fun p => readLane f rnd p.2 p.1

end Sys2Proof.Machine
end

