-- ==== Sys2Proof/Machine/Acts.lean ====
section
/-! DEFINITION. What instructions in flight do at their fixed beats, memory accesses with their error checks, and
the passing of a running beat (R60, R65, R66, R71 to R73, R114 to R117, R124 to R128, R141, R163, R179 to R182). -/

namespace Sys2Proof.Machine

/-! ## Memory errors (R124 to R128, R420) -/

/-- Bytes in one check word (R113). -/
def checkBytes : MemSpace → Nat
  | .sram => 8
  | .slab => 16

/-- The unit kind of a memory in records (R414). -/
def memUnit : MemSpace → Nat
  | .sram => 0
  | .slab => 1

/-- INFO of a memory record: line, word in the line, bit (R416). -/
def eccInfo (m : MemSpace) (word bit : Nat) : Nat :=
  let per := 64 / checkBytes m
  (word / per) % 1024 + 2 ^ 10 * (word % per) + 2 ^ 13 * bit

/-- The operation of a record: who read (R415). -/
def readBy (r : Reader) (e : ErrRec) : ErrRec :=
  match r with
  | .instruction task word => { e with okind := 1, task := task.val, opword := word }
  | .message tag opc source => { e with okind := 4, opword := tag + 4096 * opc, opaux := source }
  | .descriptor opc sq seq => { e with okind := 2, opword := opc + 256 * sq, opaux := seq }
  | _ => e

/-- A descriptor as a reader. -/
def byDesc (s : State) (d : DescRef) : Reader :=
  match descOf s d with
  | some x => .descriptor (opcOf x) d.sq.val d.seq.toNat
  | none => .window

/-- A record of a tile's memory, naming the reader and the program whose footprint holds the tile (R126). -/
def memRec (s : State) (src sev : Nat) (t : TileAt) (m : MemSpace) (r : Reader) : ErrRec :=
  let e := readBy r (tileRec s src sev (memUnit m) 0 t)
  match ownersOf (tileAt s t) with
  | k :: _ => withProg s k e
  | [] => e

/-- Marks a tile for retirement, with the SRC 0x05 record (R128, R129). -/
def retireMark (t : TileAt) (reason : Nat) (s : State) : State :=
  if (tileAt s t).retire then s
  else logRec { tileRec s 0x05 1 0 0 t with info := reason } (updTile t (fun x => { x with retire := true }) s)

/-- A hard error (R128): in a slab its row is to be replaced, or the tile retired when all four spares are in use; in local SRAM the tile
is marked for retirement. R128 does not say whether rows whose repair is deferred (R129) count against the four spares: here they do (DESIGN CHOICE, log 152). -/
def hardError (t : TileAt) (m : MemSpace) (word : Nat) (s : State) : State :=
  let x := tileAt s t
  let row := word * 16 / 128
  match m with
  | .sram => retireMark t 1 s
  | .slab =>
    if x.toRepair.contains row then s
    else if x.repairs.length + x.toRepair.length < 4 then updTile t (fun x => { x with toRepair := x.toRepair ++ [row] }) s
    else retireMark t 2 s

/-- Whether a marked word is touched by an access to `n` bytes at `a`. -/
def touched (m : MemSpace) (a n : Nat) (e : EccMark) : Bool :=
  let b := checkBytes m
  e.space == m && decide (a < b * (e.word + 1) ∧ b * e.word < a + n)

/-- One marked word is read (R124 to R126, R128): a single-bit error is corrected, logged and due for writeback, and until then counts in the same record; an
uncorrectable word is logged, and where an instruction or the scrubber read it the next OK on each SQ bound to the tile's programs is lost. An error that
comes back after a completed writeback, or after a write of an uncorrectable word, is hard. -/
def readMark (r : Reader) (t : TileAt) (s : State) (e : EccMark) : State :=
  let s := if !e.met && (tileAt s t).mended.contains (e.space, e.word, e.bit) then hardError t e.space e.word s else s
  let s := match e.bit with
    | some b => logRec { memRec s 0x02 0 t e.space r with info := eccInfo e.space e.word b, again := e.met } s
    | none =>
      let s := logRec { memRec s 0x03 1 t e.space r with info := eccInfo e.space e.word 0 } s
      match r with
      | .instruction _ _ | .engine => spoil t s
      | _ => s
  updTile t (fun x => { x with ecc := x.ecc.map fun m => if m == e then { m with met := true } else m }) s

/-- The check that a read makes of each word it touches (R124, R126). -/
def eccRead (r : Reader) (t : TileAt) (m : MemSpace) (a n : Nat) (s : State) : State :=
  ((tileAt s t).ecc.filter (touched m a n)).foldl (readMark r t) s

/-- Whether an access meets an uncorrectable word. -/
def eccBad (x : Tile) (m : MemSpace) (a n : Nat) : Bool := x.ecc.any fun e => touched m a n e && e.bit.isNone

/-- A mark once its word has been written: gone, unless the cell fails again. -/
def EccMark.after (e : EccMark) : Option EccMark := if e.stuck then some { e with met := false } else none

/-- Remembers words that have been mended, each once. -/
def mend (l : List (MemSpace × Nat × Option Nat)) (x : Tile) : Tile :=
  { x with mended := x.mended ++ l.filter fun w => !x.mended.contains w }

/-- A write stores new check bits (R125, R126): errors of the words it writes are gone, but for cells that fail again, and a waiting writeback is cancelled. R126
does not say what a write of part of a check word does: here it stores new check bits for the whole word, without a check of the rest (DESIGN CHOICE, log 153). -/
def eccWrite (m : MemSpace) (a n : Nat) (x : Tile) : Tile :=
  let again := (x.ecc.filter fun e => touched m a n e && e.bit.isNone && e.met).map fun e => (e.space, e.word, e.bit)
  mend again { x with ecc := x.ecc.filterMap fun e => if touched m a n e then e.after else some e }

/-- A corrected word is written back (R125). -/
def writeback (e : EccMark) (x : Tile) : Tile :=
  mend [(e.space, e.word, e.bit)] { x with ecc := x.ecc.filterMap fun m => if m == e then m.after else some m }

/-- Every corrected word of a memory is written back. -/
def writebackAll (m : MemSpace) (x : Tile) : Tile :=
  (x.ecc.filter fun e => e.space == m && e.met && e.bit.isSome).foldl (fun x e => writeback e x) x

/-- A memory filled with zero (R130). -/
def zeroMem (m : MemSpace) (x : Tile) : Tile := eccWrite m 0 65536 (setMem x m [])

/-! ## Repair and retirement (R128, R129) -/

/-- A row is replaced by the next spare; the record names row and spare (R128, R129). -/
def repairRow (t : TileAt) (row : Nat) (s : State) : State :=
  let spare := (tileAt s t).repairs.length
  let here (w : Nat) : Bool := w / 8 == row
  let s := updTile t (fun x => { x with
    repairs := x.repairs ++ [(row, spare)], toRepair := x.toRepair.filter (· != row), slab := writeBytes x.slab (128 * row) (zeros 128),
    ecc := x.ecc.filter (fun e => !(e.space == .slab && here e.word)), mended := x.mended.filter fun e => !(e.1 == .slab && here e.2.1) }) s
  bumpGen (logRec { tileRec s 0x04 0 1 0 t with info := row + 512 * spare } s)

/-- A marked tile joins the cull list as KIND 1 (R129). -/
def retireTile (t : TileAt) (s : State) : State :=
  let s := updTile t (fun x => { x with retire := false }) s
  match physCol s t.row.val t.col.val with
  | some pc => addCulls [(t.row.val, pc, 1)] s
  | none => s

/-- The deferred repairs and the retirement of a tile that has left its footprint (R129). -/
def deferredWork (t : TileAt) (s : State) : State :=
  let s := (tileAt s t).toRepair.foldl (fun s r => repairRow t r s) s
  if (tileAt s t).retire then retireTile t s else s

/-- Writes a line of a tile's memory. -/
def storeLine (t : TileAt) (m : MemSpace) (line : Nat) (v : Line) (s : State) : State :=
  updTile t (fun x => eccWrite m (64 * line) 64 (setMem x m (writeLine (memOf x m) line v))) s

/-- Writes the low `n` bytes of a number to local SRAM. -/
def storeBytes (t : TileAt) (a n v : Nat) (s : State) : State :=
  updTile t (fun x => eccWrite .sram a n { x with sram := writeLE x.sram a n v }) s

/-! ## Link words (R140) -/

/-- Puts a word on an input of a tile's router for a running beat. -/
def pushWord (t : TileAt) (port beat : Nat) (w : TWord) (s : State) : State :=
  { s with links := s.links ++ [{ dst := t, port := port, beat := beat, word := w }] }

/-- The epoch of the program a tile belongs to (R183, R189). -/
def epochAt (s : State) (t : TileAt) : Bool :=
  match prog? s (tileAt s t).pslot with
  | some g => g.epoch
  | none => false

/-! ## Acts -/

/-- A narrow load's result (R55): sign- or zero-extended. -/
def extend (k : LoadKind) (x : Nat) : Word :=
  match k with
  | .w => BitVec.ofNat 32 x
  | .h => (BitVec.ofNat 16 x).signExtend 32
  | .hu => (BitVec.ofNat 16 x).setWidth 32
  | .b => (BitVec.ofNat 8 x).signExtend 32
  | .bu => (BitVec.ofNat 8 x).setWidth 32

/-- Bytes a narrow load reads. -/
def loadBytes : LoadKind → Nat
  | .w => 4
  | .h => 2
  | .hu => 2
  | .b => 1
  | .bu => 1

/-- A credit counter that fails its parity: its value is no longer known, and the domain is fenced (R184, SRC 0x0A). -/
def creditParity (t : TileAt) (ch : Fin 8) (s : State) : State :=
  let x := tileAt s t
  if (x.chans[ch]).cparity then
    spoil t (recFence (withProg s x.pslot { tileRec s 0x0A 2 0 0 t with info := ch.val }) [x.pslot] 4 s)
  else s

/-- What a stream capture finds in its beat (R62, R180): the data and whether a token was there. A timed channel always captures the C output; a
credited one pops its queue, and a pop with CRET = 1 adds a pending credit three beats later (R181). -/
def captureWord (t : TileAt) (ch : Fin 8) (s : State) : Quad × Bool × State :=
  let x := tileAt s t
  let c := x.chans[ch]
  if !c.cfg.cred then (x.router.cOut.data, true, s)
  else match c.queue with
    | [] => (0, false, s)
    | w :: q =>
      let s := updTile t (fun x => { x with chans := x.chans.set ch { c with queue := q } }) s
      (w.data, true, if c.cfg.cret then schedule t (s.beats.wrb + 3) true .engine (.pend ch) s else s)

/-- What one act of an instruction does when its beat comes (R60, R65, R66, R71 to R73, R117, R181, R182). -/
def runAct (t : TileAt) (r : Reader) (a : Act) (s : State) : State :=
  let x := tileAt s t
  let now := s.beats.wrb
  match a with
  | .load task gv addr kind =>
    eccRead r t .sram addr (loadBytes kind)
      (updTask { tile := t, task := task } (fun k => { k with g := k.g.set gv (extend kind (readLE x.sram addr (loadBytes kind))) }) s)
  | .store addr n data => storeBytes t addr n data.toNat s
  | .vload task v line =>
    eccRead r t .sram (64 * line) 64 (updTask { tile := t, task := task } (fun k => { k with v := k.v.set v (readLine x.sram line) }) s)
  | .vstore line data => storeLine t .sram line data s
  | .codeRead line tag addr =>
    eccRead r t .sram addr 64 (schedule t (now + 2) true r (.codeInstall line tag (BitVec.ofNat 512 (readLE x.sram addr 64))) s)
  | .codeInstall line tag data =>
    updTile t (fun x => { x with code := x.code.setIfInBounds line { tag := some tag, words := data } }) s
  | .stageRead e mode fmt line scales rec =>
    let v := readLine x.sram line
    let s := eccRead r t .sram (64 * line) 64 s
    if mode = 2 ∨ mode = 3 ∨ mode = 5 then schedule t (now + 1) false r (.stageMeta e mode fmt v rec) s
    else schedule t (now + 2) true r (.stageInstall e (stagePlain mode fmt v scales)) s
  | .stageMeta e mode fmt vals rec =>
    let n := if mode = 3 then 32 else 16
    eccRead r t .sram (64 * (rec / 64)) 64
      (schedule t (now + 2) true r (.stageInstall e (stageSparse mode fmt vals (readLE x.sram rec n))) s)
  | .stageInstall e ent => updTile t (fun x => { x with stage := x.stage.set e ent }) s
  | .product task ea eb sa sb blk =>
    let s := match r with
      | .instruction _ word => if productBad x.stage[ea] x.stage[eb] sa sb then residueMismatch { tile := t, task := task } word s 1 else s
      | _ => s
    updTile t (fun x => productBeat x ea eb sa sb blk) s
  | .sendRead addr ep =>
    eccRead r t .sram addr 16 (pushWord t 4 (now + 1) { data := BitVec.ofNat 128 (readLE x.sram addr 16), v := true, ep := ep, bad := 0 } s)
  | .latch term counter first =>
    updTile t (fun x =>
      let n := x.router.counts[(⟨counter % 5, Nat.mod_lt _ (by decide)⟩ : Fin 5)]
      let n0 := if first then n else ((find? x.router.latched term).getD (0, 0)).2
      { x with router := { x.router with latched := put term (n, n0) x.router.latched } }) s
  | .capture task ch pn v q =>
    let w := captureWord t ch s
    updTask { tile := t, task := task } (fun k =>
      let k := wrP (BitVec.ofNat 2 pn.val) w.2.1 k
      if w.2.1 then { k with v := k.v.set v (setBits k.v[v] (128 * q) 128 w.1.toNat) } else k) w.2.2
  | .captureMem task ch pn addr =>
    let w := captureWord t ch s
    let s := updTask { tile := t, task := task } (wrP (BitVec.ofNat 2 pn.val) w.2.1) w.2.2
    if w.2.1 then schedule t (now + 1) false r (.quadWrite addr w.1) s else s
  | .quadWrite addr data => storeBytes t addr 16 data.toNat s
  | .lineRead sp line dsp dline wr =>
    eccRead r t sp (64 * line) 64 (schedule t wr false r (.lineWrite dsp dline (readLine (memOf x sp) line)) s)
  | .lineWrite sp line data => storeLine t sp line data s
  | .credit ch n =>
    let s := creditParity t ch s
    let c := x.chans[ch]
    if c.cfg.depth < c.credit + n then
      let e := { tileRec s 0x0B 1 0 0 t with info := ch.val }
      spoil t (logRec (match ownersOf x with | k :: _ => withProg s k e | [] => e)
        (updTile t (fun x => { x with chans := x.chans.set ch { c with credit := c.cfg.depth } }) s))
    else updTile t (fun x => { x with chans := x.chans.set ch { c with credit := c.credit + n } }) s
  | .pend ch => updTile t (fun x => { x with chans := x.chans.set ch { x.chans[ch] with pend := x.chans[ch].pend + 1 } }) s

/-! ## The passing of a running beat (R141, R163) -/

/-- Whether a program of a tile passes beats at the present WRB. -/
def tileGoes (s : State) (t : TileAt) : Bool :=
  (ownersOf (tileAt s t)).any fun k => match prog? s k with
    | some g => progRuns s g
    | none => false

/-- Whether acts due now take place at a tile: within a beat while its clock runs. What takes effect at a beat's start belongs to that beat, whenever
the clocks go on (R66, R182): a stop of all clocks does not lose it. -/
def actsRun (s : State) (early : Bool) (t : TileAt) : Bool :=
  (if early then parcelUp s (parcelOf t) else parcelRuns s (parcelOf t)) && tileGoes s t

/-- Runs a tile's acts due now, in issue order. Where the tile's program has halted they stay, for the halt to count and discard (R190 step 4). -/
def runDue (early : Bool) (t : TileAt) (s : State) : State :=
  let mine (a : Timed) : Bool := a.early == early && decide (a.due ≤ s.beats.wrb)
  let due := (tileAt s t).acts.filter mine
  if due.isEmpty || !actsRun s early t then s
  else due.foldl (fun s a => runAct t a.by_ a.act s) (updTile t (fun x => { x with acts := x.acts.filter fun a => !mine a }) s)

/-- Runs the acts due now on every tile. -/
def runAllDue (early : Bool) (s : State) : State := (s.tiles.map (·.1)).foldl (fun s n => runDue early (tileOfNo n) s) s

/-- Claims that have passed are forgotten, and the C output is empty until the router drives it again (R139). -/
def prune (wrb : Nat) (x : Tile) : Tile :=
  { x with wide := x.wide.filter fun b => decide (wrb ≤ b), slots := x.slots.filter fun b => decide (wrb ≤ b + 2),
           router := { x.router with cOut := TWord.empty } }

/-- The program's phase position moves on by a beat (R146, R229). -/
def phaseStep (g : Prog) : Prog :=
  match g.place.phases[g.phase]? with
  | none => g
  | some p =>
    if g.phaseK + 1 < p.len then { g with phaseK := g.phaseK + 1 }
    else if p.reps ≠ 0 ∧ g.phaseN + 1 = p.reps then { g with phaseK := 0, phaseN := 0, phase := p.next }
    else { g with phaseK := 0, phaseN := g.phaseN + 1 }

/-- HTOL of the current phase (R229). -/
def htolOf (g : Prog) : Nat :=
  match g.place.phases[g.phase]? with
  | some p => p.htol
  | none => 0

/-- Closes a 64-beat window of the hold count: HOLD_EXCESS counts it when its holds exceed HTOL (R229, R247). R229 does not say which phase's HTOL counts for a
window in which the phase changes: here that of the phase at its end (DESIGN CHOICE, log 157). -/
def windowEnd (g : Prog) : Prog :=
  { g with winHolds := 0, excess := if htolOf g < g.winHolds then sat32 (g.excess + 1) else g.excess }

/-- Applies a change to every program that passes the present beat. -/
def eachRunning (f : Prog → Prog) (s : State) : State :=
  { s with progs := s.progs.map fun o => match o with
      | some g => some (if progRuns s g then f g else g)
      | none => none }

/-- Whether some running program's phase changed between two states (R389). -/
def phaseChanged (s s' : State) : Bool :=
  (List.finRange 8).any fun k => match prog? s k, prog? s' k with
    | some g, some h => g.running && g.phase != h.phase
    | _, _ => false

/-- Whether a link leads to a router of a domain that has halted: its word stays there, as in a hold beat (R163, R190 step 4). -/
def haltedLink (s : State) (l : LinkWord) : Bool :=
  (List.finRange 8).any fun k => (tileAt s l.dst).router.owner == k.val && (match prog? s k with
    | some g => (match g.haltAt with
      | some h => decide (g.start + h ≤ l.beat ∧ g.start + h ≤ s.beats.wrb)
      | none => false)
    | none => false)

/-- A running beat ends: the acts due in it take place, words on links have been taken, CBN and WRB advance, and the acts of the next
beat's start take place (R140, R141). A phase change is an evaluation of R389. -/
def runningBeat (s : State) : State :=
  let s := runAllDue false s
  let s1 := eachRunning phaseStep (if s.beats.cbn % 64 = 63 then eachRunning windowEnd s else s)
  let w := s1.beats.wrb
  let s2 := { s1 with
    links := s1.links.filter fun l => decide (w < l.beat) || haltedLink s1 l,
    tiles := s1.tiles.map fun e => (e.1, prune (w + 1) e.2),
    beats := { cbn := s1.beats.cbn + 1, wrb := w + 1 } }
  let s3 := runAllDue true s2
  if phaseChanged s s1 then evaluate s3 else s3

/-- A hold beat: CBN advances, nothing else of the trellis or cores moves, and each program between its start and its stop counts it once
(R163, R167, R229). -/
def holdBeat (s : State) : State :=
  let s := eachRunning (fun g => { g with holds := g.holds + 1, winHolds := g.winHolds + 1 }) s
  { s with beats := { s.beats with cbn := s.beats.cbn + 1 } }

/-- A parcel that reaches the beat S whose hold status it cannot know stops there, OFF with cause 5 (R165, R410). -/
def stopDue (s : State) (p : Fin 12) : State :=
  match s.parcels[p].stopAt with
  | some n => if n ≤ s.beats.cbn then headLoss p (takeParcel p 5 (dom s (parcelCode p.val)).rseq false s) else s
  | none => s

/-- Whether time does not count toward a program's watch (R444). -/
def progFrozen (s : State) (k : Fin 8) (g : Prog) : Bool :=
  !isOpen s mgmtCode || (!g.place.ports.isEmpty && !isOpen s hostifCode) ||
  g.slots.any (fun e => match g.place.ports[e.2.port]? with
    | some b => b.hasOut && decide (0 < e.2.ecap ∧ e.2.ecap ≤ e.2.egress.length)
    | none => false) ||
  (dom s (progCode k.val)).held || (match g.bar with
    | some b => b.step != .accepted
    | none => false)

/-- Whether time does not count toward an SQ's watch (R444). -/
def sqFrozen (s : State) (q : Sq) : Bool := !isOpen s mgmtCode || cqFree s.hostif.cqs[q.cq] == 0 || q.wait

/-- A watch after `dt` more of engine time: progress starts its window again, and frozen time does not count (R444). -/
def watchStep (s : State) (dt : Nat) (e : Nat × Watch) : Nat × Watch :=
  let w := e.2
  if e.1 < 256 then
    match prog? s (fin8 e.1) with
    | none => e
    | some g =>
      if g.iters ≠ w.seen then (e.1, { w with counted := 0, seen := g.iters })
      else if progFrozen s (fin8 e.1) g then e
      else (e.1, { w with counted := w.counted + dt })
  else
    let q := s.hostif.sqs[fin64 e.1]
    if q.head ≠ w.seen ∨ sqReady q = 0 then (e.1, { w with counted := 0, seen := q.head })
    else if sqFrozen s q then e
    else (e.1, { w with counted := w.counted + dt })

/-- Engine time passes, and counts toward the watches (R8, R444). -/
def passTime (dt : Nat) (s : State) : State := { s with time := s.time + dt, watches := s.watches.map (watchStep s dt) }

/-- A beat of the clocks (log 1): a hold beat or a running beat while a beat clock runs, and engine time moves on by the beat period. -/
def clockBeat (s : State) : State :=
  let s' := if anyRuns s then (List.finRange 12).foldl stopDue (if holdNow s then holdBeat s else runningBeat s) else s
  passTime (period s.pwr.eff) s'

end Sys2Proof.Machine
end

