-- ==== Sys2Proof/Machine/Inject.lean ====
section
/-! DEFINITION. The service net at its injectors: headers, injection, responses and the ends of requests; and what leaves a stream slot
(R253 to R265, R269, R277 to R280, R318). -/

namespace Sys2Proof.Machine

/-- The domain a hub unit belongs to (R433, R446). -/
def unitDom (h u : Nat) : Nat :=
  if h = 0 ∧ (u = 0 ∨ u = 5) then mgmtCode else if h = 0 ∧ (u = 1 ∨ u = 4) then hostifCode else hubCode h

/-- The domain that keeps an endpoint's header flits: the program of a tile, or the hub (R459). -/
def epDomain (s : State) (e : BitVec 24) : Option Nat :=
  match epKind e with
  | 0 => (ownersOf (tileAt s (epTile e))).head?.map fun k => progCode k.val
  | 2 => some (hubCode (epHub e))
  | _ => none

/-! ## Headers and counts (R258, R280, R459) -/

/-- A packet's header flit (R258). -/
def headerBytes (p : Packet) : List Byte :=
  leBytes 1 (p.opc.toNat + 64 * p.cls.toNat + 128 * p.vcr.toNat) ++
  leBytes 1 (p.epoch.toNat + (if p.first then 2 else 0) + (if p.last then 4 else 0) + 8 * p.space.toNat) ++
  leBytes 3 p.dst.toNat ++ leBytes 3 p.src.toNat ++
  leBytes 2 (p.tag.toNat + 4096 * p.pslot.toNat + (if p.psv then 32768 else 0)) ++
  leBytes 1 p.plen.toNat ++ leBytes 3 p.countOff.toNat ++ leBytes 2 p.addr.toNat

/-- Keeps a header flit for a domain, the last 1,024 (R459). -/
def keepHead (d : Option Nat) (p : Packet) (s : State) : State :=
  match d with
  | none => s
  | some c =>
    let l := lookupD [] s.snet.heads c ++ [headerBytes p]
    { s with snet := { s.snet with heads := put c (if 1024 < l.length then l.drop 1 else l) s.snet.heads } }

/-- Keeps a packet's header flit for the domains it goes between. -/
def noteHead (p : Packet) (s : State) : State :=
  let a := epDomain s p.src
  let b := epDomain s p.dst
  keepHead (if a = b then none else b) p (keepHead a p s)

/-- Requests awaiting a response at targets, per epoch: one more, or one less. -/
def awaitMore (e : BitVec 1) (s : State) : State := { s with snet := { s.snet with await_ := bump s.snet.await_ e 1 } }
def awaitLess (e : BitVec 1) (s : State) : State :=
  let i : Fin 2 := if e = 1 then 1 else 0
  { s with snet := { s.snet with await_ := s.snet.await_.set i (s.snet.await_[i] - 1) } }

/-- Sends a packet onto the net: it is on its way from its gateway or tile port until it reaches its endpoint. -/
def sendPacket (p : Packet) (s : State) : State :=
  let s := noteHead p (countIn p s)
  emit (.packet p) (feedPacket p { s with snet := { s.snet with flight := s.snet.flight ++ [p] } })

/-- Sends a response to a request packet (R259, R279: in the request's epoch and class). -/
def respond (p : Packet) (opc : BitVec 6) (first last : Bool) (countOff status : Nat) (b : List Byte) (s : State) : State :=
  sendPacket
    { opc := opc, cls := p.cls, vcr := 1, epoch := p.epoch, first := first, last := last, space := 0, dst := p.src, src := p.dst,
      tag := p.tag, pslot := p.pslot, psv := p.psv, plen := BitVec.ofNat 8 (b.length / 8), countOff := BitVec.ofNat 24 countOff,
      addr := BitVec.ofNat 16 status, payload := b, headBad := false, bodyBad := false } s

/-! ## Requests (R264 to R266, R269, R279, R280) -/

/-- A tag that its unit does not use and that may be used again, if there is one (R269). -/
def freshTag (s : State) (u : BitVec 24) : Option Nat :=
  let used (t : Nat) : Bool :=
    s.snet.reqs.any (fun r => r.unit == u && r.tag.toNat == t) ||
    s.snet.dead.any (fun d => d.1 == u && d.2.1.toNat == t && decide (s.time < d.2.2))
  ((List.range 4096).map fun i => (s.snet.nextTag + i) % 4096).find? fun t => !used t

/-- The injection epoch as the header carries it. -/
def epochBit (s : State) : BitVec 1 := if s.snet.epoch then 1 else 0

/-- Whether a bank marks a region UNREACHABLE (R278). -/
def unreach (s : State) (e : BitVec 1) (region : Nat) : Bool := (s.snet.banks[if e = 1 then (1 : Fin 2) else 0]).getLsbD region

/-- Whether other work of a descriptor is still under way: host reads, or requests on the net. -/
def busyDesc (s : State) (d : DescRef) : Bool :=
  let mine (r : NetReq) : Bool := match r.why with
    | .desc x => x == d
    | .edgeWrite x => x == d
    | .rxPart x _ => x == d
    | _ => false
  s.hostif.reads.any (fun r => r.desc == d) || s.snet.reqs.any mine || s.snet.waiting.any fun r => mine r.1

/-- Ends a descriptor's part: when nothing of it is left, the descriptor ends. Its DETAIL on OK is a value the manual does not state; an EDGE_RECV ends
when its message is whole as well (R345). -/
def partDone (d : DescRef) (s : State) : State :=
  if busyDesc s d then s
  else match descOf s d with
    | none => s
    | some x =>
      if opcOf x = 0x31 then (match x.due with
        | some n => doneDesc d n s
        | none => s)
      else
        let f := freeDWord s
        doneDesc d f.1 f.2

/-- DETAIL of a status that the service net gave a descriptor (R311, R312, R452). -/
def netDetail (s : State) (d : DescRef) (status : Nat) (dst : Nat) : Nat :=
  if status = stAccess then 256
  else if status = stFenced then
    match descOf s d with
    | some x => match slotOf x with
      | some k => fencedDetail (progCode k.val) false false
      | none => 0
    | none => 0
  else if status = stNotReady then (if dst < 12 then 4 else 2)
  else 0

/-- Bytes of a frame have not come to their slot: zero words take their place, as for a read that failed (R269, R422; log 131). -/
def frameLost (k : Fin 8) (n : Nat) (d : DescRef) (m : Nat) (landed : Bool) (s : State) : State :=
  match slotAt s k n with
  | none => s
  | some x => if !landed && awaits x d m then landIn k n d (zeros m) s else s

/-! ## What a collective has of the net (R366, R369) -/

/-- Bytes of an object's range have come for a collective. -/
def collPart (d : DescRef) (obj off pos : Nat) (b : List Byte) (s : State) : State :=
  let f (r : CollRead) : CollRead := if r.obj = obj ∧ r.off = off then { r with parts := r.parts ++ [(pos, b)] } else r
  { s with colls := s.colls.map fun c => if c.desc = d then { c with reads := c.reads.map f } else c }

/-- An access of a collective has failed: the first failure ends it (R269, R271). -/
def collFails (d : DescRef) (status detail : Nat) (s : State) : State :=
  { s with colls := s.colls.map fun c => if c.desc = d ∧ c.fail.isNone then { c with fail := some (status, detail) } else c }

/-- A request ends at its requester, with its status and the bytes a READ brought (R137, R265, R267, R269, R272, R273). `region` is where it was sent. A
CXL.mem write that no acknowledgement answers is not reported complete. -/
def closeReq (r : NetReq) (region status : Nat) (b : List Byte) (s : State) : State :=
  let s := { s with snet := { s.snet with reqs := s.snet.reqs.filter fun q => !(q.unit == r.unit && q.tag == r.tag && q.opc == r.opc) } }
  match r.why with
  | .desc d =>
    let s := match descOf s d with
      | some x => toHost d (BitVec.ofNat 64 (fld x 16 8 + r.base)) ((b.drop r.skip).take r.keep) s
      | none => s
    if status = stOk then s else failDesc d status (netDetail s d status region) s
  | .cxlWrite off => if isOpen s hostifCode && status != stTimeout then emit (.cxlDone off) s else s
  | .cxlRead off =>
    if !isOpen s hostifCode then s
    else emit (if status = stOk then .cxlData off (BitVec.ofNat 512 (ofLE b)) else .cxlPoison off) s
  | .edgeRead d off =>
    let b := (b.drop r.skip).take r.keep
    if status = stOk then placeTx d off b s
    else if status = stUncorr then placeTx d off b (failDesc d status (netDetail s d status region) s)
    else abortEdge d (decideDesc d status (netDetail s d status region) s)
  | .edgeWrite d => if status = stOk then s else failDesc d status (netDetail s d status region) s
  | .frameIn k n d => if status = stOk then s else frameLost k n d r.keep (r.got != 0) (failDesc d status (netDetail s d status region) s)
  | .frameOut d _ =>
    if status = stOk || r.got != 0 then s
    else finishXfer d (updDesc d (fun y => { y with wrote := y.wrote + r.keep }) (failDesc d status (netDetail s d status region) s))
  | .txPart d _ =>
    if status = stOk || r.got != 0 then s else abortEdge d (decideDesc d status (netDetail s d status region) s)
  | .rxPart d _ => if status = stOk then s else failDesc d status (netDetail s d status region) s
  | .collRead d obj off pos =>
    let b := (b.drop r.skip).take r.keep
    if status = stOk then collPart d obj off pos b s
    else if status = stUncorr then collPart d obj off pos b (failDesc d status (netDetail s d status region) s)
    else collFails d status (netDetail s d status region) s
  | .collWrite d _ => if status = stOk then s else collFails d status (netDetail s d status region) s
  | .segOut d k no =>
    if status = stOk || r.got != 0 then s else collFails d status (netDetail s d status region) (dropTx k no s)
  | .segIn d _ => if status = stOk || r.got != 0 then s else collFails d status (netDetail s d status region) s
  | .other => s

/-- The descriptor that a request serves and that ends with its last request. -/
def reqDesc (r : NetReq) : Option DescRef :=
  match r.why with
  | .desc d => some d
  | .edgeWrite d => some d
  | .rxPart d _ => some d
  | _ => none

/-- A request ends, and its descriptor with it if nothing else of it is under way (R277). -/
def endReq (r : NetReq) (region status : Nat) (b : List Byte) (s : State) : State :=
  let s := closeReq r region status b s
  match reqDesc r with
  | some d => partDone d s
  | none => s

/-- Sends the packets of a request now, or answers it NOT_READY at injection where the table marks its region UNREACHABLE (R279). The request takes a tag, and waits if
none is free (R269). -/
def launch (r : NetReq) (ps : List Packet) (s : State) : State :=
  let e := epochBit s
  let region := match ps with
    | p :: _ => epRegion p.dst
    | [] => 0
  let r := { r with epoch := s.snet.epoch, at_ := s.time }
  if unreach s e region then closeReq r region stNotReady [] s
  else match freshTag s r.unit with
    | none => { s with snet := { s.snet with waiting := s.snet.waiting ++ [(r, ps)] } }
    | some t =>
      ps.foldl (fun s p => sendPacket { p with epoch := e, tag := BitVec.ofNat 12 t } s)
        { s with snet := { s.snet with reqs := s.snet.reqs ++ [{ r with tag := BitVec.ofNat 12 t }], nextTag := (t + 1) % 4096 } }

/-- Whether a unit must hold an ORDERED request: one it sent in the old epoch is still open (R280 step 2). -/
def mustHold (s : State) (u : BitVec 24) : Bool := s.snet.reqs.any fun r => r.unit == u && r.epoch != s.snet.epoch && r.opc != 3

/-- Injects an ORDERED request, after those of its unit that wait. -/
def injectReq (r : NetReq) (ps : List Packet) (s : State) : State :=
  if mustHold s r.unit || s.snet.waiting.any (fun q => q.1.unit == r.unit && q.1.opc != 3) then
    { s with snet := { s.snet with waiting := s.snet.waiting ++ [(r, ps)] } }
  else launch r ps s

/-- Sends the waiting requests of a unit that may go now, in order (R269, R280). -/
def releaseHeld (u : BitVec 24) (s : State) : State :=
  let l := s.snet.waiting.filter fun q => q.1.unit == u && (q.1.opc == 3 || !mustHold s u)
  if l.isEmpty then s
  else
    let s := l.foldl (fun s q => launch q.1 q.2 s) { s with snet := { s.snet with waiting := s.snet.waiting.filter fun q => !l.contains q } }
    ((l.filterMap fun q => reqDesc q.1).eraseDups).foldl (fun s d => partDone d s) s

/-- Sends the waiting requests of every unit that may go now. -/
def releaseAll (s : State) : State := ((s.snet.waiting.map (·.1.unit)).eraseDups).foldl (fun s u => releaseHeld u s) s

/-- Injects what a descriptor asks of the net, one message for each endpoint; it ends only when every message has (R277). -/
def injectAll (d : DescRef) (act : State → State) (s : State) : State := partDone d (act s)

def spaceBits : MemSpace → BitVec 2
  | .sram => 0
  | .slab => 1

/-- The packets of a WRITE message: at most 1 KiB each, every one with its own ADDR (R257, R260). `fuel` bounds them. -/
def cutWrite (mk : Bool → Bool → Nat → Nat → List Byte → Packet) (len a : Nat) : Nat → Nat → List Byte → List Packet
  | 0, _, _ => []
  | fuel + 1, off, b =>
    let first := decide (off = 0)
    if b.length ≤ 1024 then [mk first true (if first then len / 8 else off / 8) ((a + off) / 8) b]
    else mk first false (if first then len / 8 else off / 8) ((a + off) / 8) (b.take 1024) :: cutWrite mk len a fuel (off + 1024) (b.drop 1024)

/-- A hub unit sends bytes to another hub's unit: an ADAPTIVE request, injected at once (R263, R265, R280). -/
def netMsg (u dst : BitVec 24) (why : NetWhy) (ps : Option (Fin 8)) (b : List Byte) (s : State) : State :=
  launch (msgReq u why b.length s) (cutMsg dst u ps b) s

/-- The ring engine of HUB-W. -/
def ringUnit : BitVec 24 := hubEp 0 1

/-- A unit reads the 8-byte words that hold `n` bytes at `a` of a core's memory (R260, R271); the bytes belong at `base` of the descriptor's
buffer. -/
def netRead (u : BitVec 24) (why : NetWhy) (ps : Option (Fin 8)) (t : TileAt) (m : MemSpace) (a n base : Nat) (s : State) : State :=
  let words := (a + n + 7) / 8 - a / 8
  let r : NetReq := { unit := u, tag := 0, opc := 1, epoch := s.snet.epoch, at_ := s.time, total := none, got := 0,
                      parts := [], bad := none, why := why, base := base, skip := a % 8, keep := n }
  injectReq r [reqPacket 1 (spaceBits m) (coreEp t) u ps true true words (a / 8) []] s

/-- Bytes widened to whole 8-byte words with what stands beside them in memory. -/
def widen (x : Tile) (m : MemSpace) (a : Nat) (b : List Byte) : List Byte :=
  readBytes (memOf x m) (a / 8 * 8) (a % 8) ++ b ++ readBytes (memOf x m) (a + b.length) ((a + b.length + 7) / 8 * 8 - (a + b.length))

/-- A unit writes bytes at `a` of a core's memory, in whole 8-byte words (R260, R271). -/
def netWrite (u : BitVec 24) (why : NetWhy) (ps : Option (Fin 8)) (t : TileAt) (m : MemSpace) (a : Nat) (b : List Byte) (s : State) : State :=
  let w := widen (tileAt s t) m a b
  let r : NetReq := { unit := u, tag := 0, opc := 2, epoch := s.snet.epoch, at_ := s.time, total := none, got := 0,
                      parts := [], bad := none, why := why, base := 0, skip := 0, keep := 0 }
  injectReq r (cutWrite (fun f l c ad d => reqPacket 2 (spaceBits m) (coreEp t) u ps f l c ad d) w.length (a / 8 * 8) 66 0 w) s

/-! ## Frames between HUB-W and the other hubs (R22, R265, R318) -/

/-- Bytes of a frame that host memory has given go to their slot, over the service net for a slot of another hub (R22). -/
def carryIn (k : Fin 8) (n : Nat) (d : DescRef) (b : List Byte) (s : State) : State :=
  if n / 128 = 0 then landIn k n d b s else netMsg (hubEp 0 2) (hubEp (n / 128) 2) (.frameIn k n d) (some k) b s

/-! ## Bytes of edge messages between hubs (R22, R345) -/

def edgeLen (x : Desc) : Nat := fld x 24 4
def edgePeer (x : Desc) : Nat := fld x 28 1
def edgeKind (x : Desc) : Nat := fld x 30 1 % 4
def edgeKey (x : Desc) : Nat := chanKey (edgePeer x) (fld x 29 1)

/-- Bytes of an EDGE_SEND that unit `u` of hub `h` holds go to the hub of its port (R22, R345). -/
def carryTx (h u : Nat) (x : Desc) (off : Nat) (b : List Byte) (s : State) : State :=
  let p := portHub s (edgeKey x)
  if p = h then placeTx x.ref off b s else netMsg (hubEp h u) (hubEp p 6) (.txPart x.ref off) none b s

/-- The program and slot that an EDGE_RECV of KIND 1 feeds. -/
def sinkSlot (s : State) (x : Desc) : Option (Fin 8 × Nat) :=
  match slotOf x with
  | none => none
  | some k => match prog? s k with
    | none => none
    | some g => (bindOf g (fld x 32 2)).map fun p => (k, p.slot)

/-- Bytes of a received message at the hub that holds their sink, host memory or a stream slot (R345). -/
def landRx (x : Desc) (off : Nat) (b : List Byte) (s : State) : State :=
  if edgeKind x = 0 then toHost x.ref (BitVec.ofNat 64 (fld x 16 8 + off)) b s
  else match sinkSlot s x with
    | some (k, n) => landEdge k n x.ref b s
    | none => s

/-- What a MSG message brings to its unit, once it is whole (R267): bytes of a frame, of an edge message or of a segment. -/
def msgCame (r : NetReq) (b : List Byte) (s : State) : State :=
  let b := b.take r.keep
  match r.why with
  | .frameIn k n d => (match slotAt s k n with
      | some x => if awaits x d b.length then landIn k n d b s else s
      | none => s)
  | .frameOut d off => writeOut d off b s
  | .txPart d off => placeTx d off b s
  | .rxPart d off => (match descOf s d with
      | some x => landRx x off b s
      | none => s)
  | .segOut _ k no => fillTx k no b s
  | _ => s

/-! ## Exit bytes (R318, R345) -/

/-- The descriptors that take exit bytes of a program's port, in fetch order: STREAM_XFERs and EDGE_SENDs from the port (R302, R318, R345). -/
def takersOf (s : State) (k : Fin 8) (port : Nat) : List Desc :=
  s.hostif.descs.filter fun x => x.started && x.outc.isNone && slotOf x == some k &&
    ((opcOf x == 0x20 && xferPort x == port) || (opcOf x == 0x30 && fld x 30 1 % 4 == 1 && fld x 32 2 == port))

/-- Exit bytes leave a slot's egress queue for a descriptor: for OUT_ADDR, STALE if any of them is old (R318), or to be sent (R345). The
bytes of another hub's slot travel to HUB-W first (R22). -/
def moveOutBytes (k : Fin 8) (n : Nat) (x : Desc) (b : List Byte) (s : State) : State :=
  match slotAt s k n with
  | none => s
  | some sl =>
    let m := b.length
    let s := updDesc x.ref (fun y => { y with sent := y.sent + m, stale := y.stale || decide (0 < sl.old) }) s
    let s := updSlot k n (fun y => { y with egress := y.egress.drop m, old := y.old - m }) s
    if opcOf x ≠ 0x20 then carryTx (n / 128) 2 x x.sent b s
    else if n / 128 = 0 then writeOut x.ref x.sent b s
    else netMsg (hubEp (n / 128) 2) (hubEp 0 2) (.frameOut x.ref x.sent) (some k) b s

/-- Gives the next exit bytes of a slot to one descriptor (R318, R345). -/
def giveOut (k : Fin 8) (n : Nat) (s : State) (x : Desc) : State :=
  match slotAt s k n with
  | none => s
  | some sl =>
    let want := (if opcOf x = 0x20 then xferOut x else fld x 24 4) - x.sent
    let m := min want sl.egress.length
    if opcOf x = 0x20 ∧ ¬ (isOpen s hostifCode && hubMet s n) then s
    else
      let s := if m = 0 then s else moveOutBytes k n x (sl.egress.take m) s
      if opcOf x = 0x20 then finishXfer x.ref s else s

/-- Moves exit bytes to the waiting descriptors of a slot's port, in fetch order. -/
def pumpOut (k : Fin 8) (n : Nat) (s : State) : State :=
  match slotAt s k n with
  | none => s
  | some sl => (takersOf s k sl.port).foldl (giveOut k n) s

/-- Slots whose hub is reachable again go on (R319). -/
def slotsBack (s : State) : State := eachSlot (fun k n s => pumpOut k n (fillSlot k n s)) (fun _ => true) s

/-- Adds exit bytes to a slot's egress queue, first to what is to be discarded (R322). -/
def addExit (k : Fin 8) (n : Nat) (b : List Byte) (s : State) : State :=
  pumpOut k n (updSlot k n (fun x => { x with egress := x.egress ++ b.drop x.skip, skip := x.skip - b.length }) s)

end Sys2Proof.Machine
end

