-- ==== Sys2Proof/Machine/Net.lean ====
section
/-! DEFINITION. Shared operations of the service net at its targets: the checks at arrival and
the accesses that targets make through the narrow port and free slots (R253 to R286, R120 to R123). -/

namespace Sys2Proof.Machine

/-! ## Checks at arrival (R259, R271, R283, R285, R286) -/

/-- The router that finds a packet damaged: one that holds flits of it, else that of its core endpoint, or of the gateway of its hub (R286; log 34). -/
def finder (s : State) (p : Packet) : Nat × Nat :=
  match s.snet.wires.ins.find? fun e => e.2.flits.any fun f => asSent f.pkt == asSent p with
  | some e => routerOfIn e.1
  | none => if epKind p.dst < 2 then (epA p.dst, epB p.dst) else (netEntry s p).1

/-- The record of the router that found a packet damaged (R286, R414). -/
def routerNetRec (s : State) (src : Nat) (p : Packet) : ErrRec :=
  let ab := finder s p
  let t := tileOfNo (1024 * (8 * ab.1) + 8 * ab.2)
  { tileRec s src 1 3 (ab.1 + 2 ^ 7 * ab.2 + 2 ^ 22) t with okind := 4, opword := p.tag.toNat + 4096 * p.opc.toNat, opaux := p.src.toNat }

/-- The record of a discarded packet or timed-out message at an endpoint (R259, R267, R269). -/
def netRec (s : State) (e : BitVec 24) (tag : BitVec 12) (opc : BitVec 6) (from_ : BitVec 24) (n : Nat) : ErrRec :=
  let base := if epKind e = 2 then hubRec s 0x0D 1 (epHub e) (epUnit e) else if epKind e = 0 then tileRec s 0x0D 1 0 0 (epTile e)
    else tileRec s 0x0D 1 3 e.toNat (tileOfNo (1024 * (8 * epA e) + 8 * epB e))
  { base with okind := 4, opword := tag.toNat + 4096 * opc.toNat, opaux := from_.toNat, info := n }

/-- Discards a packet at its endpoint, with its record (R259, R267). -/
def discard (p : Packet) (s : State) : State := logRec (netRec s p.dst p.tag p.opc p.src 1) s

/-- A packet on its way as the net has it: discarded if headBad, with a BAD flit if bodyBad. A packet that no unit of the model injected comes from outside it. -/
def wayOf (s : State) (p : Packet) : Option Packet := s.snet.flight.find? fun q => asSent q == asSent p
def inFlight (s : State) (p : Packet) : Bool := (wayOf s p).isSome

/-- The requester's side of a packet's message. -/
def askerOf (p : Packet) : BitVec 24 := if p.vcr = 0 then p.src else p.dst

/-- Whether an ORDERED packet must wait for one that was injected before it between the same endpoints and is still on its way (R262); a message that has timed out holds
nothing up. -/
def overtaken (s : State) (p : Packet) : Bool :=
  p.cls == 0 && inFlight s p && (s.snet.flight.takeWhile fun q => asSent q != asSent p).any fun q =>
    !q.headBad && q.cls == 0 && q.src == p.src && q.dst == p.dst && s.snet.reqs.any fun r => r.unit == askerOf q && r.tag == q.tag

/-- A packet that no unit of the model injected counts as injected when it arrives. -/
def seenIn (p : Packet) (s : State) : State :=
  match wayOf s p with
  | some q => pullPacket p { s with snet := { s.snet with flight := s.snet.flight.erase q } }
  | none => noteHead p (countIn p s)

/-- Whether a service router can hand packets to an endpoint: its parcel's net is on and it is not bypassed (R31, R254, R283). -/
def routerUp (s : State) (e : BitVec 24) : Bool :=
  epKind e == 2 || (netOn s (epRegion e) && !s.snet.bypass.any fun r => r.1 == epA e && r.2 == epB e)

/-- A packet of an epoch that was given up comes late: it is discarded, and counted if no router has done so (R279, R281). -/
def lateCame (p : Packet) (s : State) : Option State :=
  (s.snet.wires.late.find? fun q => asSent q == asSent p).map fun q =>
    let s := pullPacket p { s with snet := { s.snet with wires := { s.snet.wires with late := s.snet.wires.late.erase q } } }
    if q.headBad then s else countLost s

/-- A packet arrives with the operation its target expects, or is discarded (R259, R279, R283, R286): at a router whose table marks its region UNREACHABLE, at a
closed port, with a BAD flit (a record where the CRC found it now), or as unknown. -/
def arrive (opc : BitVec 6) (vcr : BitVec 1) (p : Packet) (good : State → State) (s : State) : State :=
  if overtaken s p then s
  else match lateCame p s with
    | some s => s
    | none =>
      let way := wayOf s p
      let met := way.isSome && unreach s p.epoch (epRegion p.dst)
      let e := routerNetRec s 0x0C p
      let s := seenIn p s
      if way.any (·.headBad) then s
      else if p.headBad then logRec { e with info := 1 } s
      else if met then countLost (countOut p s)
      else if epOk p.dst && !routerUp s p.dst then (if unreach s p.epoch (epRegion p.dst) then good (countOut p s) else countLost s)
      else
        let s := countOut p s
        if p.bodyBad then logRec e s
        else if way.any (·.bodyBad) then countLost s
        else if p.opc ≠ opc ∨ p.vcr ≠ vcr then discard p s
        else good s

/-- Whether a tile lies in a staging granule or a reserved area (R133, R136). -/
def inStage (s : State) (t : TileAt) : Bool := s.stage.granules.any fun g => g.contains t
def inReserved (s : State) (t : TileAt) : Bool := s.reserved.any fun r => r.copies.any fun c => c.1.contains t

/-- The mode in a tile's ACCESS word (R270). The Vintner keeps the word at what the tile is used for. -/
def accessMode (s : State) (t : TileAt) : Nat :=
  if !(ownersOf (tileAt s t)).isEmpty then 1
  else if inReserved s t then 2
  else if inStage s t then 3
  else if (headlandOf t).isSome then 4
  else 0

/-- Whether the ACCESS word of a tile lets a source in (R270). -/
def accessOk (s : State) (t : TileAt) (p : Packet) : Bool :=
  let u := epUnit p.src
  if p.src = vintner then true
  else if p.space = 2 then false
  else match accessMode s t with
    | 1 => epKind p.src == 2 && (u == 1 || u == 2 || u == 3) && p.psv && (ownersOf (tileAt s t)).any fun k => p.pslot.toNat == k.val
    | 3 => p.src == hubEp 0 4 && p.space == 1
    | 4 => (headlandOf t).any fun h => p.src == hubEp h 2
    | _ => false

/-- Whether a tile's program is fenced or closing (R271). -/
def tileFenced (s : State) (t : TileAt) : Bool :=
  (ownersOf (tileAt s t)).any fun k => (dom s (progCode k.val)).st == .closing || (dom s (progCode k.val)).st == .closed

/-- Whether a request writes what a pass 2 of the press has begun: nothing stops it (R379, R384). -/
def ofPass2 (s : State) (p : Packet) : Bool :=
  s.snet.reqs.any fun r => r.unit == p.src && r.tag == p.tag && (match r.why with
    | .collWrite _ x => x
    | _ => false)

/-- Whether the fence of a tile's program keeps a source out (R271, R384). -/
def keptOut (s : State) (t : TileAt) (p : Packet) : Bool := tileFenced s t && p.src != vintner && !ofPass2 s p

/-- Bytes of a memory (R113). -/
def memSize (space : BitVec 2) : Nat := if space = 0 then 32768 else 65536

/-- How a target refuses an access of `n` bytes, if it does (R271, R279, R285). -/
def refusal (s : State) (p : Packet) (n : Nat) : Option Nat :=
  if unreach s p.epoch (epRegion p.dst) then some stNotReady
  else if epKind p.dst = 2 ∧ (!isOpen s (hubCode (epHub p.dst)) || (epUnit p.dst == 0 && epHub p.dst == 0 && !isOpen s mgmtCode)) then some stFenced
  else if !epOk p.dst || p.space = 3 then some stAccess
  else match epKind p.dst with
    | 0 =>
      if p.space ≠ 2 ∧ memSize p.space < 8 * (p.addr.toNat % 8192) + n then some stAccess
      else if !accessOk s (epTile p.dst) p then some stAccess
      else if keptOut s (epTile p.dst) p then some stFenced
      else none
    | 1 => if p.src = vintner then none else some stAccess
    | _ => some stAccess

/-! ## Accesses through the narrow port (R120, R122, R123) -/

def netSpace (b : BitVec 2) : MemSpace := if b = 0 then .sram else .slab
def unitBytes : MemSpace → Nat
  | .sram => 8
  | .slab => 64

/-- An access of `n` bytes at `a`, message offset `off`, cut into the units of R123, none across a packet's 1 KiB. -/
def cutUnits (m : MemSpace) : Nat → Nat → Nat → Nat → List (Nat × Nat)
  | 0, _, _, _ => []
  | fuel + 1, a, off, n =>
    if n = 0 then []
    else
      let k := min n (min (unitBytes m - a % unitBytes m) (1024 - off % 1024))
      (a, k) :: cutUnits m fuel (a + k) (off + k) (n - k)

/-- Whether an incoming message is the one a packet belongs to (R266). -/
def sameMsg (p : Packet) (m : InMsg) : Bool := m.dst == p.dst && m.src == p.src && m.tag == p.tag && m.opc == p.opc
def msgOf (s : State) (p : Packet) : Option InMsg := s.snet.msgs.find? (sameMsg p)
def dropMsg (p : Packet) (s : State) : State := { s with snet := { s.snet with msgs := s.snet.msgs.filter fun m => !sameMsg p m } }
def setMsg (p : Packet) (m : InMsg) (s : State) : State :=
  { s with snet := { s.snet with msgs := (s.snet.msgs.filter fun x => !sameMsg p x) ++ [m] } }

/-- A new incoming message. -/
def newMsg (s : State) (p : Packet) : InMsg :=
  { dst := p.dst, src := p.src, tag := p.tag, opc := p.opc, epoch := p.epoch, total := none, got := 0, offs := [], parts := [], refuse := none, last := s.time }

/-- Queues units at a tile's port in order of arrival (R122). -/
def queueUnits (p : Packet) (l : List (Nat × Option (List Byte) × Nat)) (s : State) : State :=
  updTile (epTile p.dst) (fun x => { x with narrow := x.narrow ++ l.map fun e =>
    { space := netSpace p.space, addr := e.1, wdata := e.2.1, pkt := { p with payload := zeros e.2.2 } } }) s

/-- Whether units of a message still wait at its tile's port. -/
def unitsLeft (s : State) (p : Packet) : Bool :=
  (tileAt s (epTile p.dst)).narrow.any fun e => e.pkt.src == p.src && e.pkt.tag == p.tag && e.pkt.opc == p.opc

/-- One 8-byte word of a configuration space or a service router: as the Vintner last wrote it, else a value that the manual does not state. -/
def confWord (e : BitVec 24) (a : Nat) (s : State) : List Byte × State :=
  match find? s.snet.conf (8192 * e.toNat + a % 8192) with
  | some w => (leBytes 8 w.toNat, s)
  | none =>
    let f := freeDWord s
    (leBytes 8 f.1, f.2)

/-- `n` words of a configuration space. -/
def confRead (e : BitVec 24) : Nat → Nat → State → List Byte × State
  | _, 0, s => ([], s)
  | a, n + 1, s =>
    let r := confWord e a s
    let q := confRead e (a + 1) n r.2
    (r.1 ++ q.1, q.2)

/-- Writes a configuration space (R270, R271). -/
def confWrite (p : Packet) (s : State) : State :=
  { s with snet := { s.snet with conf := (List.range (p.payload.length / 8)).foldl (fun c i =>
      put (8192 * p.dst.toNat + (p.addr.toNat + i) % 8192) (BitVec.ofNat 64 (fieldLE p.payload (8 * i) 8)) c) s.snet.conf } }

/-- Whether a packet addresses configuration: a tile's configuration space or a service router. -/
def toConf (p : Packet) : Bool := epKind p.dst == 1 || p.space == 2

/-- Answers a READ with bytes that are there at once, in packets of 1 KiB (R257). -/
def sendData (p : Packet) (b : List Byte) (s : State) : State :=
  (List.range ((b.length + 1023) / 1024)).foldl (fun s i =>
    let part := (b.drop (1024 * i)).take 1024
    respond p 0x21 (i == 0) (decide (b.length ≤ 1024 * (i + 1))) (if i = 0 then b.length / 8 else 128 * i) stOk part s) s

/-- A READ accepted at its target (R271, R272). -/
def acceptRead (p : Packet) (s : State) : State :=
  let n := 8 * p.countOff.toNat
  let a := 8 * (p.addr.toNat % 8192)
  if n = 0 then respond p 0x21 true true 0 stOk [] s
  else if toConf p then
    let r := confRead p.dst (a / 8) (n / 8) s
    sendData p r.1 r.2
  else
    awaitMore p.epoch (queueUnits p ((cutUnits (netSpace p.space) 16385 a 0 n).map fun e => (e.1, none, e.2))
      (setMsg p { newMsg s p with total := some n } s))

/-- Ends an incoming WRITE message when all its packets are there and its units are written: WRITE_ACK (R271, R273). -/
def finishWrite (p : Packet) (s : State) : State :=
  match msgOf s p with
  | none => s
  | some m =>
    if m.total = some m.got ∧ ¬ unitsLeft s p then
      awaitLess p.epoch (dropMsg p (respond p 0x22 true true 0 ((m.refuse.map (·.2)).getD stOk) [] s))
    else s

/-- The places a WRITE packet's bytes go, with the bytes. -/
def writeUnits (p : Packet) : List (Nat × Option (List Byte) × Nat) :=
  let a := 8 * (p.addr.toNat % 8192)
  (cutUnits (netSpace p.space) 130 a 0 p.payload.length).map fun e => (e.1, some ((p.payload.drop (e.1 - a)).take e.2), e.2)

/-- The offset of a packet in its message (R258). -/
def offOf (p : Packet) : Nat := if p.first then 0 else 8 * p.countOff.toNat

/-- Whether a packet repeats an offset or would pass the length (R267). -/
def badPart (m : InMsg) (p : Packet) : Bool :=
  let total := if p.first then some (8 * p.countOff.toNat) else m.total
  m.offs.contains (offOf p) || (match total with
    | some n => decide (n < m.got + p.payload.length)
    | none => false)

/-- A message after one more packet of it. -/
def withPart (m : InMsg) (p : Packet) (now : Nat) : InMsg :=
  { m with total := if p.first then some (8 * p.countOff.toNat) else m.total, got := m.got + p.payload.length,
           offs := m.offs ++ [offOf p], last := now }

/-- A message with one of its packets refused or discarded: the earliest in arrival order counts (R271, R273). -/
def refuseAt (m : InMsg) (i st : Nat) : InMsg :=
  { m with refuse := match m.refuse with
      | some r => if i < r.1 then some (i, st) else some r
      | none => some (i, st) }

/-- A WRITE packet taken at its target: written as it arrives, or refused (R267, R271). -/
def takeWrite (p : Packet) (s : State) : State :=
  let fresh := (msgOf s p).isNone
  let m := (msgOf s p).getD (newMsg s p)
  if badPart m p then discard p s
  else
    let ref := refusal s p p.payload.length
    let m' := withPart m p s.time
    let m' := match ref with
      | some st => refuseAt m' m.offs.length st
      | none => m'
    let s := setMsg p m' (if fresh then awaitMore p.epoch s else s)
    finishWrite p (if ref.isSome then s else if toConf p then confWrite p s else queueUnits p (writeUnits p) s)

/-- Incoming WRITE messages at an endpoint. -/
def writesAt (s : State) (e : BitVec 24) : Nat := (s.snet.msgs.filter fun m => m.dst == e && m.opc == 2).length

/-- Whether a WRITE packet must wait on the request VC: it would begin a fifth message at its tile port (R266). -/
def noPlace (s : State) (p : Packet) : Bool :=
  p.opc == 2 && p.vcr == 0 && !p.headBad && !p.bodyBad && (msgOf s p).isNone && decide (4 ≤ writesAt s p.dst)

/-- Packets that wait for a place at an endpoint are taken, in order, while there is one (R266). -/
def unblockN (e : BitVec 24) : Nat → State → State
  | 0, s => s
  | fuel + 1, s => match s.snet.blocked.find? fun p => p.dst == e && !noPlace s p with
    | none => s
    | some p => unblockN e fuel (arrive 2 0 p (takeWrite p) { s with snet := { s.snet with blocked := s.snet.blocked.erase p } })
def unblock (e : BitVec 24) (s : State) : State := unblockN e s.snet.blocked.length s

/-- A WRITE packet at its tile port; a fifth message waits on the request VC, not yet ejected (R266, R280). -/
def portWrite (p : Packet) (s : State) : State :=
  if noPlace s p then (if s.snet.blocked.contains p then s else { s with snet := { s.snet with blocked := s.snet.blocked ++ [p] } })
  else unblock p.dst (arrive 2 0 p (takeWrite p) s)

/-- Sends what a target has read so far as one READ_DATA packet (R272); the last one ends the message. -/
def sendPart (p : Packet) (m : InMsg) (s : State) : State :=
  let b := m.parts.flatMap (·.2)
  let off := m.got - b.length
  let first := decide (off = 0)
  let last := decide (m.total = some m.got)
  let s := respond p 0x21 first last (if first then (m.total.getD 0) / 8 else off / 8) ((m.refuse.map (·.2)).getD stOk) b s
  if last then awaitLess p.epoch (dropMsg p s) else setMsg p { m with parts := [], refuse := none } s

/-- Who reads through a tile port, as a record names it (R415). -/
def netReader (p : Packet) : Reader := if p.src = hubEp 0 4 then .window else .message p.tag.toNat p.opc.toNat p.src.toNat

/-- Performs one unit of a READ (R123, R126, R272): the bytes as they stand; a packet whose bytes the fence of the tile's program keeps back is all zero,
with FENCED. -/
def readUnit (t : TileAt) (e : Narrow) (s : State) : State :=
  let n := e.pkt.payload.length
  match msgOf s e.pkt with
  | none => s
  | some m =>
    let x := tileAt s t
    let fenced := keptOut s t e.pkt
    let bad := eccBad x e.space e.addr n
    let b := if fenced then zeros n else readBytes (memOf x e.space) e.addr n
    let s := if fenced then s else eccRead (netReader e.pkt) t e.space e.addr n s
    let m := { m with
      parts := (if fenced then m.parts.map fun q => (q.1, zeros q.2.length) else m.parts) ++ [(m.got, b)], got := m.got + n,
      refuse := if fenced then some (0, stFenced) else if bad then some (m.refuse.getD (0, stUncorr)) else m.refuse }
    if m.got % 1024 = 0 ∨ m.total = some m.got then sendPart e.pkt m s else setMsg e.pkt m s

/-- Performs one unit of a WRITE (R123, R273): discarded once the tile's program is fenced. -/
def writeUnit (t : TileAt) (e : Narrow) (b : List Byte) (s : State) : State :=
  let s := if keptOut s t e.pkt then
      (match msgOf s e.pkt with
       | some m => setMsg e.pkt (refuseAt m (m.offs.idxOf (offOf e.pkt)) stFenced) s
       | none => s)
    else updTile t (fun x => eccWrite e.space e.addr b.length (setMem x e.space (writeBytes (memOf x e.space) e.addr b))) s
  unblock e.pkt.dst (finishWrite e.pkt s)

end Sys2Proof.Machine
end

