-- ==== Sys2Proof/Machine/Domains.lean ====
section
/-! DEFINITION. Shared operations of the reset domains: closing hubs, ports, MGMT and the host interface, lees records, the halt and the release
of a program, and the answers to DOMAIN_CTL (R320 to R322, R433 to R461). -/

namespace Sys2Proof.Machine

/-! ## Answers to DOMAIN_CTL (R439, R441) -/

/-- DOMAIN_CTL's ACTION. -/
def ctlAction (x : Desc) : Nat := fld x 18 1

/-- Whether an action is done with its domain in a state (R441). -/
def actionDone (action : Nat) (isProg : Bool) (st : DomSt) : Bool :=
  match action with
  | 1 => if isProg then st == .off else st == .opened
  | 2 => st == .off
  | 3 => st == .opened
  | 4 => st == .off
  | _ => true

/-- Completes the DOMAIN_CTLs that a domain's new state answers, with its state word (R441). -/
def answer (c : Nat) (s : State) : State :=
  let d := dom s c
  let hit (a : DescRef × Bool) : Bool := match descOf s a.1 with
    | some x => actionDone (ctlAction x) (c / 256 == 7) d.st
    | none => true
  let ready := d.askers.filter hit
  let s := updDom c (fun d => { d with askers := d.askers.filter fun a => !hit a }) s
  ready.foldl (fun s a =>
    decideDesc a.1 (if a.2 then stReopen else stOk) (stateWord (dom s c)) (updDesc a.1 (fun x => { x with took := true }) s)) s

/-! ## Hubs and ports (R448) -/

/-- The stream slot a STREAM_XFER's port is bound to. -/
def xferSlot (s : State) (x : Desc) : Option Nat :=
  match slotOf x with
  | none => none
  | some k => match prog? s k with
    | none => none
    | some g => (bindOf g (xferPort x)).map (·.slot)

/-- Starts the fence of a hub (R447, R448): its STREAM_XFERs and collectives end FENCED, its slots lose what they hold, its ports go DISABLED. -/
def fenceHub (h cause rseq : Nat) (lees : Bool) (s : State) : State :=
  let c := hubCode h
  let d := dom s c
  if d.st = .closing ∨ d.st = .closed ∨ d.st = .off then s
  else
    let s := setDom c { d with st := .closing, cause := cause, rseq := rseq, lees := false, leesReq := lees, since := s.time } s
    let det := fencedDetail c false false
    let xs := s.hostif.descs.filter fun x => opcOf x == 0x20 && x.outc.isNone && (match xferSlot s x with
      | some n => n / 128 == h
      | none => false)
    let s := xs.foldl (fun s x => decideDesc x.ref stFenced det s) s
    let cs := s.colls.filter fun c => c.hub == some h
    let s := cs.foldl (fun s c => endColl c stFenced det s) s
    servePorts (eachSlot (fun k n => slotReset k n true) (fun n => n / 128 == h) s)

/-- Starts the fence of an edge port's domain (R448): unacknowledged flits are dropped and its channels move. -/
def fenceEdge (n : Fin 24) (cause rseq : Nat) (lees : Bool) (s : State) : State :=
  let c := edgeCode n.val
  let d := dom s c
  if d.st = .closing ∨ d.st = .closed ∨ d.st = .off then s
  else
    disablePort n (setDom c { d with st := .closing, cause := cause, rseq := rseq, lees := false, leesReq := lees, since := s.time } s)

/-! ## MGMT (R450) -/

/-- What register reads show from now until MGMT is OPEN again (R531). -/
def regsNow (s : State) : Regs :=
  { beats := s.beats, tiles := s.tiles, parcels := s.parcels, pwr := s.pwr, progs := s.progs, snet := s.snet, hostif := s.hostif,
    stage := s.stage, reserved := s.reserved, edge := s.edge, doms := s.doms, boot := s.boot, sec := s.sec, sb := s.sb, dbg := s.dbg,
    module := s.module }

/-- Closes MGMT: h = 56 and a change to OP7 as a forced state, placements are abandoned (R450). -/
def mgmtClose (cause rseq : Nat) (s : State) : State :=
  let d := dom s mgmtCode
  if d.st ≠ .opened then s
  else
    let s := forceSlow (issueHold 56 { s with pwr := { s.pwr with mgmtForce := true }, atClose := some (regsNow s) })
    setDom mgmtCode { d with st := .closing, cause := cause, rseq := rseq, lees := false, since := s.time } s

/-! ## The host interface (R320 to R322) -/

/-- Whether an undecided descriptor needs host memory after a reset (R321, R351, R384). -/
def needsHost (s : State) (x : Desc) : Bool :=
  let reading := s.hostif.reads.any fun r => r.desc == x.ref
  let o := opcOf x
  if o = 0x10 ∨ o = 0x11 then !x.started || reading
  else if o = 0x13 ∨ o = 0x14 ∨ (0x18 ≤ o ∧ o ≤ 0x1B) ∨ o = 0x20 ∨ o = 0x33 ∨ o = 0x40 ∨ o = 0x41 ∨ o = 0x54 then true
  else if o = 0x30 then fld x 30 1 % 4 == 0 && (!x.started || reading)
  else if o = 0x31 then fld x 30 1 % 4 == 0
  else if o = 0x32 ∨ (0x50 ≤ o ∧ o ≤ 0x53) then !x.started || reading
  else false

/-- Ends a descriptor with RESET_ABORTED (R321): a STREAM_XFER's DETAIL holds the input bytes released; for other work the manual states no
value, since the work has none yet. -/
def abortDesc (s : State) (x : Desc) : State :=
  if opcOf x = 0x20 then decideDesc x.ref stAborted (x.moved % 2 ^ 32) s
  else
    let f := freeDWord s
    let s := decideDesc x.ref stAborted (f.1 % 2 ^ 63) { f.2 with placing := f.2.placing.filter fun p => p.desc != some x.ref }
    abortEdge x.ref s

/-- An SQ after a host-interface reset (R320): its Reset values; FENCE_WAIT stays until it is enabled again (R454, R532). -/
def sqAfter (ds : List Desc) (p : Fin 64) (q : Sq) : Sq :=
  let hit := ds.any fun x => x.ref.sq == p && (match x.outc with
    | some o => o.status == stAborted
    | none => false)
  { Sq.reset with era := q.era, wait := q.wait || hit, waitDom := if q.wait then q.waitDom else if hit then hostifCode else 0 }

/-- The host link goes down: LINK_STAT reads 0, and LINK_CHANGE is set (R313, R532, R541). -/
def linkDown (s : State) : State :=
  let s' := { s with hostif := { s.hostif with link := false, cxl := false, width := 0, speed := 0, hdm := false } }
  if s.hostif.link then attn attnLink s' else s'

/-- Closes the host interface (R320 to R322): the HOSTIF and RING blocks take their Reset values but for ATTN, the BARs and MSI-X too; host reads in flight are
dropped, work that needs host memory ends, other work runs on, and every record is held. Closed already, only the link goes. -/
def hostifClose (cause : Nat) (s : State) : State :=
  let d := dom s hostifCode
  if d.st ≠ .opened then linkDown s
  else
  let s := linkDown (setDom hostifCode
    { d with st := .closing, cause := cause, rseq := 0xFFFFFFFF, lees := false, since := s.time } s)
  let need := s.hostif.descs.filter fun x => x.outc.isNone && needsHost s x
  let s := eachSlot (fun k n => slotReset k n false) (fun _ => true) s
  let s := need.foldl abortDesc s
  let h := s.hostif
  let n := s.snet
  { s with
    hostif := { h with
      vec := 0, vecEn := false, bars := Vector.replicate 2 0, msixEn := false, fmask := false,
      msix := Vector.replicate 64 { addr := 0, data := 0, mask := true }, pba := 0,
      sqs := Vector.ofFn fun i : Fin 64 => sqAfter h.descs i h.sqs[i], cqs := Vector.replicate 64 Cq.reset, reads := [], cache := [],
      descs := h.descs.map (fun x => { x with old := true }), resetAt := none },
    snet := { n with thresh := 40, window := 1, floor := 4, en := true } }

/-- The host interface opens (R320): bytes kept in egress queues are STALE from now on. -/
def hostifOpen (s : State) : State :=
  let s := markStale (domTo hostifCode .opened s)
  answer hostifCode { s with hostif := { s.hostif with reopened := s.time } }

/-! ## Lees records (R457 to R459) -/

/-- One footprint tile in a lees record (R459, type 1). -/
def tileLees (s : State) (k : Fin 8) (e : Nat × Tile) : List Byte :=
  let x := e.2
  if s.parcels[fin12 (parcelOfNo e.1)].st == .off then zeros 18 ++ leBytes 1 4 ++ zeros 1
  else
    let st (i : Fin 4) : Nat := if !x.cfg[i].en then 3 else if x.tasks[i].faulted then 2 else if x.tasks[i].halted then 1 else 0
    let ch (i : Fin 8) : Nat :=
      let c : Chan := x.chans[i]
      if !(c.cfg.en && c.cfg.cred) then 0 else if c.cfg.recv then c.queue.length else c.credit
    leBytes 4 (e.1 / 1024 + 2 ^ 10 * (e.1 % 1024) + 2 ^ 20 * x.router.p + 2 ^ 22 * x.router.k) ++
    leBytes 1 (x.router.ctlQ.length + 16 * x.router.datQ.length) ++
    leBytes 1 (((List.finRange 4).map fun i => 4 ^ i.val * st i).sum) ++
    (List.finRange 4).flatMap (fun i => leBytes 2 x.tasks[i].pc.toNat) ++
    leBytes 4 (((List.finRange 8).map fun i => 16 ^ i.val * ch i).sum) ++
    leBytes 1 ((if x.placed && x.pslot == k then 1 else 0) + (if x.router.owner == k.val then 2 else 0)) ++ zeros 1

/-- One stream slot of a hub in a lees record (R459, type 3): an unbound slot shows zeros; the ingress queue holds no word, since a word leaves in
the beat in which it is made of landed bytes (log 124). -/
def slotLees (s : State) (n : Nat) : List Byte :=
  let hit := (List.finRange 8).findSome? fun k => (slotAt s k n).map fun x => (k, x)
  match hit with
  | none => leBytes 2 n ++ zeros 14
  | some (k, x) => leBytes 2 n ++ leBytes 2 x.port ++ leBytes 4 x.landing.length ++ leBytes 4 x.egress.length ++ zeros 1 ++ leBytes 1 x.outQ.length ++ leBytes 1 k.val ++ zeros 1

/-- One edge channel in a lees record (R459, type 4). -/
def chanLees (s : State) (e : Nat × EChan) : List Byte :=
  let c := e.2
  leBytes 1 (e.1 / 256) ++ leBytes 1 (e.1 % 256) ++ leBytes 2 (c.txPsn % 65536) ++ leBytes 2 (c.rxPsn % 65536) ++ leBytes 2 c.grant ++
  leBytes 2 c.unack.length ++ leBytes 1 (c.port.getD 0xFF) ++ leBytes 1 ((peerOf s (e.1 / 256)).inc) ++ zeros 4

/-- The sections of a domain's lees record: type, record size, records (R459). -/
def leesSections (c : Nat) (s : State) : List (Nat × Nat × List (List Byte)) :=
  let i := c % 256
  let heads := (2, 16, lookupD [] s.snet.heads c)
  let chans (p : Nat → Bool) : Nat × Nat × List (List Byte) :=
    (4, 16, (s.edge.chans.filter fun e => match e.2.port with | some n => p n | none => false).map (chanLees s))
  match c / 256 with
  | 7 => [(1, 20, (s.tiles.filter fun e => inFoot (fin8 i) e.2).map (tileLees s (fin8 i))), heads]
  | 3 => [heads, (3, 16, (List.range 128).map fun j => slotLees s (128 * i + j)), chans fun n => hubOf n == i]
  | _ => [chans fun n => n == i]

/-- Directory entries of sections that begin at `off` (R458). -/
def leesDir (off : Nat) : List (Nat × Nat × List (List Byte)) → List Byte
  | [] => []
  | (ty, sz, l) :: t => leBytes 2 ty ++ zeros 2 ++ leBytes 4 l.length ++ leBytes 4 off ++ leBytes 4 sz ++ leesDir (off + sz * l.length) t

/-- A lees record (R458). -/
def leesRecord (c seq pbeat : Nat) (s : State) : List Byte :=
  let d := dom s c
  let secs := leesSections c s
  let body := secs.flatMap fun e => e.2.2.flatten
  let off := 64 + 16 * secs.length
  [0x4C, 0x45, 0x45, 0x53] ++ leBytes 2 1 ++ leBytes 2 c ++ leBytes 4 (off + body.length) ++ leBytes 4 seq ++ leBytes 8 (nsNow s) ++
  leBytes 8 s.beats.cbn ++ leBytes 8 pbeat ++ leBytes 4 d.rseq ++ leBytes 1 d.cause ++ leBytes 1 secs.length ++ zeros 18 ++
  leesDir off secs ++ body

/-- Captures the lees record of a domain's close, if it is asked for and the area is free (R457). -/
def captureLees (c pbeat : Nat) (s : State) : State :=
  if (dom s c).leesReq && s.lees.isNone then
    let seq := s.leesSeq + 1
    updDom c (fun d => { d with lees := true }) { s with lees := some { seq := seq, bytes := leesRecord c seq pbeat s }, leesSeq := seq }
  else s

/-! ## Programs: halt and release (R130, R190, R447 to R449) -/

/-- Credits that pops and firings have added but that are not pending for credit slots yet (R181). -/
def comingCredits (x : Tile) : Nat :=
  (x.acts.filter fun a => match a.act with
    | .pend _ => true
    | _ => false).length

/-- The words of a program that a halt finds in its credited and steering queues, those at hubs too, and pending credit counts (R190 step 4): each pending credit is counted as one word, those
added less than 3 beats ago among them (log 124). -/
def haltWords (k : Fin 8) (s : State) : Nat :=
  ((s.tiles.filter fun e => inFoot k e.2).map fun e =>
    e.2.router.ctlQ.length + e.2.router.datQ.length + (e.2.chans.toList.map fun c => c.queue.length + c.pend).sum + comingCredits e.2).sum +
  (match prog? s k with
   | some g => (g.slots.map fun e => e.2.outQ.length + e.2.outPend).sum
   | none => 0)

/-- The halt at its tiles: queues emptied, routers off, nothing in flight (R190 step 4). -/
def haltTile (k : Fin 8) (x : Tile) : Tile :=
  if inFoot k x then
    { x with acts := [], wide := [], slots := [], router := { x.router with en := false, ctlQ := [], datQ := [] },
             chans := x.chans.map fun c => { c with queue := [], pend := 0 } }
  else x

/-- The halt of a domain: its tiles, and the credited queues of its stream slots (R190 step 4); a window of the hold count that it cuts is dropped. -/
def haltTiles (k : Fin 8) (s : State) : State :=
  updProg k (fun g => { g with winHolds := 0, slots := g.slots.map fun e => (e.1, { e.2 with outQ := [], outPend := 0 }) })
    { s with tiles := s.tiles.map fun e => (e.1, haltTile k e.2) }

/-- A tile's core as no program's: memories filled with zero; what belongs to the router and the service side stays (R130). -/
def bareTile (x : Tile) : Tile :=
  let y := zeroMem .slab (zeroMem .sram x)
  { Tile.free with
    router := x.router, access := x.access, slabAt := x.slabAt, narrow := x.narrow, grants := x.grants, grantsC := x.grantsC, ecc := y.ecc,
    mended := y.mended, scrubL := x.scrubL, scrubC := x.scrubC, retire := x.retire, repairs := x.repairs, toRepair := x.toRepair, ownAt := x.ownAt }

/-- A tile leaves a footprint: its core's memory is filled with zero, its core and router belong to no program (R130, R145). -/
def freeTile (k : Fin 8) (x : Tile) : Tile :=
  let x := if x.placed && x.pslot == k then bareTile x else x
  if x.router.owner = k.val then { x with router := { Router.none with ran := x.router.ran } } else x

/-- A router table with the entries of a program's net put into free pairs, or taken out of them (R160). -/
def orEntry (t : List (Nat × DWord)) (e : Nat × DWord) : List (Nat × DWord) := put e.1 (lookupD 0 t e.1 ||| e.2) t
def cutEntry (t : List (Nat × DWord)) (e : Nat × DWord) : List (Nat × DWord) := put e.1 (lookupD 0 t e.1 &&& ~~~e.2) t

/-- Takes a program's drives out of the headland routers (R160). -/
def headRemove (g : Prog) (s : State) : State :=
  (g.place.tiles.filter fun c => (headlandOf c.at_).isSome).foldl (fun s c =>
    updTile c.at_ (fun x => { x with router := { x.router with table := c.entries.foldl cutEntry x.router.table } }) s) s

/-- A descriptor that is already decided takes the code a program fault owes its SQ. -/
def settleOne (s : State) (e : Fin 64 × Fin 8 × Nat × Nat) : State :=
  let hit (x : Desc) : Bool := x.ref.sq == e.1 && slotOf x == some e.2.1 && (match x.outc with
    | some o => fencedBy e.2.1 e.2.2.2 o
    | none => false)
  match s.hostif.descs.find? hit with
  | some x => updDesc x.ref (fun y => { y with outc := y.outc.map fun o => { o with status := stAccess, detail := e.2.2.1 } }) s
  | none => s

/-- A faulted program leaves: its fault reaches no later completion (R79), and a next program of the slot owes nothing for it. -/
def settleOwed (k : Fin 8) (s : State) : State :=
  let l := s.hostif.owed.filter fun e => e.2.1 == k
  l.foldl settleOne { s with hostif := { s.hostif with owed := s.hostif.owed.filter fun e => e.2.1 != k } }

/-- The tiles of a footprint. -/
def footTiles (s : State) (k : Fin 8) : List TileAt := (s.tiles.filter fun e => inFoot k e.2).map fun e => tileOfNo e.1

/-- Releases a program slot (R129, R130, R447, R448): slot empty, the deferred work of its tiles done, footprint zero-filled, its image copy, watch
and press records gone. -/
def releaseProg (k : Fin 8) (s : State) : State :=
  let s := (footTiles s k).foldl (fun s t => deferredWork t s) (settleOwed k s)
  let s := match prog? s k with
    | some g => headRemove g s
    | none => s
  let s := { s with tiles := s.tiles.map fun e => (e.1, freeTile k e.2) }
  let s := setProg k none s
  let s := { s with watches := s.watches.filter fun w => w.1 != k.val, reserved := s.reserved.filter fun r => r.area != .image k }
  evaluate (redivideAll s)

/-- Moves descriptors of a slot that waited for its barrier on to the next. -/
def dropWaiting (k : Fin 8) (s : State) : State := updProg k (fun g => { g with waiting := [] }) s

end Sys2Proof.Machine
end

