-- ==== Sys2Proof/Machine/Power.lean ====
section
/-! DEFINITION. The power controller: current limits, operating points, regulator alerts, rail shorts, clocks, sensors, evacuation,
ageing and the coolant flow stop (R385 to R409). -/

namespace Sys2Proof.Machine

/-- Whether a parcel counts as ON for current, temperature and clocks: ON, or still running while it is evacuated (R405, R407). -/
def onNow (s : State) (p : Fin 12) : Bool := s.parcels[p].st == .on || s.parcels[p].st == .evacuating

/-- Sets every powered logic rail to its voltage at a point (R390, R392). -/
def setRails (op : Nat) (s : State) : State :=
  { s with parcels := s.parcels.map fun x => if x.logicOn then { x with vmv := railMv x op } else x }

/-- A parcel lost without warning, with its record and what its headland held (R29, R283, R316). -/
def dropParcel (p : Fin 12) (cause : Nat) (e : ErrRec) (cellar : Bool) (s : State) : State := headLoss p (loseParcel p cause e cellar s)

/-! ## Current limits (R396 to R399) -/

/-- I_lim of a parcel in A (R410). -/
def ilimOf (s : State) (p : Fin 12) : Nat := max 100 (min 2700 s.pwr.ilim[p])

/-- The ratios of R397 as fractions: each ON rail's mean current against its limit, and the input power against its limit. -/
def ratios (s : State) (tel : Telemetry) : List (Nat × Nat) :=
  ((List.finRange 12).filter (onNow s)).map (fun p => ((tel.iMean[p.val]?).getD 0, 1000 * ilimOf s p)) ++
  [(tel.pIn, 10000 * min 3000 s.pwr.pinLim)]

/-- h_lim after a sample (R397), with `h` the hold count in force: ⌈64 − (64 − h) ÷ ratio⌉ above 1, one less below 0.95. -/
def nextHLim (rs : List (Nat × Nat)) (h hLim : Nat) : Nat :=
  let above := rs.filter fun r => decide (r.2 < r.1)
  let n := if !above.isEmpty then (above.map fun r => 64 - (64 - h) * r.2 / r.1).foldl max 0
    else if rs.all fun r => decide (100 * r.1 < 95 * r.2) then hLim - 1
    else hLim
  min n 56

/-- h of R397: the greatest component, and 56 in a forced state (R401). -/
def holdWant (s : State) : Nat :=
  if forcedNow s then 56 else max s.pwr.hLim (max s.pwr.hTherm (if s.pwr.fast.isEmpty then 0 else 56))

/-- The time since when each rail under R398 is below its limit. -/
def lowSince (s : State) (tel : Telemetry) : List (Fin 12 × Nat) :=
  s.pwr.fast.filterMap fun p =>
    if (tel.iMean[p.val]?).getD 0 < 1000 * ilimOf s p then
      some (p, ((s.pwr.fastLow.find? fun e => e.1 == p).map (·.2)).getD s.time)
    else none

/-- Takes a sample's readings into the registers (R397, R410, R418). -/
def takeReadings (tel : Telemetry) (s : State) : State :=
  let low := lowSince s tel
  { s with
    parcels := Vector.ofFn fun p => { s.parcels[p] with iMeas := (tel.iMean[p.val]?).getD 0 / 1000 },
    pwr := { s.pwr with pin := tel.pIn / 10000, vin := tel.vIn, volts := tel.vRail, fastLow := low } }

/-- CURRENT_SAMPLE (R397, R399): while MGMT is not OPEN the power controller takes no sample (R450). -/
def execCurrentSample (tel : Telemetry) (s : State) : Res :=
  if !isOpen s mgmtCode then .next s
  else
    let old := s.pwr.hLim
    let new := nextHLim (ratios s tel) (hForce s) old
    let rise := decide (old = 0 ∧ 0 < new ∧ s.pwr.hLim0 + ms 1 ≤ s.time)
    let s := takeReadings tel s
    let s := { s with pwr := { s.pwr with hLim := new, hLim0 := if new = 0 ∧ old ≠ 0 then s.time else s.pwr.hLim0 } }
    let s := if holdWant s = hForce s then s else issueHold (holdWant s) s
    .next (if rise then attn attnPower s else s)

/-- FAST_OVERCURRENT (R398, R399): h = 56 at once, and POWER_LIMIT. -/
def execFastOvercurrent (p : Fin 12) (s : State) : Res :=
  if s.pwr.fast.contains p || !s.parcels[p].logicOn then .next s
  else .next (attn attnPower (issueHold 56 { s with pwr := { s.pwr with fast := s.pwr.fast ++ [p] } }))

/-- FAST_HOLD_RELEASE (R398): the rail's mean has stayed below I_lim for 1 µs. -/
def execFastHoldRelease (p : Fin 12) (s : State) : Res :=
  if s.pwr.fast.contains p && s.pwr.fastLow.any (fun e => e.1 == p && decide (e.2 + us 1 ≤ s.time)) then
    .next { s with pwr := { s.pwr with fast := s.pwr.fast.filter (· != p), fastLow := s.pwr.fastLow.filter fun e => e.1 != p } }
  else .next s

/-! ## Operating points (R388 to R391) -/

/-- OP_EVALUATE (R389). -/
def execOpEvaluate (s : State) : Res := .next (evaluate s)

/-- Changes the operating-point change in progress. -/
def setChange (c : Option OpChange) (s : State) : State := { s with pwr := { s.pwr with change := c } }

/-- OP_CHANGE_STOP (R390): at the announced CBN every ON parcel stops; with none ON there is none to stop. -/
def execOpChangeStop (s : State) : Res :=
  match s.pwr.change with
  | none => .next s
  | some c => if c.step = .announced ∧ (c.stopAt ≤ s.beats.cbn ∨ ¬ anyRuns s) then .next (setChange (some { c with step := .stopped }) s) else .next s

/-- OP_CHANGE_LAND (R390): the PLLs have relocked; the new point is in force, and every ON parcel resumes at the same CBN. A change to a faster
point ends; one to a slower point goes on with its ramp-down. -/
def execOpChangeLand (s : State) : Res :=
  match s.pwr.change with
  | none => .next s
  | some c =>
    if c.step ≠ .stopped then .next s
    else
      let slower := decide (s.pwr.eff < c.target)
      let s := { s with pwr := { s.pwr with eff := c.target, landedAt := s.time, change := if slower then some { c with step := .landed } else none } }
      .next (evaluate (if slower then s else setRails s.pwr.eff s))

/-- OP_CHANGE_END (R390): the ramp-down has ended. -/
def execOpChangeEnd (s : State) : Res :=
  match s.pwr.change with
  | none => .next s
  | some c => if c.step = .landed then .next (evaluate (setRails s.pwr.eff (setChange none s))) else .next s

/-- RAIL_RAMP_END (R390): the logic rails are at the faster point's voltage; the stop is announced 64 beats ahead. -/
def execRailRampEnd (s : State) : Res :=
  match s.pwr.change with
  | none => .next s
  | some c =>
    if c.step = .ramp then .next (setRails c.target (setChange (some { c with step := .announced, stopAt := s.beats.cbn + 64 }) s))
    else .next s

/-! ## Alerts and shorts (R400 to R402) -/

/-- The response to a forced state: h = 56 within 40 ns and a change to OP7 (R401), with POWER_LIMIT (R399). -/
def forceResponse (s : State) : State := attn attnPower (forceSlow (issueHold 56 s))

/-- ALERT_ASSERT (R401): ignored for an isolated group, and while the group's alert is asserted already. -/
def execAlertAssert (g : Fin 48) (cur volt : Nat) (s : State) : Res :=
  if s.pwr.iso.getLsbD g || s.pwr.asserted.getLsbD g then .next s
  else
    let b : BitVec 48 := 1#48 <<< g.val
    let s := { s with pwr := { s.pwr with asserted := s.pwr.asserted ||| b, latch := s.pwr.latch ||| b, forced := true } }
    .next (forceResponse (logRec { groupRec s 0x15 1 g volt with info := cur % 2 ^ 32 } s))

/-- An alert is no longer asserted, by clearing or isolation: the last one starts the 1 ms count (R401). -/
def alertGone (g : Fin 48) (s : State) : State :=
  let a := s.pwr.asserted &&& ~~~(1#48 <<< g.val)
  if s.pwr.asserted.getLsbD g then
    { s with pwr := { s.pwr with asserted := a, clearAt := if a = 0 then s.time else s.pwr.clearAt, lastGrp := if a = 0 then g else s.pwr.lastGrp } }
  else s

/-- ALERT_CLEAR (R401). -/
def execAlertClear (g : Fin 48) (s : State) : Res := .next (alertGone g s)

/-- FORCED_STATE_LIFT (R401): 1 ms after the last alert has cleared or been isolated; `cur` and `volt` are of the rail of the last group. -/
def execForcedStateLift (cur volt : Nat) (s : State) : Res :=
  if s.pwr.forced && s.pwr.asserted == 0 && decide (s.pwr.clearAt + ms 1 ≤ s.time) then
    let s := { s with pwr := { s.pwr with forced := false } }
    .next (evaluate (attn attnPower (logRec { groupRec s 0x15 1 s.pwr.lastGrp volt with info := cur % 2 ^ 32 + 2 ^ 32 } s)))
  else .next s

/-- Isolates a group: its alert wire is ignored (R402). -/
def isolate (g : Fin 48) (s : State) : State :=
  alertGone g { s with pwr := { s.pwr with iso := s.pwr.iso ||| (1#48 <<< g.val) } }

/-- A hub rail short (R402, R424, R436): FATAL for HUB-W; another hub is lost with cause 6 and opens only by READMIT. -/
def hubShort (h : Nat) (g : Fin 48) (s : State) : State :=
  if h = 0 then fatal 1 s
  else
    let r := nextRseq s
    let s := logFor { groupRec s 0x16 2 g (groupVolt s g.val) with info := 16 } [hubCode h] s
    let s := { s with module := { s.module with hrails := s.module.hrails &&& ~~~(1#4 <<< h) } }
    let s := fenceHub h 6 r true s
    let cs := s.colls.filter fun c => c.hub == some h
    let s := cs.foldl (fun s c => endColl c stFenced (fencedDetail (hubCode h) false false) s) s
    updDom (hubCode h) (fun d => { d with readmit := true }) s

/-- A PHY rail short: the die's three ports enter FAILED and stay there (R402). -/
def phyShort (d : Nat) (g : Fin 48) (s : State) : State :=
  let s := logRec { groupRec s 0x16 2 g (groupVolt s g.val) with info := 17 } s
  failDie d { s with module := { s.module with phys := s.module.phys &&& ~~~(1#8 <<< d) } }

/-- RAIL_SHORT (R402): the rail's groups are isolated, and its parcel, hub or PHY die goes out of service. -/
def execRailShort (g : Fin 48) (s : State) : Res :=
  let i := g.val
  if !s.pwr.asserted.getLsbD i || s.pwr.iso.getLsbD i then .next s
  else if i < 24 then
    let p := fin12 (i / 2)
    .next (dropParcel p 3 { parcelRec s 0x16 2 p with info := 3 } false (isolate (fin48 (2 * (i / 2) + 1)) (isolate (fin48 (2 * (i / 2))) s)))
  else if i < 36 then
    let p := fin12 (i - 24)
    .next (dropParcel p 4 { parcelRec s 0x16 2 p with info := 4 } true (isolate g s))
  else if i < 40 then .next (hubShort (i - 36) g (isolate g s))
  else .next (phyShort (2 * ((i - 40) % 4) + (i - 40) / 4) g (isolate g s))

/-! ## PLLs (R387) -/

/-- PLL_LOCK_LOSS (R387). -/
def execPllLockLoss (p : Fin 12) (s : State) : Res :=
  if onNow s p then .next (dropParcel p 6 { parcelRec s 0x19 2 p with info := 1 } false s) else .next s

/-- BEAT_REFERENCE_LOSS (R387): every ON parcel goes OFF with cause 6, each with its record, and every resident program is fenced. -/
def execBeatReferenceLoss (s : State) : Res :=
  if !s.pwr.bref then .next s
  else
    let r := nextRseq s
    let s := { s with pwr := { s.pwr with bref := false } }
    let s := ((List.finRange 12).filter (onNow s)).foldl (fun s p => dropParcel p 6 { parcelRec s 0x19 2 p with info := 3 } false s) s
    .next ((List.finRange 8).foldl (fun s k => fenceProg k 5 r true s) s)

/-! ## Temperature (R404 to R408) -/

/-- The parcel of a field sensor (R6, R404). -/
def sensorParcel (i : Nat) : Nat := 4 * (i / 16 / 8 / 2) + i / 16 % 8 / 2

/-- A frame as the engine reads it: no reading from a sensor whose rail is off (R404). -/
def poweredFrame (s : State) (f : SensorFrame) : SensorFrame :=
  { field := (f.field.take 768).mapIdx fun i x => if s.parcels[fin12 (sensorParcel i)].cellarOn then x else 0x8000,
    hub := (f.hub.take 8).mapIdx fun i x => if s.module.hrails.getLsbD (i / 2) then x else 0x8000,
    phy := (f.phy.take 16).mapIdx fun i x => if s.module.phys.getLsbD (i / 2) then x else 0x8000 }

/-- T: the hottest field sensor of the ON parcels, if one has a reading (R405). -/
def hottest (s : State) : Option Nat :=
  let t := ((List.finRange 12).filter (onNow s)).foldl (fun a p => hotter a (parcelHot s.pwr.sens p.val)) 0x8000
  if t = 0x8000 then none else some t

/-- The thresholds whose crossing sets THERMAL, in 0.25 °C: 95, 93, 100, 105 and 115 °C (R406). -/
def crossAt : List Nat := [380, 372, 400, 420, 460]

/-- Crossings of the thresholds between two readings of a sensor. -/
def crossings (a b : Nat) : Nat :=
  if a = 0x8000 ∨ b = 0x8000 then 0 else (crossAt.filter fun x => decide (a < x) != decide (b < x)).length

/-- Crossings of all sensors between two frames. -/
def frameCrossings (a b : SensorFrame) : Nat :=
  ((a.field.zip b.field) ++ (a.hub.zip b.hub) ++ (a.phy.zip b.phy)).foldl (fun n e => n + crossings e.1 e.2) 0

/-- The warning, the thermal hold floor and the starts of the counts of R406, by T; without T they keep their values and the counts pause (R405). -/
def thermalStep (t : Option Nat) (now : Nat) (w : Pwr) : Pwr :=
  let dt := now - w.sampled
  let shift (o : Option Nat) : Option Nat := o.map (· + dt)
  let w1 := if t.isNone || w.paused then { w with hotAt := shift w.hotAt, coolAt := shift w.coolAt } else w
  match t with
  | none => { w1 with sampled := now, paused := true }
  | some x =>
    let warn := decide (380 ≤ x) || (w.warn && decide (372 ≤ x))
    { w1 with
      sampled := now, paused := false, warn := warn, hTherm := if warn then min 56 (8 + 4 * (x / 4) - 380) else 0,
      hotAt := if 400 ≤ x then some (w1.hotAt.getD now) else none, coolAt := if x < 372 then some (w1.coolAt.getD now) else none }

/-- Sensors of a parcel at 105 °C or more, with the time since when (R407). -/
def hotList (s : State) (p : Fin 12) : List (Nat × Nat) :=
  ((parcelSensors p.val).filter fun i => tempOf s.pwr.sens.field i != 0x8000 && decide (420 ≤ tempOf s.pwr.sens.field i)).map fun i =>
    (i, (find? s.parcels[p].hot105 i).getD s.time)

/-- The hottest reading of die `d`: hub 0 to 3, PHY die 2h + x at 4 + 2h + x. -/
def dieTemp (s : State) (d : Nat) : Nat :=
  if d < 4 then hotter (tempOf s.pwr.sens.hub (2 * d)) (tempOf s.pwr.sens.hub (2 * d + 1))
  else hotter (tempOf s.pwr.sens.phy (2 * (d - 4))) (tempOf s.pwr.sens.phy (2 * (d - 4) + 1))

/-- The power-stage group of a die's rail (R400). -/
def dieGroup (d : Nat) : Fin 48 := if d < 4 then fin48 (36 + d) else fin48 (phyGroup (d - 4))

/-- Dies under a forced state whose sensors are below 105 °C, with the time since when (R406). -/
def dieLows (s : State) : List (Fin 12 × Nat) :=
  s.pwr.dies.filterMap fun d =>
    if dieTemp s d.val < 420 then some (d, ((s.pwr.dieLow.find? fun e => e.1 == d).map (·.2)).getD s.time) else none

/-- A die sensor at 110 °C or more sets a forced state as an alert does, with its own record (R406). -/
def dieForce (s : State) (d : Fin 12) : State :=
  let t := dieTemp s d.val
  if t = 0x8000 ∨ t < 440 ∨ s.pwr.dies.contains d then s
  else
    let g := dieGroup d.val
    let s := logRec { groupRec s 0x17 1 g (groupVolt s g.val) with info := 2, temp := t } s
    forceResponse { s with pwr := { s.pwr with dies := s.pwr.dies ++ [d] } }

/-- A thermal trip (R408): at 115 °C a parcel stops; one whose rails are in retention loses its slabs too. -/
def trip (s : State) (p : Fin 12) : State :=
  let t := parcelHot s.pwr.sens p.val
  let st := s.parcels[p].st
  if t = 0x8000 ∨ t < 460 ∨ st = .off then s
  else
    let e := { parcelRec s 0x17 2 p with info := 1 }
    if st = .retained then
      let s := dropParcel p 2 e true s
      logRec { parcelRec s 0x16 2 p with info := 4 } s
    else dropParcel p 2 e false s

/-- SENSOR_SAMPLE (R404 to R408). -/
def execSensorSample (f : SensorFrame) (s : State) : Res :=
  let old := s.pwr.sens
  let new := poweredFrame s f
  let s := { s with pwr := { s.pwr with sens := new } }
  let s := { s with pwr := thermalStep (hottest s) s.time s.pwr }
  let s := { s with
    parcels := Vector.ofFn fun p => { s.parcels[p] with tmax := parcelHot new p.val % 0x8000, hot105 := hotList s p },
    pwr := { s.pwr with dieLow := dieLows s } }
  let s := (List.replicate (frameCrossings old new) ()).foldl (fun s _ => attn attnThermal s) s
  let s := (List.finRange 12).foldl dieForce s
  .next ((List.finRange 12).foldl trip s)

/-- DIE_FORCE_LIFT (R406): the die's sensors have stayed below 105 °C for 1 ms. -/
def execDieForceLift (die : Fin 12) (s : State) : Res :=
  if s.pwr.dies.contains die && s.pwr.dieLow.any (fun e => e.1 == die && decide (e.2 + ms 1 ≤ s.time)) then
    let g := dieGroup die.val
    let s := { s with pwr := { s.pwr with dies := s.pwr.dies.filter (· != die), dieLow := s.pwr.dieLow.filter fun e => e.1 != die } }
    .next (evaluate (attn attnPower (logRec { groupRec s 0x17 1 g (groupVolt s g.val) with info := 6, temp := dieTemp s die.val } s)))
  else .next s

/-- TCAP_SLOWER (R406): each 1 ms with T at or above 100 °C. -/
def execTcapSlower (s : State) : Res :=
  match s.pwr.hotAt with
  | none => .next s
  | some t =>
    if s.pwr.paused || !isOpen s mgmtCode || decide (s.time < t + ms 1) then .next s
    else .next (evaluate { s with pwr := { s.pwr with tcap := min 7 (s.pwr.tcap + 1), hotAt := some (t + ms 1) } })

/-- TCAP_FASTER (R406): each 10 ms with T below 93 °C. -/
def execTcapFaster (s : State) : Res :=
  match s.pwr.coolAt with
  | none => .next s
  | some t =>
    if s.pwr.paused || !isOpen s mgmtCode || decide (s.time < t + ms 10) then .next s
    else .next (evaluate { s with pwr := { s.pwr with tcap := s.pwr.tcap - 1, coolAt := some (t + ms 10) } })

/-! ## Evacuation (R282, R407) -/

/-- EVACUATION_TRIGGER (R407): a sensor of the parcel has stayed at 105 °C or more for 10 ms. -/
def execEvacuationTrigger (p : Fin 12) (s : State) : Res :=
  if s.pwr.flow.isNone && isOpen s mgmtCode && s.parcels[p].hot105.any (fun e => decide (e.2 + ms 10 ≤ s.time)) then .next (startEvac p 4 s)
  else .next s

/-- Whether a tile lies in the cluster of a bypassed service router (R254). -/
def bypassed (s : State) (t : TileAt) : Bool := s.snet.bypass.any fun e => e.1 == t.row.val / 8 && e.2 == t.col.val / 8

/-- Whether a tile may come into new use: on the grid, not culled, not to be retired or repaired, in an ON parcel that the service net reaches, and not in a
bypassed cluster (R129, R254, R284). -/
def tileSound (s : State) (t : TileAt) : Bool :=
  let x := tileAt s t
  (match physCol s t.row.val t.col.val with
   | none => false
   | some pc => !s.boot.culls.any fun e => e.1 == t.row.val && e.2.1 == pc && decide (e.2.2 < 2)) &&
  !x.retire && x.toRepair.isEmpty && s.parcels[parcelOf t].st == .on && !unreach s (epochBit s) (parcelOf t).val && !bypassed s t

/-- Whether a tile's slab may take a reserved or staging slab: in no footprint, headland, granule or reserved area, and sound (R133, R136). -/
def slabFree (s : State) (t : TileAt) : Bool :=
  (ownersOf (tileAt s t)).isEmpty && (headlandOf t).isNone && !inStage s t && !inReserved s t && tileSound s t

/-- The lowest-numbered free slab outside some parcels; the manual leaves the choice open. -/
def pickSlab (s : State) (avoid : List (Fin 12)) : Option TileAt :=
  ((List.range 786432).find? fun n => slabFree s (tileOfNo n) && !avoid.contains (parcelOf (tileOfNo n))).map tileOfNo

/-- Replaces a slab by another in the staging granules and the reserved areas. -/
def swapSlab (a b : TileAt) (s : State) : State :=
  let f (t : TileAt) : TileAt := if t = a then b else t
  { s with
    stage := { s.stage with granules := s.stage.granules.map (·.map f), lost := s.stage.lost.map f },
    reserved := s.reserved.map fun r => { r with copies := r.copies.map fun c => (c.1.map f, c.2) } }

/-- Copies a slab's contents and lets the copy take its place (R129, R134, R137): each word is checked as it is read, and a copy of a reserved area that has
an uncorrectable one is unreadable. -/
def moveSlab (a b : TileAt) (s : State) : State :=
  let s := eccRead .vintner a .slab 0 65536 s
  let x := tileAt s a
  let bad := eccBad x .slab 0 65536
  let s := swapSlab a b (updTile a (zeroMem .slab) (updTile b (fun y => { zeroMem .slab y with slab := x.slab }) s))
  if bad then copiesGone (parcelOf b) (· == b) s else s

/-- Parcels that hold the other copy of the reserved area a slab belongs to (R132). -/
def otherCopies (s : State) (t : TileAt) : List (Fin 12) :=
  s.reserved.flatMap fun r =>
    if r.copies.any (fun c => c.1.contains t) then (r.copies.filter fun c => !c.1.contains t).flatMap fun c => c.1.map parcelOf else []

/-- Moves one reserved or staging slab out of a parcel, if a free slab is found (R282, R407 step 2). -/
def moveOut (p : Fin 12) (s : State) (t : TileAt) : State :=
  match pickSlab s (p :: otherCopies s t) with
  | some u => moveSlab t u s
  | none => s

/-- The reserved and staging slabs in a parcel. -/
def heldSlabs (p : Fin 12) (s : State) : List TileAt :=
  (s.stage.granules.flatten ++ s.reserved.flatMap fun r => (r.copies.filter (·.2)).flatMap (·.1)).filter (slabIn p)

/-- Whether an evacuation has anything left to re-place (R407 step 1). -/
def evacPending (s : State) (p : Fin 12) : Bool :=
  s.placing.any (fun x => x.evac == some p) || !(progsIn s p).isEmpty

/-! ## Table changes (R280, R281, R284) -/

/-- The old epoch of a change. -/
def oldEpoch (s : State) : BitVec 1 := if s.snet.epoch then 0 else 1
def cnt (v : Vector Nat 2) (e : BitVec 1) : Nat := v[if e = 1 then (1 : Fin 2) else 0]

/-- Whether the counts show the old epoch drained (R280 step 3). -/
def drained (s : State) : Bool :=
  let e := oldEpoch s
  let n := s.snet
  cnt n.inject e == cnt n.eject e && cnt n.await_ e == 0 && cnt n.rInject e == cnt n.rEject e

/-- The old epoch's packets that no count of a drained net accounts for (R281). -/
def lostCount (s : State) : Nat :=
  let e := oldEpoch s
  (cnt s.snet.inject e - cnt s.snet.eject e) + (cnt s.snet.rInject e - cnt s.snet.rEject e)

/-- An evacuated parcel that no route leads into any more: its clock is gated, its logic rail goes off and it is OFF with cause 1 (R282, R407). -/
def evacDone (s : State) (p : Fin 12) : State :=
  let s := logRec (parcelRec s 0x17 1 p) s
  let d := dom s (parcelCode p.val)
  let s := parcelTo p .off 1 .closed d.cause d.rseq s
  let s := updParcel p (fun x => { x with logicOn := false, locked := false, stopAt := none, iMeas := 0, gone := true, parting := false }) s
  headLoss p (servePorts (loseReserved p (loseStage p (dropLinks p (loseMem p true false s)))))

/-- Ends a change: the counts of the old epoch start again, parcels that waited for it go off, the next change begins (R280 step 4, R281, R282). -/
def endChange (mask : BitVec 16) (s : State) : State :=
  let n := s.snet
  let e := oldEpoch s
  let i : Fin 2 := if e = 1 then 1 else 0
  let n := { n with inject := n.inject.set i 0, eject := n.eject.set i 0, rInject := n.rInject.set i 0, rEject := n.rEject.set i 0,
                    await_ := n.await_.set i 0, change := none }
  let s := releaseAll { s with snet := n }
  let s := ((List.finRange 12).filter fun p => s.parcels[p].parting && mask.getLsbD p.val).foldl evacDone s
  match s.snet.queued with
  | [] => servePorts s
  | m :: t => servePorts (tableChange m { s with snet := { s.snet with queued := t } })

/-- TABLE_DRAINED (R280): the old epoch is drained, and the old bank may be rewritten: it takes the new table. -/
def execTableDrained (s : State) : Res :=
  match s.snet.change with
  | none => .next s
  | some c =>
    if drained s then
      .next (endChange c.mask (writeTables (idleBank s) c.mask s))
    else .next s

/-- The packets of an old epoch that is given up: from now on they only meet UNREACHABLE entries, and count in no epoch (R279, R281). -/
def giveUp (s : State) : State :=
  let n := s.snet
  let old (p : Packet) : Bool := p.epoch == oldEpoch s
  { s with snet := { n with flight := n.flight.filter (!old ·), wires := { n.wires with late := n.wires.late ++ n.flight.filter old } } }

/-- TABLE_DRAIN_TIMEOUT (R281): 2 ms after the flip the difference is logged as lost packets, and every entry of the old bank becomes
UNREACHABLE. The count is the engine's own, whatever count the event brings. -/
def execTableDrainTimeout (_lost : Nat) (s : State) : Res :=
  match s.snet.change with
  | none => .next s
  | some c =>
    if c.at_ + ms 2 ≤ s.time ∧ ¬ drained s then
      let n := lostCount s
      let s := logRec { mgmtRec s 0 0 with src := 0x0E, sev := 1, info := n } s
      .next (endChange c.mask (giveUp (writeTables (idleBank s) 0xFFFF s)))
    else .next s

/-! ## The end of an evacuation (R282, R407) -/

/-- The slab and the byte in it of a window offset (R135); none above the window. -/
def stagePlace (s : State) (off : Nat) : Option (TileAt × Nat) :=
  let o := off % 2 ^ 28
  match s.stage.granules[off / 2 ^ 28]? with
  | none => none
  | some g => (g[o / 256 % 4096]?).map fun t => (t, 256 * (o / 2 ^ 20) + o % 256)

/-- Whether the CXL controller has an access under way to a slab among `here` (R137). -/
def cxlBusy (s : State) (here : TileAt → Bool) : Bool :=
  (s.snet.reqs ++ s.snet.waiting.map (·.1)).any fun r => match r.why with
    | .cxlRead a => (stagePlace s a).any fun e => here e.1
    | .cxlWrite a => (stagePlace s a).any fun e => here e.1
    | _ => false

/-- EVACUATION_COMPLETE (R137, R282, R407): its programs re-placed or stopped, the parcel's slabs are moved, and a table change begins in which it is
UNREACHABLE; when that change has drained the parcel goes off. -/
def execEvacuationComplete (p : Fin 12) (s : State) : Res :=
  if s.parcels[p].st ≠ .evacuating ∨ s.parcels[p].parting ∨ evacPending s p ∨ s.pwr.flow.isSome ∨ cxlBusy s (slabIn p) then .next s
  else
    let s := updParcel p (fun x => { x with parting := true }) ((heldSlabs p s).foldl (moveOut p) s)
    .next (tableChange (wantMask s) s)

/-! ## Ageing (R395) -/

/-- A footprint core with low margin in two scans in a row: its parcel's trim rises, once a scan, or at 40 mV the core is suspect. -/
def ageFoot (s : State) (t : TileAt) : State :=
  let p := parcelOf t
  if s.parcels[p].trim < 4 then
    let s := raiseTrim p s
    logRec { parcelRec s 0x1A 0 p with info := s.parcels[p].trim } s
  else suspectTile t (logSuspect { tileRec s 0x1A 3 0 0 t with info := 4 } s)

/-- A core outside every footprint with low margin is rated one point slower. -/
def ageFree (s : State) (t : TileAt) : State :=
  match physCol s t.row.val t.col.val with
  | none => s
  | some pc =>
    let key := ratingKey t.row.val pc
    let old := (find? s.pwr.rating key).getD 0
    if 7 ≤ old then s
    else bumpGen (logRec { tileRec s 0x1A 0 0 0 t with info := old + 1 } { s with pwr := { s.pwr with rating := put key (old + 1) s.pwr.rating } })

/-- Keeps one core of each parcel. -/
def onePerParcel : List TileAt → List TileAt
  | [] => []
  | t :: l => t :: (onePerParcel l).filter fun u => parcelOf u != parcelOf t

/-- AGEING_SCAN (R395): `low` are the cores whose margin is below their monitor's threshold. -/
def execAgeingScan (low : List TileAt) (s : State) : Res :=
  if !isOpen s mgmtCode then .next s
  else
    let twice := low.filter fun t => (tileAt s t).placed && s.pwr.lowMargin.contains t && onNow s (parcelOf t)
    let free := low.filter fun t => (ownersOf (tileAt s t)).isEmpty
    let s := { s with pwr := { s.pwr with lowMargin := low } }
    .next (free.foldl ageFree ((onePerParcel twice).foldl ageFoot s))

/-! ## Coolant flow (R403) -/

/-- The record of a flow stop or resumption: the power controller, unit 5 of HUB-W. -/
def flowRec (s : State) (resume : Bool) : ErrRec := { hubRec s 0x18 1 0 5 with info := if resume then 1 else 0 }

/-- A parcel goes into retention, CLOSED with HELD = 1 (R403, R435). -/
def retain (r : Nat) (s : State) (p : Fin 12) : State :=
  let s := parcelTo p .retained s.parcels[p].cause .closed 7 r s
  updDom (parcelCode p.val) (fun d => { d with held := true }) (updParcel p (fun x => { x with locked := false, parting := false }) s)

/-- A program is fenced with its state kept (R403, R448). -/
def holdProg (r : Nat) (s : State) (k : Fin 8) : State :=
  let s := updDom (progCode k.val) (fun d => { d with st := .closed, held := true, lees := false, cause := 7, rseq := r, since := s.time }) s
  fenceColls k (fenceDescs k s)

/-- FLOW_STOP (R403): FLOW_OK has been low for 50 µs with FLOW_EN set; a change of operating point completes first. -/
def execFlowStop (s : State) : Res :=
  if !s.pwr.flowEn || s.pwr.flow.isSome || s.pwr.change.isSome then .next s
  else
    let r := nextRseq s
    let on := (List.finRange 12).filter (onNow s)
    let ev := (List.finRange 12).filter fun p => s.parcels[p].st == .evacuating
    let ks := (List.finRange 8).filter fun k => (prog? s k).isSome && isOpen s (progCode k.val)
    let s := logFor (flowRec s false) (ks.map fun k => progCode k.val) s
    let s := { s with pwr := { s.pwr with flow := some { cbn := s.beats.cbn, wasOn := on, evac := ev, wentHi := none, progs := ks } } }
    let s := on.foldl (retain r) s
    let s := ks.foldl (holdProg r) s
    let s := eachSlot (fun k n => slotReset k n false) (fun _ => true) s
    .next (attn attnThermal (servePorts s))

/-- A retained parcel resumes (R403 step 5). -/
def unretain (ev : List (Fin 12)) (s : State) (p : Fin 12) : State :=
  if s.parcels[p].st ≠ .retained then s
  else
    let e := ev.contains p
    let s := updParcel p (fun x => { x with st := if e then .evacuating else .on, locked := true }) s
    updDom (parcelCode p.val) (fun d => { d with st := if e then .closing else .opened, held := false, since := s.time }) s

/-- A held program resumes (R403). -/
def unhold (s : State) (k : Fin 8) : State :=
  if (dom s (progCode k.val)).held then updDom (progCode k.val) (fun d => { d with st := .opened, held := false, since := s.time }) s else s

/-- FLOW_RESUME (R403 step 5): FLOW_OK has been high for 1 s; with FLOW_EN written 0 the second counts from that write. -/
def execFlowResume (s : State) : Res :=
  match s.pwr.flow with
  | none => .next s
  | some f =>
    if !s.pwr.flowEn && (match f.wentHi with | some t => decide (s.time < t + ms 1000) | none => true) then .next s
    else
      let s := f.wasOn.foldl (unretain f.evac) { s with pwr := { s.pwr with flow := none } }
      let s := f.progs.foldl unhold s
      let s := loadTables (wantMask s) { s with snet := { s.snet with change := none, queued := [] } }
      let s := markStale (logRec (flowRec s true) s)
      .next (slotsBack (hubsBack (evaluate (attn attnThermal (servePorts s)))))

end Sys2Proof.Machine
end

