-- ==== Sys2Proof/Machine/Cellar.lean ====
section
/-! DEFINITION. The narrow port's users, repairs and retirement, reserved areas, and the staging window (R113, R120 to R137, R293, R536). -/

namespace Sys2Proof.Machine

/-! ## Free beats and slots (R120 to R122) -/

/-- Whether the present beat is a free beat of local SRAM, or ends a free slot of the slab: no instruction has claimed it, and it has not been
granted (R116, R120); none in a hold beat or an operating-point stop (R274). -/
def narrowFree (s : State) (t : TileAt) (m : MemSpace) : Bool :=
  let x := tileAt s t
  let b := s.beats.wrb
  parcelRuns s (parcelOf t) && !holdNow s && (match m with
    | .sram => !x.wide.contains b && decide (x.access ≤ b)
    | .slab => decide (x.slabAt + 1 ≤ b) && x.slots.all fun a => decide (a + 2 < b ∨ b < a))

/-- Requests granted in a row (R122). -/
def inRow (x : Tile) : MemSpace → Nat
  | .sram => x.grants
  | .slab => x.grantsC

/-- Counts a grant: to a request, or to a writeback or the scrubber. -/
def granted (m : MemSpace) (req : Bool) (b : Nat) (x : Tile) : Tile :=
  match m with
  | .sram => { x with access := b + 1, grants := if req then x.grants + 1 else 0 }
  | .slab => { x with slabAt := b + 1, grantsC := if req then x.grantsC + 1 else 0 }

/-- Takes the oldest request for a memory out of a tile port's queue. -/
def popNarrow (m : MemSpace) : List Narrow → Option (Narrow × List Narrow)
  | [] => none
  | e :: t => if e.space = m then some (e, t) else (popNarrow m t).map fun r => (r.1, e :: r.2)

/-- NARROW_ACCESS (R120, R122, R123): the oldest request gets the free beat or slot, unless three requests in a row have had one: the scrubber
always has work. -/
def execNarrowAccess (t : TileAt) (m : MemSpace) (s : State) : Res :=
  let x := tileAt s t
  if !narrowFree s t m || decide (3 ≤ inRow x m) then .next s
  else match popNarrow m x.narrow with
    | none => .next s
    | some (e, rest) =>
      let s := updTile t (fun x => granted m true s.beats.wrb { x with narrow := rest }) s
      match e.wdata with
      | none => .next (readUnit t e s)
      | some b => .next (writeUnit t e b s)

/-- Whether a writeback or the scrubber may have the beat or slot (R122). -/
def minorTurn (s : State) (t : TileAt) (m : MemSpace) : Bool :=
  let x := tileAt s t
  narrowFree s t m && (decide (3 ≤ inRow x m) || !x.narrow.any fun e => e.space == m)

/-- ECC_WRITEBACK (R125): the oldest corrected word waiting is written back. -/
def execEccWriteback (t : TileAt) (m : MemSpace) (s : State) : Res :=
  if !minorTurn s t m then .next s
  else match (tileAt s t).ecc.find? fun e => e.space == m && e.met && e.bit.isSome with
    | none => .next s
    | some e => .next (updTile t (fun x => granted m false s.beats.wrb (writeback e x)) s)

/-- A reserved-area copy with an uncorrectable word is unreadable (R126, R134). -/
def copyBad (t : TileAt) (s : State) : State := copiesGone (parcelOf t) (· == t) s

/-- SCRUB (R127): the next word or line is read and checked, pass after pass; writebacks go first (R122). -/
def execScrub (t : TileAt) (m : MemSpace) (s : State) : Res :=
  let x := tileAt s t
  if !minorTurn s t m || x.ecc.any (fun e => e.space == m && e.met && e.bit.isSome) then .next s
  else match m with
    | .sram =>
      let a := 8 * (x.scrubL % 4096)
      .next (eccRead .engine t .sram a 8 (updTile t (fun x => granted .sram false s.beats.wrb { x with scrubL := (x.scrubL + 1) % 4096 }) s))
    | .slab =>
      let a := 64 * (x.scrubC % 1024)
      let s := eccRead .engine t .slab a 64 (updTile t (fun x => granted .slab false s.beats.wrb { x with scrubC := (x.scrubC + 1) % 1024 }) s)
      .next (if eccBad x .slab a 64 then copyBad t s else s)

/-! ## Repair and retirement (R128, R129) -/

/-- A slab that holds a reserved area or a staging slab is copied elsewhere first (R129). -/
def vacate (t : TileAt) (s : State) : State :=
  if (inStage s t || inReserved s t) && !cxlBusy s (· == t) then moveOut (parcelOf t) s t else s

/-- Whether a tile may be repaired or retired now: in no footprint, and nothing in its slab that found no other (R129). R129 does not say what happens while no
free slab can take the copy: here the work waits until one can (DESIGN CHOICE, log 154). -/
def workFree (s : State) (t : TileAt) : Bool := (ownersOf (tileAt s t)).isEmpty && !inStage s t && !inReserved s t && isOpen s mgmtCode

/-- ROW_REPAIR (R129): a deferred repair takes the next spare row, once the tile belongs to no footprint and its slab is empty. -/
def execRowRepair (t : TileAt) (srow : Fin 512) (s : State) : Res :=
  let x := tileAt s t
  let s' := vacate t s
  if !x.toRepair.contains srow.val || decide (4 ≤ x.repairs.length) || !workFree s' t then .next s else .next (repairRow t srow.val s')

/-- TILE_RETIREMENT (R129): a marked tile that belongs to no footprint joins the cull list as KIND 1. -/
def execTileRetirement (t : TileAt) (s : State) : Res :=
  let s' := vacate t s
  if !(tileAt s t).retire || !workFree s' t then .next s else .next (retireTile t s')

/-! ## Reserved areas (R132 to R134) -/

/-- RESERVED_COPY_REBUILD (R134): a new copy is written from the surviving one into free slabs of other parcels, and the event is logged; an uncorrectable word of the
surviving one leaves no readable copy. -/
def execReservedCopyRebuild (a : Area) (slabs : List TileAt) (s : State) : Res :=
  match s.reserved.find? fun r => r.area == a && r.copies.any (·.2) && r.copies.any (fun c => !c.2) with
  | none => .next s
  | some r =>
    match r.copies.find? (·.2), r.copies.find? (fun c => !c.2) with
    | some good, some bad =>
      let apart := slabs.all fun t => slabFree s t && !(good.1.map parcelOf).contains (parcelOf t)
      if !isOpen s mgmtCode || slabs.length ≠ bad.1.length || !decide slabs.Nodup || !apart then .next s
      else
        let s := good.1.foldl (fun s t => eccRead .vintner t .slab 0 65536 s) s
        let worn := good.1.any fun t => eccBad (tileAt s t) .slab 0 65536
        if worn then .next (good.1.foldl (fun s t => copyBad t s) s)
        else
          let s := (good.1.zip slabs).foldl (fun s e => updTile e.2 (fun x => { zeroMem .slab x with slab := (tileAt s e.1).slab }) s) s
          let s := bad.1.foldl (fun s t => updTile t (zeroMem .slab) s) s
          let s := { s with reserved := s.reserved.map fun q => if q.area == a then
              { q with copies := q.copies.map fun c => if c == bad then (slabs, true) else c } else q }
          .next (logRec { parcelRec s 0x1B 1 ((slabs.head?.map parcelOf).getD 0) with info := areaNo a } s)
    | _, _ => .next s

/-! ## The staging window (R135 to R137, R536) -/

/-- Whether the host reaches the STAGE block: HOSTIF OPEN and in CXL mode (R290, R541). -/
def stageOn (s : State) : Bool := isOpen s hostifCode && s.hostif.cxl

/-- The granules the window is to have: a GRANULES above 64 acts as 64 (R536). -/
def stageGoal (s : State) : Nat := min 64 s.stage.req

/-- A write of GRANULES (R13, R536): BUSY while the window differs from its goal. -/
def stageReq (n : Nat) (s : State) : State :=
  let s := { s with stage := { s.stage with req := n % 128 } }
  { s with stage := { s.stage with busy := s.stage.granules.length != stageGoal s } }

/-- WIN_REQ (R531, R536): the window's new size, acted on while MGMT is OPEN. -/
def execWinReq (v : Word) (s : State) : Res :=
  if !stageOn s then .next s
  else if !isOpen s mgmtCode then .next { s with deferred := put 0x20000 (v.setWidth 64) s.deferred }
  else .next (stageReq v.toNat s)

/-- Whether fewer slabs are free than a granule takes. -/
def noGranule (s : State) : Bool := decide (((List.range 786432).filter fun n => slabFree s (tileOfNo n)).length < 4096)

/-- Whether the named slabs do not make a granule: 4,096 different free slabs (R136). -/
def granuleBad (s : State) (slabs : List TileAt) : Bool :=
  slabs.length != 4096 || !decide slabs.Nodup || !slabs.all (slabFree s)

/-- A granule is joined to the window, its lines zero (R136). -/
def joinGranule (slabs : List TileAt) (s : State) : State :=
  let s' := slabs.foldl (fun s t => updTile t (zeroMem .slab) s) s
  { s' with stage := { s.stage with granules := s.stage.granules ++ [slabs], logged := false, busy := s.stage.granules.length + 1 != stageGoal s } }

/-- GRANULE_GRANT (R136, R536): one granule of 4,096 free slabs, zero-filled; with no free slabs left the window ends where it is. -/
def execGranuleGrant (slabs : List TileAt) (s : State) : Res :=
  if !s.stage.busy || stageGoal s ≤ s.stage.granules.length || !isOpen s mgmtCode then .next s
  else if slabs.isEmpty then (if noGranule s then .next { s with stage := { s.stage with busy := false } } else .next s)
  else if granuleBad s slabs then .next s
  else .next (joinGranule slabs s)

/-- GRANULE_RELEASE (R136): the highest granule goes and its contents are discarded. -/
def execGranuleRelease (s : State) : Res :=
  let g := s.stage.granules
  if !s.stage.busy || g.length ≤ stageGoal s || !isOpen s mgmtCode then .next s
  else
    let last := (g.getLast?).getD []
    let s := last.foldl (fun s t => updTile t (zeroMem .slab) s) s
    .next { s with stage := { s.stage with
      granules := g.dropLast, logged := false, busy := g.length - 1 != stageGoal s, lost := s.stage.lost.filter fun t => !last.contains t } }

/-- The first access above the window since the last change of its size is logged (R293). -/
def aboveWindow (off : Nat) (s : State) : State :=
  if s.stage.logged then s
  else logRec { linkRec s 0x1C 1 with info := off / 2 ^ 28 } { s with stage := { s.stage with logged := true } }

/-- Whether the CXL.mem window is open to the host (R290, R293). -/
def cxlOpen (s : State) : Bool := stageOn s && s.hostif.hdm && isOpen s hostifCode

/-- Whether a staging slab can be reached: not lost, its parcel's service net running (R137, R403). -/
def slabReach (s : State) (t : TileAt) : Bool := !s.stage.lost.contains t && netOn s (parcelOf t).val

/-- An access of the host to a line of the window, if the window is open (R135, R293): above the window, or in a lost slab, `gone` answers it. -/
def windowAccess (a : Nat) (gone : Out) (act : TileAt → Nat → State → State) (s : State) : State :=
  if !cxlOpen s then s
  else match stagePlace s a with
    | none => emit gone (aboveWindow a s)
    | some (t, b) => if slabReach s t then act t b s else emit gone s

/-- CXL_MEM_READ (R135, R137, R265, R293): the CXL controller reads the line over the service net; poison above the window, for a lost slab and for an
uncorrectable word. -/
def execCxlMemRead (off : Nat) (s : State) : Res :=
  let a := off / 64 * 64
  .next (windowAccess a (.cxlPoison a) (fun t b s => netRead (hubEp 0 4) (.cxlRead a) none t .slab b 64 0 s) s)

/-- CXL_MEM_WRITE (R135, R137, R265): the CXL controller writes the line over the service net and reports it complete after its WRITE_ACK; above
the window, or for a lost slab, the write is dropped. -/
def execCxlMemWrite (off : Nat) (d : Line) (s : State) : Res :=
  let a := off / 64 * 64
  .next (windowAccess a (.cxlDone a) (fun t b s => netWrite (hubEp 0 4) (.cxlWrite a) none t .slab b (leBytes 64 d.toNat) s) s)

end Sys2Proof.Machine
end

