-- ==== Sys2Proof/Machine/Areas.lean ====
section
/-! DEFINITION. The contents of the reserved cellar areas, and the checks of what the Vintner reads there and in a core's code (R64, R124, R126, R132, R134,
R421, R455). -/

namespace Sys2Proof.Machine

/-- Bytes in lines of 64, the last one filled up with zeros, numbered from `k`. -/
def lines64 : Nat → Nat → List Byte → List (Nat × List Byte)
  | 0, _, _ => []
  | n + 1, k, b => (k, (b ++ zeros 64).take 64) :: lines64 n (k + 1) (b.drop 64)

/-- What stands in an area beyond what was written when it was drawn, by line: the lees record from its first byte on, and the record of RSEQ r in line
r modulo 4,096 of the log mirror. The tables have no stated layout (log 129). -/
def areaLines (s : State) : Area → List (Nat × List Byte)
  | .lees => match s.lees with
    | some l => lines64 ((l.bytes.length + 63) / 64) 0 l.bytes
    | none => []
  | .log => s.log.recs.map fun e => (e.rseq % 4096, recBytes e)
  | .tables | .image _ => []

/-- One line of an area is written in one of its copies, if it stands there otherwise. -/
def keepLine (copy : List TileAt) (s : State) (e : Nat × List Byte) : State :=
  match copy[e.1 / 1024]? with
  | none => s
  | some t =>
    if readBytes (tileAt s t).slab (64 * (e.1 % 1024)) 64 = e.2 then s
    else storeLine t .slab (e.1 % 1024) (BitVec.ofNat 512 (ofLE e.2)) s

/-- The Vintner brings the readable copies of its areas up to date; the mirror of the log is written after the log (R132, R455). -/
def mirror (s : State) : State :=
  if !isOpen s mgmtCode then s
  else s.reserved.foldl (fun s r => (r.copies.filter (·.2)).foldl (fun s c => (areaLines s r.area).foldl (keepLine c.1) s) s) s

/-- Whether some copy of an area can be read. -/
def areaHeld (s : State) (a : Area) : Bool := s.reserved.any fun r => r.area == a && r.copies.any (·.2)

/-- The first `n` bytes of one copy of an area are read and checked; a copy with an uncorrectable word there is unreadable, and the next one is read. -/
def readCopies (n : Nat) : List (List TileAt × Bool) → State → State
  | [], s => s
  | c :: rest, s =>
    if !c.2 then readCopies n rest s
    else
      let part := c.1.take ((n + 65535) / 65536)
      let s := part.zipIdx.foldl (fun s e => eccRead .vintner e.1 .slab 0 (min 65536 (n - 65536 * e.2)) s) s
      match part.zipIdx.find? fun e => eccBad (tileAt s e.1) .slab 0 (min 65536 (n - 65536 * e.2)) with
      | some e => readCopies n rest (copiesGone (parcelOf e.1) (· == e.1) s)
      | none => s

/-- The Vintner reads an area (R126, R134). -/
def readArea (a : Area) (n : Nat) (s : State) : State :=
  match s.reserved.find? (·.area == a) with
  | some r => readCopies n r.copies s
  | none => s

/-- The error log after an uncorrectable word in Vintner SRAM: as its mirror has it, gone with the last copy of that (R134, R421, R455). -/
def restoreLog (s : State) : State :=
  let s := readArea .log 262144 s
  if areaHeld s .log then s else { s with log := { s.log with recs := [] } }

/-- The reads by which the Vintner fills a core's loop-buffer lines (R64), each word checked (R124, R126). -/
def checkCode (t : TileAt) (s : State) : State :=
  let x := tileAt s t
  if !x.placed then s
  else x.cfg.toList.foldl (fun s c => (List.range c.lbCount).foldl (fun s j =>
    if 4 * c.ibase + 64 * j + 64 ≤ 64 * c.lbound then eccRead .vintner t .sram (64 * c.lbase + 4 * c.ibase + 64 * j) 64 s else s) s) s

end Sys2Proof.Machine
end

