-- ==== Sys2Proof/Machine/HubSram.lean ====
section
/-! DEFINITION. Errors in hub SRAM, and residue mismatches of the seal summers and the press (R380, R421, R425). -/

namespace Sys2Proof.Machine

/-- The marks that work of kinds `us` at hub `h` meets. -/
def marksAt (s : State) (h : Nat) (us : List HubUse) : List HubMark := s.marks.filter fun m => m.hub.val == h && us.contains m.use

/-- An uncorrectable word of a hub unit's state, or of the Vintner's: its domain is reset, with a record that names it; the log is restored from its mirror
(R421, R455). -/
def unitLost (m : HubMark) (s : State) : State :=
  let c := if m.use = .vintner then mgmtCode else hubCode m.hub.val
  let s := if m.use = .vintner then restoreLog s else s
  let r := nextRseq s
  let s := logFor { hubRec s 0x0F 2 m.hub.val m.unit with info := m.word } [c] s
  if m.use = .vintner then mgmtClose 4 r s
  else if isOpen s c then updDom c (fun d => { d with reopen := true }) (fenceHub m.hub.val 4 r true s)
  else s

/-- One error met: a residue mismatch is SUSPECT and the policy acts on the hub unit (R109, R380, R425); a corrected word gives a record; an
uncorrectable one ends the work it belongs to, as `bad` says, or takes a domain with it (R421). `nm` names the operation in a residue mismatch's record (R109,
R415). -/
def meetMark (nm : ErrRec → ErrRec) (bad : State → State) (s : State) (m : HubMark) : State :=
  if m.use = .datapath then suspectHub m.hub (logSuspect (nm { hubRec s 0x06 3 m.hub.val 3 with info := m.word }) s)
  else if !m.unc then logRec { hubRec s 0x0F 0 m.hub.val m.unit with info := m.word } s
  else if m.use = .unit ∨ m.use = .vintner then unitLost m s
  else bad (logRec { hubRec s 0x0F 1 m.hub.val m.unit with info := m.word } s)

/-- Work of kinds `us` at hub `h` meets the errors there, each once. -/
def meetMarks (h : Nat) (us : List HubUse) (nm : ErrRec → ErrRec) (bad : State → State) (s : State) : State :=
  (marksAt s h us).foldl (meetMark nm bad) { s with marks := s.marks.filter fun m => !(marksAt s h us).contains m }

end Sys2Proof.Machine
end

