-- ==== Sys2Proof/Machine/Rings.lean ====
section
/-! DEFINITION. The rings: doorbells, fetching, the start of a descriptor, completion records, and the writes of the RING and
HOSTIF blocks (R290 to R314, R321, R452 to R454, R532 to R535). -/

namespace Sys2Proof.Machine

/-- A host write reaches the engine only while the host interface is OPEN (R541). -/
def onLink (f : State → State) (s : State) : Res := .next (if isOpen s hostifCode then f s else s)

def setSq (p : Fin 64) (q : Sq) (s : State) : State := { s with hostif := { s.hostif with sqs := s.hostif.sqs.set p q } }
def setCq (p : Fin 64) (q : Cq) (s : State) : State := { s with hostif := { s.hostif with cqs := s.hostif.cqs.set p q } }
def sqOf (s : State) (p : Fin 64) : Sq := s.hostif.sqs[p]
def cqOf (s : State) (p : Fin 64) : Cq := s.hostif.cqs[p]

/-! ## Completion records (R292, R297, R310, R314, R321) -/

/-- A completion record's 32 bytes (R310), with the attention word and the phase it is written with. -/
def recordBytes (attn : Nat) (phase : Bool) (ref : DescRef) (tag : DWord) (o : Outc) : List Byte :=
  leBytes 8 o.detail ++ leBytes 8 o.time ++ leBytes 4 ref.seq.toNat ++ leBytes 2 attn ++ leBytes 1 o.status ++
  leBytes 1 (ref.sq.val + if phase then 128 else 0) ++ leBytes 8 tag.toNat

/-- A CQ after one record is written: the write index moves on, and the phase is inverted at the wrap (R297). -/
def cqNext (c : Cq) : Cq :=
  let w := (c.widx + 1) % cqSize c
  { c with widx := w, phase := if w = 0 then !c.phase else c.phase }

/-- The 4,096 lines used last, of lines in the order of their use. -/
def newestLines (l : List CacheLine) : List CacheLine := l.drop (l.length - 4096)

/-- A line comes into the device cache; the line used longest ago leaves a full one (R291; which line leaves is the model's choice, log 134). -/
def cacheLine (x : CacheLine) (s : State) : State :=
  { s with hostif := { s.hostif with cache := newestLines (s.hostif.cache.filter (fun y => y.line != x.line) ++ [x]) } }

/-- What a snoop of a host-memory line finds in the device cache: the owned line's halves (R291). -/
def snooped (s : State) (line : Nat) : Option (Option (List Byte) × Option (List Byte)) :=
  (s.hostif.cache.find? fun y => y.line == line && y.own).map fun y => (y.lo, y.hi)

/-- Half of a line that the engine owns is written (R291, R292). -/
def cacheHalf (line : Nat) (upper : Bool) (b : List Byte) (s : State) : State :=
  let x := (s.hostif.cache.find? fun y => y.line == line).getD { line := line, own := true, lo := none, hi := none }
  cacheLine (if upper then { x with own := true, hi := some b } else { x with own := true, lo := some b }) s

/-- How a record's bytes reach the host (R292): in CXL mode as one update of the CQ line in the device cache, in PCIe mode by three memory writes, byte 23 with
PHASE last. -/
def layRecord (c : Cq) (b : List Byte) (s : State) : State :=
  if s.hostif.cxl then cacheHalf (c.base.toNat + c.widx / 2) (c.widx % 2 == 1) b s
  else
    let at_ (o : Nat) : DWord := BitVec.ofNat 64 (64 * c.base.toNat + 32 * c.widx + o)
    emit (.hostWrite (at_ 23) ((b.drop 23).take 1)) (emit (.hostWrite (at_ 0) (b.take 23)) (emit (.hostWrite (at_ 24) (b.drop 24)) s))

/-- Writes one record to a CQ, which makes it visible, and signals its vector for a nudge (R292, R314). -/
def putRecord (q : Fin 64) (nudge : Bool) (ref : DescRef) (tag : DWord) (o : Outc) (s : State) : State :=
  let c := cqOf s q
  let b := recordBytes (attnWord s) c.phase ref tag o
  let s := emit (.record q c.widx b) (layRecord c b (setCq q (cqNext c) s))
  if nudge && c.nudgeEn then signal c.vec s else s

/-- Whether a CQ can take a record now (R300, R461). -/
def cqTakes (s : State) (q : Fin 64) : Bool :=
  let c := cqOf s q
  isOpen s hostifCode && isOpen s mgmtCode && c.en && decide (cqUsed c + 1 < cqSize c)

/-- The read that follows the last host write of a descriptor, before its record (R292); one byte at that write's last address (log 134). -/
def flushRead (d : DescRef) (a : DWord) (s : State) : State :=
  if s.hostif.reads.any fun r => r.desc == d && r.why == .flush then s else askHost d .flush a 1 s

/-- Writes held records of a CQ in their order while it has free entries, each once the last host write for its descriptor has been read back (R292, R321, ORD-2). -/
def flushList (q : Fin 64) : List HeldRec → State → State
  | [], s => s
  | r :: t, s =>
    let keep (l : List HeldRec) (s : State) : State := { s with hostif := { s.hostif with held := s.hostif.held ++ l } }
    if r.cq = q ∧ cqTakes s q then (match r.last with
      | some a => flushRead r.ref a (keep (r :: t) s)
      | none => flushList q t (putRecord q r.nudge r.ref r.tag r.outc s))
    else flushList q t (keep [r] s)

/-- Writes what the held records of a CQ allow. -/
def flushHeld (q : Fin 64) (s : State) : State :=
  flushList q s.hostif.held { s with hostif := { s.hostif with held := [] } }

/-- The last host write for a held record's descriptor has been read back (R292). -/
def flushSeen (d : DescRef) (s : State) : State :=
  match s.hostif.held.find? fun r => r.ref == d with
  | none => s
  | some r => flushHeld r.cq { s with hostif := { s.hostif with held := s.hostif.held.map fun x => if x.ref = d then { x with last := none } else x } }

/-- Keeps a record across a host-interface reset: at most 65,536 (R321). -/
def holdRec (r : HeldRec) (s : State) : State :=
  if s.hostif.held.length < 65536 then { s with hostif := { s.hostif with held := s.hostif.held ++ [r] } } else s

/-- OK becomes DATA_UNCORRECTABLE on the first completion of a bound SQ after an uncorrectable word was logged (R126, R420). -/
def spoilOutc (p : Fin 64) (o : Outc) (s : State) : Outc × State :=
  if s.hostif.spoilt.contains p then
    (if o.status = stOk then { o with status := stUncorr, detail := 0 } else o,
     { s with hostif := { s.hostif with spoilt := s.hostif.spoilt.filter (· != p) } })
  else (o, s)

/-- The first completion that a program fault affects on an SQ, one that the fence of its program decided, carries ACCESS_FAULT (R79, R453). -/
def faultOutc (x : Desc) (o : Outc) (s : State) : Outc × State :=
  match s.hostif.owed.find? fun e => e.1 == x.ref.sq && slotOf x == some e.2.1 with
  | some e => if fencedBy e.2.1 e.2.2.2 o then
      ({ o with status := stAccess, detail := e.2.2.1 }, { s with hostif := { s.hostif with owed := s.hostif.owed.erase e } })
    else (o, s)
  | none => (o, s)

/-- Whether an SQ has not been enabled again since a descriptor's fetch. -/
def sameEra (s : State) (d : DescRef) : Bool := (sqOf s d.sq).era == d.era

/-- The outcome that FENCE_WAIT or an earlier RESET_ABORTED on the SQ imposes (R321, R454, ORD-7); `took` is DONE. -/
def waitOutc (x : Desc) (took : Bool) (o : Outc) (s : State) : Outc :=
  let q := sqOf s x.ref.sq
  if x.old ∧ s.hostif.aborted.contains (x.ref.sq, x.ref.era) ∧ o.status ≠ stAborted then
    { o with status := stAborted, detail := o.detail % 2 ^ 63 + (if took then 2 ^ 63 else 0) }
  else if q.wait ∧ sameEra s x.ref ∧ opcOf x ≠ 1 ∧ o.status ≠ stFenced ∧ o.status ≠ stAborted then
    { o with status := stFenced, detail := fencedDetail q.waitDom true took }
  else o

/-- The list key of the watch that a WATCH_SET arms (R443). -/
def watchKey (x : Desc) : Nat := if fld x 16 1 = 1 then fld x 17 1 else 256 + fld x 17 1

/-- A watch starts its window at the completion of its WATCH_SET (R443). -/
def watchFrom (x : Desc) (o : Outc) (s : State) : State :=
  if opcOf x = 0x43 ∧ o.status = stOk then
    { s with watches := s.watches.map fun e => if e.1 = watchKey x then (e.1, { e.2 with counted := 0 }) else e }
  else s

/-- What a record's writing leaves behind: FENCE_WAIT, the SQ's abort, the HOSTIF reset due and a watch's window (R295, R321, R442, R443, R454). -/
def afterRecord (x : Desc) (o : Outc) (s : State) : State :=
  let s := watchFrom x o s
  let q := sqOf s x.ref.sq
  let s := if o.status = stAborted then
      { s with hostif := { s.hostif with aborted := (x.ref.sq, x.ref.era) :: s.hostif.aborted.filter (· != (x.ref.sq, x.ref.era)) } }
    else s
  let s := if (o.status = stFenced ∨ o.status = stAborted) ∧ sameEra s x.ref ∧ ¬ q.wait then
      setSq x.ref.sq { q with wait := true, waitDom := if o.status = stFenced then o.detail % 2 ^ 16 else hostifCode } s
    else s
  if opcOf x = 0x42 ∧ ctlAction x = 1 ∧ fld x 16 2 = hostifCode ∧ o.status = stOk then
    { s with hostif := { s.hostif with resetAt := some s.time } }
  else s

/-- The outcome a decided descriptor's record carries. -/
def finalOutc (x : Desc) (o : Outc) (s : State) : Outc × State :=
  let took := x.took || o.status == stOk
  let a := spoilOutc x.ref.sq o s
  let b := faultOutc x a.1 a.2
  (waitOutc x took b.1 b.2, b.2)

/-- The TAG and NUDGE of a descriptor (R303). -/
def tagOf (x : Desc) : DWord := BitVec.ofNat 64 (fld x 8 8)
def nudgeOf (x : Desc) : Bool := fld x 1 1 % 2 == 1

/-- The record of a decided descriptor is written, or kept for the SQ's CQ to come back (R301, R321). -/
def writeRecord (x : Desc) (o : Outc) (s : State) : State :=
  let f := finalOutc x o s
  let s := f.2
  let s := { s with hostif := { s.hostif with descs := s.hostif.descs.filter fun y => y.ref != x.ref } }
  if x.old then
    flushHeld x.cq (holdRec { ref := x.ref, cq := x.cq, tag := tagOf x, nudge := nudgeOf x, outc := f.1, last := x.last } (afterRecord x f.1 s))
  else
    let c := cqOf s x.cq
    afterRecord x f.1 (putRecord x.cq (nudgeOf x) x.ref (tagOf x) f.1 (setCq x.cq { c with resv := c.resv - 1 } s))

/-- Whether a notice's descriptor still waits for those it ended (R382): each completes before it, but for one that stands behind a notice, which could not. -/
def endsFirst (s : State) (x : Desc) : Bool :=
  x.after.any fun d => match s.hostif.descs.find? fun y => y.ref.sq == d.sq with
    | some y => y.after.isEmpty && y.ref != x.ref && s.hostif.descs.any fun z => z.ref == d
    | none => false

/-- The oldest descriptor of an SQ from before a host-interface reset, if it has ended: its record is due to be held. -/
def heldDue (s : State) (x : Desc) : Bool :=
  x.old && x.outc.isSome && !endsFirst s x && (s.hostif.descs.find? fun y => y.ref.sq == x.ref.sq) == some x

/-- Descriptors from before a host-interface reset that have ended become held records, in submission order for each SQ (R321, R461). -/
def holdEndedN : Nat → State → State
  | 0, s => s
  | n + 1, s => match s.hostif.descs.find? (heldDue s) with
    | none => s
    | some x => match x.outc with
      | none => s
      | some o => holdEndedN n (writeRecord x o s)
def holdEnded (s : State) : State := if isOpen s mgmtCode then holdEndedN s.hostif.descs.length s else s

/-- Whether the record of a descriptor may be written now: no new record on a CQ before its held ones (R321, R461). -/
def mayWrite (s : State) (x : Desc) : Bool :=
  if endsFirst s x then false
  else if x.old then isOpen s mgmtCode else cqTakes s x.cq && !s.hostif.held.any (fun r => r.cq == x.cq)

/-- COMPLETION_WRITE (R292, R301): the record of the oldest descriptor of an SQ, once it is decided and the host has its data. -/
def execCompletionWrite (p : Fin 64) (s0 : State) : Res :=
  let s := holdEnded s0
  match s.hostif.descs.find? fun x => x.ref.sq == p with
  | none => .next s
  | some x => match x.outc with
    | none => .next s
    | some o => .next (if !mayWrite s x then s
      else match (if x.old then none else x.last) with
        | some a => flushRead x.ref a s
        | none => writeRecord x o s)

/-! ## Doorbells (R299) -/

/-- SQ_DOORBELL (R299). -/
def sqDoor (p : Fin 64) (v : Nat) (s : State) : State :=
  let q := sqOf s p
  let n := sqSize q
  if !q.en || n ≤ v then setSq p { q with dbErr := true } s
  else if v = q.tail then s
  else if (v + n - q.head) % n < sqReady q then setSq p { q with dbErr := true } s
  else setSq p { q with tail := v, dbErr := false } s

def execSqDoorbell (p : Fin 64) (v : Word) (s : State) : Res := onLink (sqDoor p (v.toNat % 65536)) s

/-- CQ_DOORBELL (R299, R321): freed entries let held records out. -/
def cqDoor (p : Fin 64) (v : Nat) (s : State) : State :=
  let q := cqOf s p
  let n := cqSize q
  if !q.en || n ≤ v then setCq p { q with dbErr := true } s
  else if v = q.head then s
  else if cqUsed q < (v + n - q.head) % n then setCq p { q with dbErr := true } s
  else flushHeld p (setCq p { q with head := v, dbErr := false } s)

def execCqDoorbell (q : Fin 64) (v : Word) (s : State) : Res := onLink (cqDoor q (v.toNat % 65536)) s

/-! ## Fetching (R300 to R304, R422, R472) -/

/-- Descriptors of an SQ fetched and not completed. -/
def outstanding (s : State) (p : Fin 64) : Nat := (s.hostif.descs.filter fun x => x.ref.sq == p && !x.old).length

/-- Whether the ring engine may fetch from an SQ (R300, R472). -/
def eligible (s : State) (p : Fin 64) : Bool :=
  let q := sqOf s p
  isOpen s hostifCode && decide (4 ≤ s.boot.stage) && q.en && decide (0 < sqReady q) && decide (0 < cqFree (cqOf s q.cq)) &&
  decide (outstanding s p < 64)

/-- An SQ's share of the round robin (R534: 0 acts as 1, 9 to 15 as 8). -/
def share (q : Sq) : Nat := max 1 (min 8 q.weight)

/-- The round robin gives every eligible SQ its weight anew once none of them has any left (R300). -/
def refill (s : State) : State :=
  if (List.finRange 64).any (fun p => eligible s p && decide (0 < (sqOf s p).credit)) then s
  else { s with hostif := { s.hostif with sqs := s.hostif.sqs.map fun q => { q with credit := share q } } }

/-- The opcodes of R304. -/
def opcListed (o : Nat) : Bool :=
  o == 0 || o == 1 || (decide (0x10 ≤ o) && decide (o ≤ 0x14)) || (decide (0x18 ≤ o) && decide (o ≤ 0x1B)) || o == 0x20 ||
  (decide (0x30 ≤ o) && decide (o ≤ 0x35)) || (decide (0x40 ≤ o) && decide (o ≤ 0x45)) || (decide (0x50 ≤ o) && decide (o ≤ 0x54))

/-- The opcodes accepted before READY (R304). -/
def opcEarly (o : Nat) : Bool :=
  o == 0 || o == 1 || o == 0x40 || o == 0x41 || o == 0x45 || (decide (0x50 ≤ o) && decide (o ≤ 0x54))

/-- A descriptor as it is fetched. -/
def newDesc (ref : DescRef) (cq : Fin 64) (b : List Byte) : Desc :=
  { ref := ref, cq := cq, bytes := b, started := false, moved := 0, sent := 0, wrote := 0, stale := false, took := false, dropped := false, last := none, old := false, due := none,
    fault := none, outc := none }

/-- The record of a host-link error (R422); a descriptor's own transaction names the descriptor, and its program where it has one (R413, R415). -/
def hostErr (poison : Bool) (x : Option Desc) (s : State) : State :=
  let e : ErrRec := { linkRec s 0x20 1 with info := if poison then 1 else 0 }
  logRec (match x with
    | none => e
    | some x =>
      let e : ErrRec := { e with okind := 2, opword := opcOf x + 256 * x.ref.sq.val, opaux := x.ref.seq.toNat }
      match slotOf x with
      | some k => if (prog? s k).isSome then withProg s k e else e
      | none => e) s

/-- Takes a fetched descriptor in at the end of fetch order, with a CQ entry reserved (R300, R302). -/
def takeDesc (p : Fin 64) (b : List Byte) (s : State) : State :=
  let s := refill s
  let q := sqOf s p
  let c := cqOf s q.cq
  let x := newDesc { sq := p, seq := q.seq, era := q.era } q.cq b
  let s := setCq q.cq { c with resv := c.resv + 1 } s
  let s := setSq p { q with head := (q.head + 1) % sqSize q, seq := q.seq + 1, credit := q.credit - 1, moved := s.time } s
  let s := { s with hostif := { s.hostif with descs := s.hostif.descs ++ [x] } }
  match slotOf x with
  | some k => updProg k (fun g => if g.sqs.contains p then g else { g with sqs := g.sqs ++ [p] }) s
  | none => s

/-- The outcome that the fetch itself decides: an unlisted opcode, or one that must wait for READY (R304). -/
def fetchCheck (d : DescRef) (s : State) : State :=
  match descOf s d with
  | none => s
  | some x =>
    if !opcListed (opcOf x) then decideDesc d stBad 0 s
    else if !s.boot.ready && !opcEarly (opcOf x) then decideDesc d stNotReady 1 s
    else s

/-- A fetch writes a payload into HUB-W's SRAM and moves its ring pointers: it meets the errors there (R421). -/
def meetFetch (d : DescRef) (s : State) : State := meetMarks 0 [.payload, .unit, .vintner] id (decideDesc d stUncorr 0) s

/-- In CXL mode the SQ line of a fetch comes by a shared read into the device cache (R291). -/
def cacheSq (q : Sq) (b : List Byte) (s : State) : State :=
  if s.hostif.cxl then cacheLine { line := q.base.toNat + q.head, own := false, lo := some (b.take 32), hi := some (b.drop 32) } s else s

/-- DESCRIPTOR_FETCH (R291, R300, R304, R421, R422). The bytes of a fetch that ended in an error are not known: NUDGE and TAG are free values. -/
def execDescriptorFetch (p : Fin 64) (rd : HostRead) (s : State) : Res :=
  let q := sqOf s p
  if !eligible s p || (q.credit == 0 && (List.finRange 64).any fun i => eligible s i && decide (0 < (sqOf s i).credit)) then .next s
  else
    let d : DescRef := { sq := p, seq := q.seq, era := q.era }
    match rd with
    | .data b => .next (fetchCheck d (meetFetch d (takeDesc p (padTo 64 b) (cacheSq q (padTo 64 b) s))))
    | .poison b => .next (decideDesc d stUncorr 1 (takeDesc p (padTo 64 b) (cacheSq q (padTo 64 b) (hostErr true none s))))
    | .errorCompletion =>
      let f := freeDWord s
      let g := freeDWord f.2
      let b := leBytes 1 0 ++ leBytes 1 (f.1 % 2) ++ zeros 6 ++ leBytes 8 g.1 ++ zeros 48
      .next (decideDesc d stAccess (2 * 256) (takeDesc p b (hostErr false none g.2)))

/-! ## The start of a descriptor (R301, R453, R454) -/

/-- The earlier descriptors of a descriptor's SQ that have no record yet, those of a former enabling among them. -/
def earlier (s : State) (d : DescRef) : List Desc := (s.hostif.descs.takeWhile fun x => x.ref != d).filter fun x => x.ref.sq == d.sq

/-- The program slot that a descriptor names, a program watch among them (R301, R443). -/
def namesSlot (x : Desc) : Option (Fin 8) := if opcOf x = 0x43 ∧ fld x 16 1 = 1 ∧ fld x 17 1 < 8 then some (fin8 (fld x 17 1)) else slotOf x

/-- Whether a descriptor may start (R301, R454): after the earlier ones of its slot, with BARRIER after all earlier ones, FENCE_ACK once their
records are written. -/
def mayStart (s : State) (x : Desc) : Bool :=
  let es := earlier s x.ref
  if opcOf x = 1 then es.isEmpty
  else (fld x 1 1 / 2 % 2 == 0 || es.all (·.outc.isSome)) &&
    (match namesSlot x with
     | some k => es.all fun y => namesSlot y != some k || y.outc.isSome
     | none => true)

/-- Whether a descriptor stands before its start as the opcode `o`. -/
def canStart (s : State) (o : Nat) (x : Desc) : Bool :=
  opcOf x == o && !x.started && x.outc.isNone && mayStart s x

/-- Starts a descriptor of opcode `o`: FENCED while its SQ waits for FENCE_ACK, else its own work (R301, R454). -/
def runDesc (o : Nat) (d : DescRef) (act : Desc → State → State) (s : State) : Res :=
  match descOf s d with
  | none => .next s
  | some x =>
    if !canStart s o x then .next s
    else
      let q := sqOf s d.sq
      if q.wait && sameEra s d && o != 1 then
        (if (earlier s d).any fun y => opcOf y == 1 then .next s
         else .next (decideDesc d stFenced (fencedDetail q.waitDom true false) s))
      else .next (act x (updDesc d (fun y => { y with started := true }) s))

/-- NOP (R304). -/
def execNopDescriptor (d : DescRef) (s : State) : Res := runDesc 0 d (fun x s => decideDesc x.ref stOk 0 s) s

/-- FENCE_ACK (R454): clears FENCE_WAIT. -/
def ackFence (x : Desc) (s : State) : State :=
  let s := if sameEra s x.ref then setSq x.ref.sq { sqOf s x.ref.sq with wait := false, waitDom := 0 } s else s
  decideDesc x.ref stOk 0 s

def execFenceAck (d : DescRef) (s : State) : Res := runDesc 1 d ackFence s

/-! ## Ring setup (R296 to R298, R321, R534, R535) -/

/-- Bits `lo` to `lo + n − 1` of a number. -/
def bitsOf (v lo n : Nat) : Nat := v / 2 ^ lo % 2 ^ n

/-- An SQ's enabling (R297, R321, R443). -/
def sqStart (p : Fin 64) (q : Sq) (s : State) : State :=
  let s := setSq p { q with en := true, head := 0, tail := 0, seq := 0, era := q.era + 1, wait := false, waitDom := 0,
                            credit := share q, moved := s.time } s
  { s with watches := s.watches.filter fun w => w.1 != 256 + p.val }

/-- A write of SQp_CFG (R296, R535). -/
def sqCfg (p : Fin 64) (v : Nat) (s : State) : State :=
  let q := sqOf s p
  let lg := bitsOf v 0 5
  let en := bitsOf v 31 1 == 1
  if lg < 6 ∨ 16 < lg then s
  else if q.en then (if en then s else setSq p { q with en := false } s)
  else
    let q := { q with log2 := lg, cq := fin64 (bitsOf v 8 6), weight := bitsOf v 16 4 }
    if en && (cqOf s q.cq).en then sqStart p q s else setSq p q s

/-- A CQ's enabling (R297, R321). -/
def cqStart (p : Fin 64) (q : Cq) (s : State) : State :=
  flushHeld p (setCq p { q with en := true, head := 0, widx := 0, phase := true } s)

/-- A write of CQq_CFG (R296, R535). -/
def cqCfg (p : Fin 64) (v : Nat) (s : State) : State :=
  let q := cqOf s p
  let lg := bitsOf v 0 5
  let en := bitsOf v 31 1 == 1
  if lg < 6 ∨ 16 < lg then s
  else if q.en then
    (if en then (if lg = q.log2 then setCq p { q with vec := bitsOf v 8 6, nudgeEn := bitsOf v 14 1 == 1 } s else s)
     else if s.hostif.sqs.toList.any (fun x => x.en && x.cq == p) then s
     else setCq p { q with en := false } s)
  else
    let q := { q with log2 := lg, vec := bitsOf v 8 6, nudgeEn := bitsOf v 14 1 == 1 }
    if en then cqStart p q s else setCq p q s

/-- A CFG value with EN set or clear. -/
def withEn (v : Word) (en : Bool) : Nat := v.toNat % 2 ^ 31 + (if en then 2 ^ 31 else 0)

/-- SQ_ENABLE, SQ_DISABLE, CQ_ENABLE, CQ_DISABLE: the CFG write with EN 1 or 0. -/
def execSqEnable (p : Fin 64) (v : Word) (s : State) : Res := onLink (sqCfg p (withEn v true)) s
def execSqDisable (p : Fin 64) (v : Word) (s : State) : Res := onLink (sqCfg p (withEn v false)) s
def execCqEnable (q : Fin 64) (v : Word) (s : State) : Res := onLink (cqCfg q (withEn v true)) s
def execCqDisable (q : Fin 64) (v : Word) (s : State) : Res := onLink (cqCfg q (withEn v false)) s

/-! ## HOSTIF registers (R276, R313, R314, R532) -/

/-- ATTN (R313): a 1 clears its event bit; SEQ stays. -/
def attnClear (v : Nat) (s : State) : State :=
  { s with hostif := { s.hostif with events := s.hostif.events &&& ~~~ (BitVec.ofNat 8 v) } }
def execAttn (v : Word) (s : State) : Res := onLink (attnClear v.toNat) s

/-- HELD_DISCARD (R532). -/
def heldDrop (v : Nat) (s : State) : State :=
  if v % 2 = 1 then { holdEnded s with hostif := { (holdEnded s).hostif with held := [] } } else s
def execHeldDiscard (v : Word) (s : State) : Res := onLink (heldDrop v.toNat) s

/-- SNET_THROTTLE (R276). -/
def throttleSet (v : Nat) (s : State) : State :=
  { s with snet := { s.snet with thresh := bitsOf v 0 7, window := bitsOf v 8 2, floor := bitsOf v 16 3, en := bitsOf v 31 1 == 1 } }
def execSnetThrottle (v : Word) (s : State) : Res := onLink (throttleSet v.toNat) s

/-- Sends the pending signals whose vectors are not masked any more (R314). -/
def sendPending (s : State) : State :=
  (List.finRange 64).foldl (fun s v =>
    if s.hostif.pba.getLsbD v.val && !s.hostif.fmask && !(s.hostif.msix[v]).mask then
      emit (.msix v.val) { s with hostif := { s.hostif with pba := s.hostif.pba &&& ~~~ (1#64 <<< v.val) } }
    else s) s

/-- Clears an MSI-X mask (R314). Clearing the Function Mask comes with MSI-X Enable set, since both lie in one register. -/
def unmask (u : Unmask) (s : State) : State :=
  let h := s.hostif
  match u with
  | .function => sendPending { s with hostif := { h with fmask := false, msixEn := true } }
  | .vector v => sendPending { s with hostif := { h with msix := h.msix.set v { h.msix[v] with mask := false } } }
def execMsixUnmask (u : Unmask) (s : State) : Res := onLink (unmask u) s

end Sys2Proof.Machine
end

