-- ==== Sys2Proof/Machine/HostReset.lean ====
section
/-! DEFINITION. Events of the host link: its resets, its training, the HDM decoder, and the end of a headland's buffer move
(R288, R293, R316, R320 to R322, R442). -/

namespace Sys2Proof.Machine

/-- PERST_ASSERT (R320, R516). -/
def execPerstAssert (s : State) : Res := .next (hostifClose 1 { s with hostif := { s.hostif with perst := true } })

/-- PERST_DEASSERT (R320): the link may train again. -/
def execPerstDeassert (s : State) : Res := .next { s with hostif := { s.hostif with perst := false } }

/-- LINK_LOSS, FUNCTION_LEVEL_RESET, HOT_RESET (R320). -/
def execLinkLoss (s : State) : Res := .next (hostifClose 0 s)
def execFunctionLevelReset (s : State) : Res := .next (if isOpen s hostifCode then hostifClose 1 s else s)
def execHotReset (s : State) : Res := .next (hostifClose 1 s)

/-- HOSTIF_RESET (R442): 10 µs after the record of DOMAIN_CTL's RESET of HOSTIF was written. -/
def execHostifReset (s : State) : Res :=
  match s.hostif.resetAt with
  | some t => .next (if t + us 10 ≤ s.time then hostifClose 1 s else s)
  | none => .next s

/-- LINK_TRAINED (R288, R320): CXL only at x16 and 32 GT/s; a closed host interface opens. After FATAL the link stays down (R424). -/
def execLinkTrained (cxl : Bool) (width speed : BitVec 2) (s : State) : Res :=
  if s.hostif.perst || !s.module.running || s.module.fatal.isSome || s.hostif.link || width == 3 || speed == 3 then .next s
  else
    let s := attn attnLink { s with hostif := { s.hostif with
      link := true, cxl := cxl && width == 2 && speed == 2, width := width.toNat, speed := speed.toNat } }
    let st := (dom s hostifCode).st
    .next (if st = .off ∨ st = .closed then hostifOpen s else s)

/-- HDM_COMMIT (R293): the staging window is open to CXL.mem. -/
def execHdmCommit (s : State) : Res :=
  onLink (fun s => { s with hostif := { s.hostif with hdm := s.hostif.hdm || s.hostif.cxl } }) s

/-- BUFFER_MOVE_END (R316): the hub takes input on its slots again. -/
def execBufferMoveEnd (h : Hub) (s : State) : Res :=
  let i := hubNum h
  if s.moving.getLsbD i then
    .next (eachSlot fillSlot (fun n => n / 128 == i) { s with moving := s.moving &&& ~~~ (1#4 <<< i) })
  else .next s

end Sys2Proof.Machine
end

