-- ==== Sys2Proof/Machine/Branch.lean ====
section
/-! DEFINITION. Branches and hardware loops (R52 to R54, R66). -/

namespace Sys2Proof.Machine

/-- BRANCH_OUTSIDE_SEGMENT for a branch that depends on data, outside a segment (R53). -/
def branchFault (s : State) (k : TaskAt) (dep : Bool) : List Nat := faultIf (dep && (taskAt s k).seg.isNone) fBranch

/-- A branch is taken: the pc, and a second own beat (R66). It ends no pass of a loop whose last instruction it is (log 74). -/
def takeBranch (k : TaskAt) (pc : BitVec 13) (l : List LoopEnt) (s : State) : State :=
  updTask k (fun t => { t with pc := pc, loops := l, skip := 1 }) s

/-- BR: pc ← pc + off (R52). -/
def execBr (k : TaskAt) (g : Guard) (off : BitVec 18) (s : State) : Res :=
  .next (ownBeat (.br k g off) k g (fun s => { faults := branchFault s k (!guardAlways g) })
    (takeBranch k ((taskAt s k).pc + offPc off) (taskAt s k).loops) s)

/-- BAL: gd ← pc + 1; pc ← pc + off (R52). -/
def execBal (k : TaskAt) (g : Guard) (gd : BitVec 4) (off : BitVec 18) (s : State) : Res :=
  .next (ownBeat (.bal k g gd off) k g (fun s => { gd := [(gd, 1)], faults := branchFault s k (!guardAlways g) })
    (fun s' => takeBranch k ((taskAt s k).pc + offPc off) (taskAt s k).loops (updTask k (wrG gd (((taskAt s k).pc + 1).setWidth 32)) s')) s)

/-- BRR: pc ← ga[12:0] (R52). -/
def execBrr (k : TaskAt) (g : Guard) (ga : BitVec 4) (s : State) : Res :=
  .next (ownBeat (.brr k g ga) k g (fun s => { gs := [ga], faults := branchFault s k true })
    (takeBranch k ((rdG (taskAt s k) ga).setWidth 13) (taskAt s k).loops) s)

/-- Whether the held instructions of a loop body contain a SEG or SEGE without its partner (R54): `open_` says whether one is open so far. They
pair in the order of the text (logs 76, 140). -/
def bodyBad (x : Tile) (c : TaskCfg) (k : TaskAt) : Nat → Nat → Bool → Bool
  | 0, _, open_ => open_
  | n + 1, pc, open_ =>
    match (fetchWord x c (pc % 8192)).bind (decodeCore k) with
    | some (.seg _ _ _) => if open_ then true else bodyBad x c k n (pc + 1) true
    | some (.sege _ _) => if open_ then bodyBad x c k n (pc + 1) false else true
    | _ => bodyBad x c k n (pc + 1) open_

/-- Faults of a loop instruction with body length `len + 1` that runs `n` times (R54): a LOOPR of count 0 nests no loop (log 74). -/
def loopFaults (s : State) (k : TaskAt) (len : BitVec 8) (n : Nat) : List Nat :=
  let t := taskAt s k
  faultIf (bodyBad (tileAt s k.tile) (cfgAt s k) k (len.toNat + 1) (t.pc.toNat + 1) false) fSegment ++
  faultIf (decide (0 < n ∧ 2 ≤ t.loops.length)) fLoop

/-- Pushes a loop over the `len + 1` instructions after `pc`, with `left` passes after the first (R54). Where the loop instruction is itself the last of an
enclosing body, that body's pass does not end with it (log 139). -/
def pushLoop (k : TaskAt) (pc : BitVec 13) (len : BitVec 8) (left : Nat) (s : State) : State :=
  updTask k (fun t => { t with loops := { first := pc + 1, last := pc + 1 + len.setWidth 13, left := left } :: t.loops,
                               pc := pc + 1 }) s

/-- LOOP: the next len + 1 instructions run cnt + 1 times (R52, R54). It ends no pass of an enclosing body (log 139). -/
def execLoop (k : TaskAt) (g : Guard) (cnt : BitVec 12) (len : BitVec 8) (s : State) : Res :=
  .next (ownBeat (.loop k g cnt len) k g (fun s => { always := true, faults := loopFaults s k len (cnt.toNat + 1) })
    (fun s' => pushLoop k (taskAt s k).pc len cnt.toNat (updTask k (fun t => { t with loops := (taskAt s k).loops }) s')) s)

/-- LOOPR: the next len + 1 instructions run gc times; 0 skips the body, as a taken branch (R52, R54, R66). Where the skipped body ends with an enclosing
loop's body, R54 does not say what becomes of the outer pass: here it ends, and the next one begins at the outer top (DESIGN CHOICE, log 155). -/
def execLoopr (k : TaskAt) (g : Guard) (gc : BitVec 4) (len : BitVec 8) (s : State) : Res :=
  let t := taskAt s k
  let n := (rdG t gc).toNat
  .next (ownBeat (.loopr k g gc len) k g
    (fun s => { always := true, gs := [gc], faults := branchFault s k true ++ loopFaults s k len n })
    (fun s' =>
      let s' := updTask k (fun t' => { t' with loops := t.loops }) s'
      if n = 0 then updTask k (fun t' => { advFrom (t.pc + 1 + len.setWidth 13) t' with skip := 1 }) s'
      else pushLoop k t.pc len (n - 1) s') s)

end Sys2Proof.Machine
end

