-- ==== Sys2Proof/Machine/NarrowMem.lean ====
section
/-! DEFINITION. Narrow loads and stores of local SRAM (R45, R47, R55, R66). -/

namespace Sys2Proof.Machine

/-- The relative address gb + off, off unsigned; the sum does not wrap (R45, R55). -/
def narrowAddr (s : State) (k : TaskAt) (gb : BitVec 4) (off : BitVec 14) : Nat := (rdG (taskAt s k) gb).toNat + off.toNat

/-- ALIGN_FAULT and LBOUND_FAULT of a local access of `n` bytes aligned to `al` (R45, R47). -/
def localFaults (s : State) (k : TaskAt) (a n al : Nat) : List Nat :=
  faultIf (decide (a % al ≠ 0)) fAlign ++ faultIf (!inLocal (cfgAt s k) a n) fLbound

/-- A narrow load: the wide port at issue + 1, gv usable at issue + 3 (R55, R66). -/
def narrowLoad (i : Instr) (kind : LoadKind) (k : TaskAt) (g : Guard) (gv gb : BitVec 4) (off : BitVec 14) (s : State) : Res :=
  let n := loadBytes kind
  .next (ownBeat i k g
    (fun s => { gs := [gb], gd := [(gv, 3)], wide := [s.beats.wrb + 1], faults := localFaults s k (narrowAddr s k gb off) n n })
    (schedule k.tile (s.beats.wrb + 1) false (byInstr k i) (.load k.task (i4 gv) (physL (cfgAt s k) (narrowAddr s k gb off)) kind)) s)

/-- A narrow store: the wide port at issue + 1 (R55, R66). -/
def narrowStore (i : Instr) (n : Nat) (k : TaskAt) (g : Guard) (gv gb : BitVec 4) (off : BitVec 14) (s : State) : Res :=
  .next (ownBeat i k g
    (fun s => { gs := [gb, gv], wide := [s.beats.wrb + 1], faults := localFaults s k (narrowAddr s k gb off) n n })
    (schedule k.tile (s.beats.wrb + 1) false (byInstr k i) (.store (physL (cfgAt s k) (narrowAddr s k gb off)) n (rdG (taskAt s k) gv))) s)

/-- LDW: 32 bits (R55). -/
def execLdw (k : TaskAt) (g : Guard) (gv gb : BitVec 4) (off : BitVec 14) (s : State) : Res :=
  narrowLoad (.ldw k g gv gb off) .w k g gv gb off s
/-- LDH: 16 bits, sign-extended (R55). -/
def execLdh (k : TaskAt) (g : Guard) (gv gb : BitVec 4) (off : BitVec 14) (s : State) : Res :=
  narrowLoad (.ldh k g gv gb off) .h k g gv gb off s
/-- LDHU: 16 bits, zero-extended (R55). -/
def execLdhu (k : TaskAt) (g : Guard) (gv gb : BitVec 4) (off : BitVec 14) (s : State) : Res :=
  narrowLoad (.ldhu k g gv gb off) .hu k g gv gb off s
/-- LDB: 8 bits, sign-extended (R55). -/
def execLdb (k : TaskAt) (g : Guard) (gv gb : BitVec 4) (off : BitVec 14) (s : State) : Res :=
  narrowLoad (.ldb k g gv gb off) .b k g gv gb off s
/-- LDBU: 8 bits, zero-extended (R55). -/
def execLdbu (k : TaskAt) (g : Guard) (gv gb : BitVec 4) (off : BitVec 14) (s : State) : Res :=
  narrowLoad (.ldbu k g gv gb off) .bu k g gv gb off s
/-- STW: 32 bits (R55). -/
def execStw (k : TaskAt) (g : Guard) (gv gb : BitVec 4) (off : BitVec 14) (s : State) : Res :=
  narrowStore (.stw k g gv gb off) 4 k g gv gb off s
/-- STH: 16 bits (R55). -/
def execSth (k : TaskAt) (g : Guard) (gv gb : BitVec 4) (off : BitVec 14) (s : State) : Res :=
  narrowStore (.sth k g gv gb off) 2 k g gv gb off s
/-- STB: 8 bits (R55). -/
def execStb (k : TaskAt) (g : Guard) (gv gb : BitVec 4) (off : BitVec 14) (s : State) : Res :=
  narrowStore (.stb k g gv gb off) 1 k g gv gb off s

end Sys2Proof.Machine
end

