-- ==== Sys2Proof/Machine/VectorUnit.lean ====
section
/-! DEFINITION. The vector unit (R58, R59, R66, R97 to R105). -/

namespace Sys2Proof.Machine

/-- The lane format of shape W (R58). -/
def laneFmt (w : BitVec 1) : Fmt := if w = 0 then fp32 else bf16
/-- Lanes of shape W. -/
def laneCount (w : BitVec 1) : Nat := if w = 0 then 16 else 32

/-- Writes a vector result, with the core's generator moved past the draws taken (R99, R101). -/
def putVec (k : TaskAt) (vd : BitVec 3) (v : Line) (rng : Word) (s : State) : State :=
  updTask k (wrV vd v) (updTile k.tile (fun x => { x with rng := rng }) s)

/-- A vector instruction: sources, latency, and what it writes given the generator's state. -/
def vecOp (i : Instr) (k : TaskAt) (g : Guard) (vd : BitVec 3) (vs : List (BitVec 3)) (ill : Bool) (lat : Nat)
    (f : Task → Word → Line × Word) (s : State) : Res :=
  let r := f (taskAt s k) (tileAt s k.tile).rng
  .next (ownBeat i k g (fun _ => { ill := ill, vs := vs, vd := [(vd, lat)] }) (putVec k vd r.1 r.2) s)

/-- A lanewise operation on three lanes with a draw for each lane result (R101, R104). -/
def lanewise (w : BitVec 1) (rnd : BitVec 2) (f : Nat → Nat → Nat → Nat → Nat) (a b c : Line) (rng : Word) : Line × Word :=
  let d := drawsFor rnd.toNat (laneCount w) rng
  (packLanes w (((lanes w a).zip ((lanes w b).zip ((lanes w c).zip d.1))).map fun p => f p.2.2.2 p.1 p.2.1 p.2.2.1), d.2)

/-- A rounding operation on va and vb: usable at issue + 4 (R66, R104). -/
def arith2 (i : Instr) (k : TaskAt) (g : Guard) (r : VR) (f : Val → Val → Val) (s : State) : Res :=
  let t := laneFmt r.w
  vecOp i k g r.vd [r.va, r.vb] false 4
    (fun x => lanewise r.w r.rnd (fun d a b _ => roundTo t r.rnd.toNat d (f (decodeVal t a) (decodeVal t b)))
      (rdV x r.va) (rdV x r.vb) 0) s

/-- An operation on va and vb that does not round: no draw (R101). -/
def pick2 (i : Instr) (k : TaskAt) (g : Guard) (r : VR) (vs : List (BitVec 3)) (f : Nat → Nat → Nat → Nat) (s : State) : Res :=
  vecOp i k g r.vd vs false 4
    (fun x rng => ((lanewise r.w 0 (fun _ a b c => f a b c) (rdV x r.va) (rdV x r.vb) (rdV x r.vc) rng).1, rng)) s

/-- All ones or zeros in a lane (R58). -/
def mask (w : BitVec 1) (c : Bool) : Nat := if c then 2 ^ (laneFmt w).width - 1 else 0

/-- VADD: lanewise sum, rounded once (R104). -/
def execVadd (k : TaskAt) (g : Guard) (r : VR) (s : State) : Res := arith2 (.vadd k g r) k g r (addVal r.rnd.toNat) s
/-- VSUB: lanewise difference, rounded once (R104). -/
def execVsub (k : TaskAt) (g : Guard) (r : VR) (s : State) : Res :=
  arith2 (.vsub k g r) k g r (fun a b => addVal r.rnd.toNat a (negVal b)) s
/-- VMUL: lanewise product, rounded once (R104). -/
def execVmul (k : TaskAt) (g : Guard) (r : VR) (s : State) : Res := arith2 (.vmul k g r) k g r mulVal s
/-- VFMA: va × vb + vc with one rounding (R58, R104). -/
def execVfma (k : TaskAt) (g : Guard) (r : VR) (s : State) : Res :=
  let t := laneFmt r.w
  let n := r.rnd.toNat
  vecOp (.vfma k g r) k g r.vd [r.va, r.vb, r.vc] false 4
    (fun x => lanewise r.w r.rnd
      (fun d a b c => roundTo t n d (addVal n (mulVal (decodeVal t a) (decodeVal t b)) (decodeVal t c)))
      (rdV x r.va) (rdV x r.vb) (rdV x r.vc)) s
/-- The lesser or greater of two lanes; canonical NaN if either is NaN (R104). -/
def minMax (t : Fmt) (least : Bool) (a b : Nat) : Nat :=
  match decodeVal t a, decodeVal t b with
  | .nan, _ => canonNaN t
  | _, .nan => canonNaN t
  | x, y => if leVal x y = least then a else b
/-- VMIN (R104). -/
def execVmin (k : TaskAt) (g : Guard) (r : VR) (s : State) : Res :=
  pick2 (.vmin k g r) k g r [r.va, r.vb] (fun a b _ => minMax (laneFmt r.w) true a b) s
/-- VMAX (R104). -/
def execVmax (k : TaskAt) (g : Guard) (r : VR) (s : State) : Res :=
  pick2 (.vmax k g r) k g r [r.va, r.vb] (fun a b _ => minMax (laneFmt r.w) false a b) s
/-- VABS: clears the sign bit, also of NaN (R104). -/
def execVabs (k : TaskAt) (g : Guard) (r : VR) (s : State) : Res :=
  pick2 (.vabs k g r) k g r [r.va] (fun a _ _ => a % 2 ^ ((laneFmt r.w).width - 1)) s
/-- VNEG: inverts the sign bit, also of NaN (R104). -/
def execVneg (k : TaskAt) (g : Guard) (r : VR) (s : State) : Res :=
  pick2 (.vneg k g r) k g r [r.va] (fun a _ _ => (a + 2 ^ ((laneFmt r.w).width - 1)) % 2 ^ (laneFmt r.w).width) s
/-- VCMPEQ (R58, R104). -/
def execVcmpeq (k : TaskAt) (g : Guard) (r : VR) (s : State) : Res :=
  let t := laneFmt r.w
  pick2 (.vcmpeq k g r) k g r [r.va, r.vb] (fun a b _ => mask r.w (eqVal (decodeVal t a) (decodeVal t b))) s
/-- VCMPLT (R58, R104). -/
def execVcmplt (k : TaskAt) (g : Guard) (r : VR) (s : State) : Res :=
  let t := laneFmt r.w
  pick2 (.vcmplt k g r) k g r [r.va, r.vb] (fun a b _ => mask r.w (ltVal (decodeVal t a) (decodeVal t b))) s
/-- VCMPLE (R58, R104). -/
def execVcmple (k : TaskAt) (g : Guard) (r : VR) (s : State) : Res :=
  let t := laneFmt r.w
  pick2 (.vcmple k g r) k g r [r.va, r.vb]
    (fun a b _ => mask r.w (ltVal (decodeVal t a) (decodeVal t b) || eqVal (decodeVal t a) (decodeVal t b))) s
/-- VSEL: the lane of va where the top bit of the vc lane is 1, else that of vb (R58). -/
def execVsel (k : TaskAt) (g : Guard) (r : VR) (s : State) : Res :=
  pick2 (.vsel k g r) k g r [r.va, r.vb, r.vc] (fun a b c => if 2 ^ ((laneFmt r.w).width - 1) ≤ c then a else b) s

/-! ## Conversions (R102, R103) -/

/-- Whether a conversion works on half of the lanes: 32 BF16 lanes with a 32-bit format (R102). -/
def halved (r : VR) : Bool := r.w == 1 && (r.f == 0 || r.f == 14)

/-- Fields of VCVT and VCVTI that raise ILLEGAL_INSTRUCTION (R102). -/
def cvtBad (r : VR) : Bool :=
  r.f == 15 || r.vc != 0 || r.vb.extractLsb' 1 2 != 0 || (r.vb.getLsbD 0 && !halved r)

/-- Elements a conversion handles, and the first lane of them. -/
def cvtLanes (r : VR) : Nat × Nat := if halved r then (16, 16 * r.vb.toNat) else (laneCount r.w, 0)

/-- VCVT: lanes of va to packed format F in vd (R102, R103). -/
def execVcvt (k : TaskAt) (g : Guard) (r : VR) (s : State) : Res :=
  let src := laneFmt r.w
  let dst := (fmtOf r.f.toNat).getD fp32
  let n := cvtLanes r
  vecOp (.vcvt k g r) k g r.vd [r.va] (cvtBad r) 4
    (fun x rng =>
      let d := drawsFor r.rnd.toNat n.1 rng
      let l := ((lanes r.w (rdV x r.va)).drop n.2).take n.1
      (BitVec.ofNat 512 (packN dst.width ((l.zip d.1).map fun p => convF src dst r.rnd.toNat p.2 p.1)), d.2)) s

/-- VCVTI: packed elements of format F in va to the lanes of vd (R102, R103). -/
def execVcvti (k : TaskAt) (g : Guard) (r : VR) (s : State) : Res :=
  let src := (fmtOf r.f.toNat).getD fp32
  let dst := laneFmt r.w
  let n := cvtLanes r
  vecOp (.vcvti k g r) k g r.vd [r.va] (cvtBad r) 4
    (fun x rng =>
      let d := drawsFor r.rnd.toNat n.1 rng
      let l := (List.range n.1).map (elem src.width (rdV x r.va))
      let new := (l.zip d.1).map fun p => convF src dst r.rnd.toNat p.2 p.1
      let old := lanes r.w (rdV x r.vd)
      (packLanes r.w (old.take n.2 ++ new ++ old.drop (n.2 + n.1)), d.2)) s

/-- VFUNC: function F lanewise, without draws; BF16 lanes round the FP32-lane result to nearest even (R105). -/
def execVfunc (k : TaskAt) (g : Guard) (r : VR) (s : State) : Res :=
  vecOp (.vfunc k g r) k g r.vd [r.va] (decide (10 ≤ r.f.toNat)) 6
    (fun x rng =>
      let f (a : Nat) : Nat :=
        if r.w = 0 then vfuncLane r.f.toNat a
        else convF fp32 bf16 0 0 (vfuncLane r.f.toNat (convF bf16 fp32 0 0 a))
      (packLanes r.w ((lanes r.w (rdV x r.va)).map f), rng)) s

/-- One level of the sum tree: adjacent pairs, lower first, each addition with its draw (R101, R104). -/
def sumLevel (t : Fmt) (rnd : Nat) : List Nat → List Nat → List Nat × List Nat
  | a :: b :: l, d :: ds =>
    let r := sumLevel t rnd l ds
    (addF t rnd d a b :: r.1, r.2)
  | _, ds => ([], ds)

/-- The sum tree of 2^n lanes. -/
def sumTree (t : Fmt) (rnd : Nat) : Nat → List Nat → List Nat → Nat
  | 0, l, _ => l.headD 0
  | n + 1, l, ds =>
    let r := sumLevel t rnd l ds
    sumTree t rnd n r.1 r.2

/-- VRSUM: lane 0 of vd holds the tree sum of va's lanes, the other lanes 0 (R58, R104). -/
def execVrsum (k : TaskAt) (g : Guard) (r : VR) (s : State) : Res :=
  let n := laneCount r.w
  vecOp (.vrsum k g r) k g r.vd [r.va] false 6
    (fun x rng =>
      let d := drawsFor r.rnd.toNat (n - 1) rng
      (packLanes r.w [sumTree (laneFmt r.w) r.rnd.toNat (if r.w = 0 then 4 else 5) (lanes r.w (rdV x r.va)) d.1], d.2)) s

/-! ## VLD, VST, VBCAST, VEXT, VINS (R58, R66) -/

/-- The relative address g + 64 × off. -/
def vecAddr (s : State) (k : TaskAt) (gr : BitVec 4) (off : BitVec 12) : Nat := (rdG (taskAt s k) gr).toNat + 64 * off.toNat

/-- VLD: 64 B of local SRAM into v, the wide port at issue + 1, usable at issue + 3. -/
def execVld (k : TaskAt) (g : Guard) (v : BitVec 3) (gr : BitVec 4) (off : BitVec 12) (s : State) : Res :=
  let a := vecAddr s k gr off
  .next (ownBeat (.vld k g v gr off) k g
    (fun s => { gs := [gr], vd := [(v, 3)], wide := [s.beats.wrb + 1], faults := localFaults s k a 64 64 })
    (schedule k.tile (s.beats.wrb + 1) false (byInstr k (.vld k g v gr off)) (.vload k.task (i3 v) (physL (cfgAt s k) a / 64))) s)

/-- VST: v to 64 B of local SRAM, the wide port at issue + 1. -/
def execVst (k : TaskAt) (g : Guard) (v : BitVec 3) (gr : BitVec 4) (off : BitVec 12) (s : State) : Res :=
  let a := vecAddr s k gr off
  .next (ownBeat (.vst k g v gr off) k g
    (fun s => { gs := [gr], vs := [v], wide := [s.beats.wrb + 1], faults := localFaults s k a 64 64 })
    (schedule k.tile (s.beats.wrb + 1) false (byInstr k (.vst k g v gr off)) (.vstore (physL (cfgAt s k) a / 64) (rdV (taskAt s k) v))) s)

/-- VBCAST: g, or g[15:0], in every lane. -/
def execVbcast (k : TaskAt) (g : Guard) (v : BitVec 3) (gr : BitVec 4) (w : BitVec 1) (s : State) : Res :=
  let x := (rdG (taskAt s k) gr).toNat
  .next (ownBeat (.vbcast k g v gr w) k g (fun _ => { gs := [gr], vd := [(v, 2)] })
    (updTask k (wrV v (packLanes w (List.replicate (laneCount w) x)))) s)

/-- Whether a lane number is illegal: above 15 with W = 0. -/
def laneBad (lane : BitVec 5) (w : BitVec 1) : Bool := w == 0 && decide (15 < lane.toNat)

/-- VEXT: one lane of v into g, zero-extended. -/
def execVext (k : TaskAt) (g : Guard) (v : BitVec 3) (gr : BitVec 4) (lane : BitVec 5) (w : BitVec 1) (s : State) : Res :=
  let l := rdV (taskAt s k) v
  let x := if w = 0 then lane32 l lane.toNat else lane16 l lane.toNat
  .next (ownBeat (.vext k g v gr lane w) k g (fun _ => { ill := laneBad lane w, vs := [v], gd := [(gr, 2)] })
    (updTask k (wrG gr (BitVec.ofNat 32 x))) s)

/-- VINS: g, or g[15:0], into one lane of v. -/
def execVins (k : TaskAt) (g : Guard) (v : BitVec 3) (gr : BitVec 4) (lane : BitVec 5) (w : BitVec 1) (s : State) : Res :=
  let n := if w = 0 then 32 else 16
  .next (ownBeat (.vins k g v gr lane w) k g (fun _ => { ill := laneBad lane w, gs := [gr], vd := [(v, 2)] })
    (updTask k (wrV v (setBits (rdV (taskAt s k) v) (n * lane.toNat) n (rdG (taskAt s k) gr).toNat))) s)

end Sys2Proof.Machine
end

