-- ==== Sys2Proof/Machine/Matrix.lean ====
section
/-! DEFINITION. The matrix instructions (R70 to R76, R93 to R95, R195 to R202, R542). -/

namespace Sys2Proof.Machine

/-- MATRIX_OWNER for a task other than MOWN (R70). -/
def ownerFault (s : State) (k : TaskAt) : List Nat := faultIf ((tileAt s k.tile).mown != k.task) fOwner

/-- Whether an MLDS mode reads metadata (R72). -/
def isSparse (mode : Nat) : Bool := mode == 2 || mode == 3 || mode == 5

/-- Whether MLDS may load a format in a mode (R72, R195). -/
def loadable (mode fmt : Nat) : Bool :=
  match mode with
  | 0 => !isMx fmt && fmt != 14
  | 1 => isMx fmt
  | 4 => !isMx fmt && decide (2 ≤ fmt) && fmt != 14
  | 5 => decide (9 ≤ fmt ∧ fmt ≤ 12)
  | _ => decide (2 ≤ fmt ∧ fmt ≤ 5) || fmt == 7

/-- Whether a load of format `f` into entry `e`, usable from beat `u`, would take the entry out of the class of a product still to come
(R542). -/
def breaksClass (x : Tile) (e : Fin 8) (f u : Nat) : Bool :=
  let cls := (x.stage[e]).fmt.bind fun t => opClass t.toNat
  x.acts.any fun a => decide (u ≤ a.due) && (match a.act with
    | .product _ ea eb _ _ _ => (ea == e || eb == e) && opClass f != cls
    | _ => false)

/-- MLDS: loads staging entry e, usable at issue + 3, or + 4 in the sparse modes (R66, R70 to R72, R197, R542). -/
def execMlds (k : TaskAt) (g : Guard) (e mode : BitVec 3) (ga gb fmt off : BitVec 4) (s : State) : Res :=
  let t := taskAt s k
  let m := mode.toNat
  let f := fmt.toNat
  let a := (rdG t ga).toNat + 64 * off.toNat
  let r := (rdG t gb).toNat
  let b := s.beats.wrb
  let n := if m = 3 then 32 else 16
  let u := if isSparse m then b + 4 else b + 3
  .next (ownBeat (.mlds k g e mode ga gb fmt off) k g
    (fun s =>
      { ill := decide (6 ≤ m) || f == 15 || (m == 0 && gb != 0),
        gs := if m = 0 ∨ m = 4 then [ga] else [ga, gb],
        wide := if isSparse m then [b + 1, b + 2] else [b + 1],
        faults := ownerFault s k ++ localFaults s k a (if isSparse m then 64 else valueBytes f) 64 ++
          (if isSparse m then localFaults s k r n n else []) ++
          faultIf (!loadable m f || breaksClass (tileAt s k.tile) (i3 e) f u) fFormat })
    (fun s' => schedule k.tile (b + 1) false (byInstr k (.mlds k g e mode ga gb fmt off))
      (.stageRead (i3 e) m fmt (physL (cfgAt s k) a / 64) (rdG t gb) (physL (cfgAt s k) r))
      (updTile k.tile (fun x => { x with stageReady := x.stageReady.set (i3 e) u }) s')) s)

/-- The class of an MMA: that of both entries when both are loaded and of one class (R74, R542). -/
def mmaClass (x : Tile) (ea eb : BitVec 3) : Option Nat :=
  match (x.stage[i3 ea]).fmt, (x.stage[i3 eb]).fmt with
  | some f, some h => if opClass f.toNat = opClass h.toNat then opClass f.toNat else none
  | _, _ => none

/-- The largest blk of a class (R74). -/
def blkMax (c : Nat) : Nat := if c = 4 then 3 else if c = 5 then 15 else 0

/-- MMA: rep + 1 product beats from the beat after issue (R73 to R75). -/
def execMma (k : TaskAt) (g : Guard) (ea eb sa sb rep : BitVec 3) (blk : BitVec 4) (s : State) : Res :=
  let b := s.beats.wrb
  let last := b + 1 + rep.toNat
  .next (ownBeat (.mma k g ea eb sa sb rep blk) k g
    (fun s =>
      let x := tileAt s k.tile
      { wait := max x.mmaBusy (max (x.stageReady[i3 ea]) (x.stageReady[i3 eb])),
        faults := ownerFault s k ++ match mmaClass x ea eb with
          | none => [fFormat]
          | some c => faultIf (decide (blkMax c < blk.toNat)) fIllegal })
    (fun s' => (List.range (rep.toNat + 1)).foldl (fun s' i => schedule k.tile (b + 1 + i) false (byInstr k (.mma k g ea eb sa sb rep blk))
        (.product k.task (i3 ea) (i3 eb) ((sa.toNat + i) % 8) ((sb.toNat + i) % 8) blk.toNat) s')
      (updTile k.tile (fun x => { x with mmaBusy := last, mmaDone := last + 3 }) s')) s)

/-- Writes the registers of a readout, 16 FP32 or 32 BF16 results each (R76). -/
def putLanes (k : TaskAt) (vd : BitVec 3) (w : BitVec 1) : Nat → List Nat → State → State
  | 0, _, s => s
  | n + 1, l, s =>
    putLanes k (vd + 1) w n (l.drop (laneCount w)) (updTask k (wrV vd (packLanes w (l.take (laneCount w)))) s)

/-- MRD: samples and rounds all 64 lanes, cleared when CLR is 1; usable at issue + 6 (R76, R94, R95, R101). -/
def execMrd (k : TaskAt) (g : Guard) (vd : BitVec 3) (bf : BitVec 1) (rnd : BitVec 2) (clr : BitVec 1) (s : State) : Res :=
  let x := tileAt s k.tile
  let d := drawsFor rnd.toNat 64 x.rng
  let res := readLanes (laneFmt bf) rnd.toNat d.1 x.lanes
  let n := if bf = 0 then 4 else 2
  .next (ownBeat (.mrd k g vd bf rnd clr) k g
    (fun s =>
      { ill := vd.toNat % n != 0, wait := (tileAt s k.tile).mmaDone, faults := ownerFault s k,
        vd := (List.range n).map fun i => (vd + BitVec.ofNat 3 i, 6) })
    (fun s' => putLanes k vd bf n res (updTile k.tile (fun x =>
      { x with rng := d.2, lanes := if clr = 1 then x.lanes.map clearLane else x.lanes }) s')) s)

/-- MCLR: clears A, state and WIN_INEXACT of all lanes; W is kept (R93). -/
def execMclr (k : TaskAt) (g : Guard) (s : State) : Res :=
  .next (ownBeat (.mclr k g) k g (fun s => { wait := (tileAt s k.tile).mmaDone, faults := ownerFault s k })
    (updTile k.tile fun x => { x with lanes := x.lanes.map clearLane }) s)

/-- MWIN: the window exponent of all lanes is g[7:0] (R70, R93). -/
def execMwin (k : TaskAt) (g : Guard) (gr : BitVec 4) (s : State) : Res :=
  .next (ownBeat (.mwin k g gr) k g (fun s => { gs := [gr], wait := (tileAt s k.tile).mmaDone, faults := ownerFault s k })
    (updTile k.tile fun x => { x with lanes := x.lanes.map fun l => { l with w := (rdG (taskAt s k) gr).setWidth 8 } }) s)

end Sys2Proof.Machine
end

