-- ==== Sys2Proof/Machine/MemOp.lean ====
section
/-! DEFINITION. TOP, RACK and the cellar move (R45, R47, R48, R56, R57, R115, R117 to R119). -/

namespace Sys2Proof.Machine

/-- The memory a space bit selects: 0 local SRAM, 1 the cellar (R56). -/
def spaceOf (b : BitVec 1) : MemSpace := if b = 0 then .sram else .slab

/-- The physical byte of a relative address in a space (R45). -/
def physAt (c : TaskCfg) (m : MemSpace) (a : Nat) : Nat :=
  match m with
  | .sram => physL c a
  | .slab => physC c a

/-- ALIGN_FAULT, LBOUND_FAULT and CBOUND_FAULT of a whole range of lines in a space (R47, R48). -/
def rangeFaults (s : State) (k : TaskAt) (m : MemSpace) (a n : Nat) : List Nat :=
  faultIf (decide (a % 64 ≠ 0)) fAlign ++
  match m with
  | .sram => faultIf (!inLocal (cfgAt s k) a n) fLbound
  | .slab => faultIf (!inCellar (cfgAt s k) a n) fCbound

/-- A line filled with a 32-bit pattern, little-endian (R119). -/
def patternLine (x : Word) : Line := BitVec.ofNat 512 (packN 32 (List.replicate 16 x.toNat))

/-- The beats of TOP's lines (R117): wide-port beats of a local fill, or slots of a cellar fill, counted from issue. -/
def topBeats (m : MemSpace) (n : Nat) : List Nat × List Nat :=
  match m with
  | .sram => ((List.range n).map fun i => 1 + i, [])
  | .slab => ([], (List.range n).map fun i => 1 + 2 * i)

/-- TOP (R56, R117 to R119): fills gl bytes at gd with gs. With gl = 0 it claims nothing and raises no fault. -/
def execTop (k : TaskAt) (g : Guard) (src dst : BitVec 1) (gd gs gl : BitVec 4) (s : State) : Res :=
  let t := taskAt s k
  let m := spaceOf dst
  let a := (rdG t gd).toNat
  let len := (rdG t gl).toNat
  let n := len / 64
  let b := s.beats.wrb
  .next (ownBeat (.top k g src dst gd gs gl) k g
    (fun s =>
      let f := if len = 0 then [] else faultIf (decide (len % 64 ≠ 0)) fAlign ++ rangeFaults s k m a len
      { ill := src != 0, gs := [gd, gs, gl], faults := f,
        wide := if f.isEmpty then (topBeats m n).1.map (b + ·) else [],
        slots := if f.isEmpty then (topBeats m n).2.map (b + ·) else [] })
    (fun s' => (List.range n).foldl (fun s' i =>
      schedule k.tile (match m with | .sram => b + 1 + i | .slab => b + 2 + 2 * i) false (byInstr k (.top k g src dst gd gs gl))
        (.lineWrite m (physAt (cfgAt s k) m a / 64 + i) (patternLine (rdG t gs))) s') s') s)

/-- When line `i` of a RACK is read and written, with its wide-port beats and slots, from issue (R117): read end, write end, wide, slots. -/
def rackBeats (src dst : MemSpace) (i : Nat) : Nat × Nat × List Nat × List Nat :=
  match src, dst with
  | .sram, .sram => (1 + 2 * i, 2 + 2 * i, [1 + 2 * i, 2 + 2 * i], [])
  | .sram, .slab => (1 + 2 * i, 3 + 2 * i, [1 + 2 * i], [2 + 2 * i])
  | .slab, .sram => (2 + 2 * i, 6 + 2 * i, [6 + 2 * i], [1 + 2 * i])
  | .slab, .slab => (2 + 4 * i, 4 + 4 * i, [], [1 + 4 * i, 3 + 4 * i])

/-- RACK (R56, R117 to R119): copies gl bytes from gs to gd, lines in ascending order. -/
def execRack (k : TaskAt) (g : Guard) (src dst : BitVec 1) (gd gs gl : BitVec 4) (s : State) : Res :=
  let t := taskAt s k
  let ms := spaceOf src
  let md := spaceOf dst
  let a := (rdG t gs).toNat
  let d := (rdG t gd).toNat
  let len := (rdG t gl).toNat
  let n := len / 64
  let b := s.beats.wrb
  .next (ownBeat (.rack k g src dst gd gs gl) k g
    (fun s =>
      let f := if len = 0 then []
        else faultIf (decide (len % 64 ≠ 0)) fAlign ++ rangeFaults s k ms a len ++ rangeFaults s k md d len
      let bs := (List.range n).map (rackBeats ms md)
      { gs := [gd, gs, gl], faults := f,
        wide := if f.isEmpty then (bs.flatMap fun x => x.2.2.1).map (b + ·) else [],
        slots := if f.isEmpty then (bs.flatMap fun x => x.2.2.2).map (b + ·) else [] })
    (fun s' => (List.range n).foldl (fun s' i =>
      schedule k.tile (b + (rackBeats ms md i).1) false (byInstr k (.rack k g src dst gd gs gl))
        (.lineRead ms (physAt (cfgAt s k) ms a / 64 + i) md (physAt (cfgAt s k) md d / 64 + i) (b + (rackBeats ms md i).2.1)) s') s') s)

/-- CMV (R57, R117): one line between local address gl + 64 × lo and cellar address gc + 64 × co. -/
def execCmv (k : TaskAt) (g : Guard) (dir : BitVec 1) (gl gc : BitVec 4) (lo co : BitVec 8) (s : State) : Res :=
  let t := taskAt s k
  let la := (rdG t gl).toNat + 64 * lo.toNat
  let ca := (rdG t gc).toNat + 64 * co.toNat
  let ll := physL (cfgAt s k) la / 64
  let cl := physC (cfgAt s k) ca / 64
  let b := s.beats.wrb
  .next (ownBeat (.cmv k g dir gl gc lo co) k g
    (fun s =>
      { gs := [gl, gc], wide := if dir = 0 then [b + 6] else [b + 1], slots := if dir = 0 then [b + 1] else [b + 2],
        faults := rangeFaults s k .sram la 64 ++ rangeFaults s k .slab ca 64 })
    (if dir = 0 then schedule k.tile (b + 2) false (byInstr k (.cmv k g dir gl gc lo co)) (.lineRead .slab cl .sram ll (b + 6))
     else schedule k.tile (b + 1) false (byInstr k (.cmv k g dir gl gc lo co)) (.lineRead .sram ll .slab cl (b + 3))) s)

end Sys2Proof.Machine
end

