-- ==== Sys2Proof/Machine/Scalar.lean ====
section
/-! DEFINITION. The scalar classes of the core: register-register and immediate (R51, R66). -/

namespace Sys2Proof.Machine

/-- A scalar operation on two registers: gd receives f ga gb, usable `lat` beats after issue (R51, R66). -/
def aluRR (i : Instr) (k : TaskAt) (g : Guard) (gd ga gb : BitVec 4) (lat : Nat) (f : Word → Word → Word) (s : State) : Res :=
  .next (ownBeat i k g (fun _ => { gs := [ga, gb], gd := [(gd, lat)] })
    (updTask k fun t => wrG gd (f (rdG t ga) (rdG t gb)) t) s)

/-- The predicate named by a 4-bit field (R51). -/
def predOf (r : BitVec 4) : BitVec 2 := r.extractLsb' 0 2
/-- Whether the upper bits of a predicate field are set: ILLEGAL_INSTRUCTION (R51). -/
def predBad (r : BitVec 4) : Bool := r.extractLsb' 2 2 != 0

/-- A comparison of two registers into a predicate (R51). -/
def cmpRR (i : Instr) (k : TaskAt) (g : Guard) (gd ga gb : BitVec 4) (f : Word → Word → Bool) (s : State) : Res :=
  .next (ownBeat i k g (fun _ => { ill := predBad gd, gs := [ga, gb], pd := [(predOf gd, 1)] })
    (updTask k fun t => wrP (predOf gd) (f (rdG t ga) (rdG t gb)) t) s)

/-- A scalar operation on a register and an immediate (R51). -/
def aluRI (i : Instr) (k : TaskAt) (g : Guard) (gd ga : BitVec 4) (f : Word → Word) (s : State) : Res :=
  .next (ownBeat i k g (fun _ => { gs := [ga], gd := [(gd, 1)] }) (updTask k fun t => wrG gd (f (rdG t ga)) t) s)

/-- A comparison of a register with an immediate into a predicate (R51). -/
def cmpRI (i : Instr) (k : TaskAt) (g : Guard) (gd ga : BitVec 4) (f : Word → Bool) (s : State) : Res :=
  .next (ownBeat i k g (fun _ => { ill := predBad gd, gs := [ga], pd := [(predOf gd, 1)] })
    (updTask k fun t => wrP (predOf gd) (f (rdG t ga)) t) s)

/-- The shift amount gb[4:0] or imm13[4:0] (R51). -/
def amount (x : Word) : Nat := x.toNat % 32

/-- ADD: gd ← ga + gb modulo 2^32 (R51). -/
def execAdd (k : TaskAt) (g : Guard) (gd ga gb : BitVec 4) (s : State) : Res :=
  aluRR (.add k g gd ga gb) k g gd ga gb 1 (fun a b => a + b) s
/-- SUB: gd ← ga − gb modulo 2^32 (R51). -/
def execSub (k : TaskAt) (g : Guard) (gd ga gb : BitVec 4) (s : State) : Res :=
  aluRR (.sub k g gd ga gb) k g gd ga gb 1 (fun a b => a - b) s
/-- AND (R51). -/
def execAnd (k : TaskAt) (g : Guard) (gd ga gb : BitVec 4) (s : State) : Res :=
  aluRR (.and_ k g gd ga gb) k g gd ga gb 1 (fun a b => a &&& b) s
/-- OR (R51). -/
def execOr (k : TaskAt) (g : Guard) (gd ga gb : BitVec 4) (s : State) : Res :=
  aluRR (.or_ k g gd ga gb) k g gd ga gb 1 (fun a b => a ||| b) s
/-- XOR (R51). -/
def execXor (k : TaskAt) (g : Guard) (gd ga gb : BitVec 4) (s : State) : Res :=
  aluRR (.xor_ k g gd ga gb) k g gd ga gb 1 (fun a b => a ^^^ b) s
/-- SHL: shift by gb[4:0] (R51). -/
def execShl (k : TaskAt) (g : Guard) (gd ga gb : BitVec 4) (s : State) : Res :=
  aluRR (.shl k g gd ga gb) k g gd ga gb 1 (fun a b => a <<< amount b) s
/-- SHR: logical (R51). -/
def execShr (k : TaskAt) (g : Guard) (gd ga gb : BitVec 4) (s : State) : Res :=
  aluRR (.shr k g gd ga gb) k g gd ga gb 1 (fun a b => a >>> amount b) s
/-- SRA: arithmetic (R51). -/
def execSra (k : TaskAt) (g : Guard) (gd ga gb : BitVec 4) (s : State) : Res :=
  aluRR (.sra k g gd ga gb) k g gd ga gb 1 (fun a b => a.sshiftRight (amount b)) s
/-- MUL: low 32 bits, usable at issue + 3 (R51, R66). -/
def execMul (k : TaskAt) (g : Guard) (gd ga gb : BitVec 4) (s : State) : Res :=
  aluRR (.mul k g gd ga gb) k g gd ga gb 3 (fun a b => a * b) s
/-- MULHU: high 32 bits of the unsigned product, usable at issue + 3 (R51, R66). -/
def execMulhu (k : TaskAt) (g : Guard) (gd ga gb : BitVec 4) (s : State) : Res :=
  aluRR (.mulhu k g gd ga gb) k g gd ga gb 3 (fun a b => BitVec.ofNat 32 (a.toNat * b.toNat / 2 ^ 32)) s
/-- MIN, signed (R51). -/
def execMin (k : TaskAt) (g : Guard) (gd ga gb : BitVec 4) (s : State) : Res :=
  aluRR (.min_ k g gd ga gb) k g gd ga gb 1 (fun a b => if a.slt b then a else b) s
/-- MAX, signed (R51). -/
def execMax (k : TaskAt) (g : Guard) (gd ga gb : BitVec 4) (s : State) : Res :=
  aluRR (.max_ k g gd ga gb) k g gd ga gb 1 (fun a b => if a.slt b then b else a) s
/-- MINU, unsigned (R51). -/
def execMinu (k : TaskAt) (g : Guard) (gd ga gb : BitVec 4) (s : State) : Res :=
  aluRR (.minu k g gd ga gb) k g gd ga gb 1 (fun a b => if a.ult b then a else b) s
/-- MAXU, unsigned (R51). -/
def execMaxu (k : TaskAt) (g : Guard) (gd ga gb : BitVec 4) (s : State) : Res :=
  aluRR (.maxu k g gd ga gb) k g gd ga gb 1 (fun a b => if a.ult b then b else a) s
/-- CEQ (R51). -/
def execCeq (k : TaskAt) (g : Guard) (gd ga gb : BitVec 4) (s : State) : Res :=
  cmpRR (.ceq k g gd ga gb) k g gd ga gb (fun a b => a == b) s
/-- CLT, signed (R51). -/
def execClt (k : TaskAt) (g : Guard) (gd ga gb : BitVec 4) (s : State) : Res :=
  cmpRR (.clt k g gd ga gb) k g gd ga gb (fun a b => a.slt b) s
/-- CLTU, unsigned (R51). -/
def execCltu (k : TaskAt) (g : Guard) (gd ga gb : BitVec 4) (s : State) : Res :=
  cmpRR (.cltu k g gd ga gb) k g gd ga gb (fun a b => a.ult b) s

/-- A predicate operation (R51); `two` says whether gb is a source (PNOT ignores the whole field). -/
def predOp (i : Instr) (k : TaskAt) (g : Guard) (gd ga gb : BitVec 4) (two : Bool) (f : Bool → Bool → Bool) (s : State) : Res :=
  .next (ownBeat i k g
    (fun _ => { ill := predBad gd || predBad ga || (two && predBad gb),
                ps := if two then [predOf ga, predOf gb] else [predOf ga], pd := [(predOf gd, 1)] })
    (updTask k fun t => wrP (predOf gd) (f (rdP t (predOf ga)) (rdP t (predOf gb))) t) s)

/-- PAND (R51). -/
def execPand (k : TaskAt) (g : Guard) (gd ga gb : BitVec 4) (s : State) : Res :=
  predOp (.pand k g gd ga gb) k g gd ga gb true (fun a b => a && b) s
/-- POR (R51). -/
def execPor (k : TaskAt) (g : Guard) (gd ga gb : BitVec 4) (s : State) : Res :=
  predOp (.por k g gd ga gb) k g gd ga gb true (fun a b => a || b) s
/-- PNOT (R51). -/
def execPnot (k : TaskAt) (g : Guard) (gd ga gb : BitVec 4) (s : State) : Res :=
  predOp (.pnot k g gd ga gb) k g gd ga gb false (fun a _b => !a) s
/-- ADDI: sign-extended imm13 (R51). -/
def execAddi (k : TaskAt) (g : Guard) (gd ga : BitVec 4) (imm : BitVec 13) (s : State) : Res :=
  aluRI (.addi k g gd ga imm) k g gd ga (fun a => a + sx13 imm) s
/-- ANDI: zero-extended imm13 (R51). -/
def execAndi (k : TaskAt) (g : Guard) (gd ga : BitVec 4) (imm : BitVec 13) (s : State) : Res :=
  aluRI (.andi k g gd ga imm) k g gd ga (fun a => a &&& zx13 imm) s
/-- ORI: zero-extended imm13 (R51). -/
def execOri (k : TaskAt) (g : Guard) (gd ga : BitVec 4) (imm : BitVec 13) (s : State) : Res :=
  aluRI (.ori k g gd ga imm) k g gd ga (fun a => a ||| zx13 imm) s
/-- XORI: zero-extended imm13 (R51). -/
def execXori (k : TaskAt) (g : Guard) (gd ga : BitVec 4) (imm : BitVec 13) (s : State) : Res :=
  aluRI (.xori k g gd ga imm) k g gd ga (fun a => a ^^^ zx13 imm) s
/-- SHLI by imm13[4:0] (R51). -/
def execShli (k : TaskAt) (g : Guard) (gd ga : BitVec 4) (imm : BitVec 13) (s : State) : Res :=
  aluRI (.shli k g gd ga imm) k g gd ga (fun a => a <<< amount (zx13 imm)) s
/-- SHRI by imm13[4:0], logical (R51). -/
def execShri (k : TaskAt) (g : Guard) (gd ga : BitVec 4) (imm : BitVec 13) (s : State) : Res :=
  aluRI (.shri k g gd ga imm) k g gd ga (fun a => a >>> amount (zx13 imm)) s
/-- SRAI by imm13[4:0], arithmetic (R51). -/
def execSrai (k : TaskAt) (g : Guard) (gd ga : BitVec 4) (imm : BitVec 13) (s : State) : Res :=
  aluRI (.srai k g gd ga imm) k g gd ga (fun a => a.sshiftRight (amount (zx13 imm))) s
/-- CEQI: against sign-extended imm13 (R51). -/
def execCeqi (k : TaskAt) (g : Guard) (gd ga : BitVec 4) (imm : BitVec 13) (s : State) : Res :=
  cmpRI (.ceqi k g gd ga imm) k g gd ga (fun a => a == sx13 imm) s
/-- CLTI: signed, against sign-extended imm13 (R51). -/
def execClti (k : TaskAt) (g : Guard) (gd ga : BitVec 4) (imm : BitVec 13) (s : State) : Res :=
  cmpRI (.clti k g gd ga imm) k g gd ga (fun a => a.slt (sx13 imm)) s
/-- LIL: gd ← zero-extended imm16 (R51). -/
def execLil (k : TaskAt) (g : Guard) (gd : BitVec 4) (imm : BitVec 16) (s : State) : Res :=
  .next (ownBeat (.lil k g gd imm) k g (fun _ => { gd := [(gd, 1)] }) (updTask k (wrG gd (zx16 imm))) s)
/-- LIH: gd[31:16] ← imm16, gd[15:0] unchanged (R51). -/
def execLih (k : TaskAt) (g : Guard) (gd : BitVec 4) (imm : BitVec 16) (s : State) : Res :=
  aluRI (.lih k g gd imm) k g gd gd (fun a => imm ++ a.extractLsb' 0 16) s

end Sys2Proof.Machine
end

