-- ==== Sys2Proof/Machine/Steer.lean ====
section
/-! DEFINITION. Steer/sync instructions: segments, loop-buffer fills, iteration marks, counters (R63 to R69, R247 to R250). -/

namespace Sys2Proof.Machine

/-- NOP (R63). -/
def execNop (k : TaskAt) (g : Guard) (s : State) : Res := .next (ownBeat (.nop k g) k g (fun _ => {}) id s)

/-- SEG: opens a segment of n own beats, of which its own is the first (R63, R68, R69). -/
def execSeg (k : TaskAt) (g : Guard) (n : BitVec 16) (s : State) : Res :=
  .next (ownBeat (.seg k g n) k g
    (fun s => { ill := n == 0, always := true, faults := faultIf (taskAt s k).seg.isSome fSegment })
    (updTask k fun t => { t with seg := some (n.toNat, 1) }) s)

/-- SEGE at own beat k ≤ n: ends the segment; own beats k + 1 to n are padding (R63, R68, R69). -/
def execSege (k : TaskAt) (g : Guard) (s : State) : Res :=
  .next (ownBeat (.sege k g) k g
    (fun s => { always := true, faults := faultIf (taskAt s k).seg.isNone fSegment })
    (updTask k fun t => { t with seg := none, pad := match t.seg with | some e => e.1 - e.2 | none => 0 }) s)

/-- LDCODE: fills line LB_FIRST + `line` with the instructions from index 16 × cl: the wide port at issue + 1, fetchable at issue + 3 (R46, R63, R65). -/
def execLdcode (k : TaskAt) (g : Guard) (line : BitVec 4) (cl : BitVec 9) (s : State) : Res :=
  let c := cfgAt s k
  let a := 4 * c.ibase + 64 * cl.toNat
  let here := lineOf (tileAt s k.tile) c (taskAt s k).pc.toNat
  .next (ownBeat (.ldcode k g line cl) k g
    (fun s => { ill := decide (c.lbCount ≤ line.toNat) || here == some line.toNat, always := true,
                wide := [s.beats.wrb + 1], faults := localFaults s k a 64 64 })
    (schedule k.tile (s.beats.wrb + 1) false (byInstr k (.ldcode k g line cl)) (.codeRead (c.lbFirst + line.toNat) (16 * cl.toNat) (physL c a))) s)

/-- The counters after a marker ITER at program beat `b` (R247, R248): the first closes the fill, each later one an iteration; the first after a
start or restart latches the bases. -/
def iterCount (b : Nat) (g : Prog) : Prog :=
  let g := match g.firstM with
    | none => { g with firstM := some b }
    | some f => { g with iters := (g.iters + 1) % 2 ^ 64, beatsRun := (b - f) % 2 ^ 64 }
  if g.restartM then { g with baseIt := g.iters, baseBt := g.beatsRun, restartM := false } else g

/-- Whether the task that issues is the program's marker task (R248). -/
def isMarker (s : State) (k : TaskAt) : Bool :=
  match prog? s (tileAt s k.tile).pslot with
  | some g => g.place.mkTile == k.tile && g.place.mkTask == k.task
  | none => false

/-- ITER: counts when issued by the marker task; each steering term's counter is latched its lag later (R63, R248, R250). -/
def iterEff (k : TaskAt) (s : State) : State :=
  let ps := (tileAt s k.tile).pslot
  match prog? s ps with
  | none => s
  | some g =>
    if isMarker s k then
      let first := g.restartM
      let b := s.beats.wrb
      let s := updProg ps (iterCount (progBeat s g)) s
      g.place.terms.zipIdx.foldl (fun s e => schedule e.1.tile (b + e.1.lag) false .engine (.latch e.2 e.1.counter first) s) s
    else s

/-- ITER (R63, R248). -/
def execIter (k : TaskAt) (g : Guard) (s : State) : Res := .next (ownBeat (.iter k g) k g (fun _ => {}) (iterEff k) s)

/-- HALT: the task issues nothing more until the program restarts; inside a segment SEGMENT_MISUSE (R63, R69). -/
def execHalt (k : TaskAt) (g : Guard) (s : State) : Res :=
  .next (ownBeat (.halt k g) k g (fun s => { always := true, faults := faultIf (taskAt s k).seg.isSome fSegment })
    (updTask k fun t => { t with halted := true }) s)

/-- The counter RDCNT selects (R63). -/
def counterOf (s : State) (k : TaskAt) (sel : Nat) : Nat :=
  let x := tileAt s k.tile
  match sel with
  | 0 => beatAt s k.tile % 2 ^ 32
  | 1 => beatAt s k.tile / 2 ^ 32 % 2 ^ 32
  | 2 => (taskAt s k).own % 2 ^ 32
  | 3 => x.inexact
  | 4 => x.prow
  | _ => x.pcol

/-- RDCNT: gd ← counter sel; reserved selectors are illegal (R63). The own-beat count takes in RDCNT's own beat (log 17). -/
def execRdcnt (k : TaskAt) (g : Guard) (gd sel : BitVec 4) (s : State) : Res :=
  .next (ownBeat (.rdcnt k g gd sel) k g (fun _ => { ill := decide (6 ≤ sel.toNat), gd := [(gd, 1)] })
    (fun s' => updTask k (wrG gd (BitVec.ofNat 32 (counterOf s' k sel.toNat))) s') s)

end Sys2Proof.Machine
end

