-- ==== Sys2Proof/Machine/Stream.lean ====
section
/-! DEFINITION. Cursors of the phase sequencer, channel slots, and the stream instructions (R60 to R62, R145, R146, R177 to R184). -/

namespace Sys2Proof.Machine

/-- The sequencer's next position (R146): phase, cursor, periods done. -/
def seqNext (ph : Vector SeqPhase 4) (c : Nat × Nat × Nat) : Nat × Nat × Nat :=
  let x := ph[(⟨c.1 % 4, Nat.mod_lt _ (by decide)⟩ : Fin 4)]
  if c.2.1 + 1 = x.len then
    (if x.reps ≠ 0 ∧ c.2.2 + 1 = x.reps then (x.next, 0, 0) else (c.1, 0, c.2.2 + 1))
  else (c.1, c.2.1 + 1, c.2.2)

/-- The position `n` beats on. -/
def seqAfter (ph : Vector SeqPhase 4) : Nat → Nat × Nat × Nat → Nat × Nat × Nat
  | 0, c => c
  | n + 1, c => seqAfter ph n (seqNext ph c)

/-- A router's phase and cursor in the running beat `d` after the present one: its sequencer has already moved on when it ran in this beat. -/
def cursorAt (r : Router) (wrb d : Nat) : Nat × Nat :=
  let a := seqAfter r.phases (if r.ran = some wrb then d - 1 else d) (r.p, r.k, r.done)
  (a.1, a.2.1)

/-- The period of a phase. -/
def phaseLen (r : Router) (p : Nat) : Nat := (r.phases[(⟨p % 4, Nat.mod_lt _ (by decide)⟩ : Fin 4)]).len

/-- Whether cursor `c` lies in the slot set BASE, STRIDE below LEN (R177). -/
def inSlots (base stride len c : Nat) : Bool :=
  decide (c < len) && (if stride = 0 then c == base else decide (base ≤ c) && (c - base) % stride == 0)

/-- Whether an entry has credit slots (R177). -/
def hasCredits (c : ChanCfg) : Bool := c.en && c.cred && (!c.recv || c.cret)

/-- Whether a position is a data slot or a credit slot of an entry. -/
def dataSlot (r : Router) (c : ChanCfg) (pos : Nat × Nat) : Bool :=
  c.phase == pos.1 && inSlots c.dslot c.dstride (phaseLen r pos.1) pos.2
def creditSlot (r : Router) (c : ChanCfg) (pos : Nat × Nat) : Bool :=
  hasCredits c && c.phase == pos.1 && inSlots c.cslot c.cstride (phaseLen r pos.1) pos.2

/-- CHANNEL_FAULT of a stream operation whose C-port beat is `d` beats after issue (R61, R178). -/
def chanFaults (s : State) (k : TaskAt) (ch : BitVec 3) (d : Nat) (recv : Bool) : List Nat :=
  let x := tileAt s k.tile
  let c := (x.chans[i3 ch]).cfg
  let pos := cursorAt x.router s.beats.wrb d
  faultIf (!c.en || c.recv != recv || (recv && c.tgt != 0) || !dataSlot x.router c pos ||
    x.chans.toList.any fun e => creditSlot x.router e.cfg pos) fChannel

/-- Whether a send carries its word: always on a timed channel, with credit on a credited one (R62, R179). -/
def sends (s : State) (k : TaskAt) (ch : BitVec 3) : Bool :=
  let c := (tileAt s k.tile).chans[i3 ch]
  !c.cfg.cred || decide (c.credit ≠ 0)

/-- The credit, parity check and predicate of a send that issues (R62, R179, R184). -/
def sendDone (k : TaskAt) (ch : BitVec 3) (pn : BitVec 2) (sent : Bool) (s : State) : State :=
  let s := creditParity k.tile (i3 ch) s
  updTask k (wrP pn sent) (updTile k.tile (fun x =>
    let c := x.chans[i3 ch]
    if c.cfg.cred && sent then { x with chans := x.chans.set (i3 ch) { c with credit := c.credit - 1 } } else x) s)

/-- SEND: quarter q of v on the C input at issue + 1 (R60, R179). -/
def execSend (k : TaskAt) (g : Guard) (ch : BitVec 3) (pn : BitVec 2) (v : BitVec 3) (q : BitVec 2) (s : State) : Res :=
  let sent := sends s k ch
  .next (ownBeat (.send k g ch pn v q) k g
    (fun s => { vs := [v], pd := [(pn, 1)], faults := chanFaults s k ch 1 false })
    (fun s' =>
      let s' := sendDone k ch pn sent s'
      if sent then pushWord k.tile 4 (s.beats.wrb + 1)
          { data := quarter (rdV (taskAt s k) v) q, v := true, ep := epochAt s k.tile, bad := 0 } s'
      else s') s)

/-- RECV: the C output of issue + 1 into quarter q of v (R60, R180). -/
def execRecv (k : TaskAt) (g : Guard) (ch : BitVec 3) (pn : BitVec 2) (v : BitVec 3) (q : BitVec 2) (s : State) : Res :=
  .next (ownBeat (.recv k g ch pn v q) k g
    (fun s => { pd := [(pn, 2)], vd := [(v, 2)], faults := chanFaults s k ch 1 true })
    (schedule k.tile (s.beats.wrb + 1) false (byInstr k (.recv k g ch pn v q)) (.capture k.task (i3 ch) (i2 pn) (i3 v) q.toNat)) s)

/-- The relative address g + 16 × off (R60). -/
def streamAddr (s : State) (k : TaskAt) (gr : BitVec 4) (off : BitVec 13) : Nat := (rdG (taskAt s k) gr).toNat + 16 * off.toNat

/-- SENDM: 16 B of local SRAM, read at issue + 1, on the C input at issue + 2 (R60, R179). -/
def execSendm (k : TaskAt) (g : Guard) (ch : BitVec 3) (pn : BitVec 2) (gr : BitVec 4) (off : BitVec 13) (s : State) : Res :=
  let sent := sends s k ch
  let a := streamAddr s k gr off
  .next (ownBeat (.sendm k g ch pn gr off) k g
    (fun s => { gs := [gr], pd := [(pn, 1)], wide := [s.beats.wrb + 1],
                faults := localFaults s k a 16 16 ++ chanFaults s k ch 2 false })
    (fun s' =>
      let s' := sendDone k ch pn sent s'
      if sent then schedule k.tile (s.beats.wrb + 1) false (byInstr k (.sendm k g ch pn gr off)) (.sendRead (physL (cfgAt s k) a) (epochAt s k.tile)) s' else s') s)

/-- RECVM: the C output of issue + 1 into local SRAM, written at issue + 2 (R60, R180). -/
def execRecvm (k : TaskAt) (g : Guard) (ch : BitVec 3) (pn : BitVec 2) (gr : BitVec 4) (off : BitVec 13) (s : State) : Res :=
  let a := streamAddr s k gr off
  .next (ownBeat (.recvm k g ch pn gr off) k g
    (fun s => { gs := [gr], pd := [(pn, 2)], wide := [s.beats.wrb + 2],
                faults := localFaults s k a 16 16 ++ chanFaults s k ch 1 true })
    (schedule k.tile (s.beats.wrb + 1) false (byInstr k (.recvm k g ch pn gr off)) (.captureMem k.task (i3 ch) (i2 pn) (physL (cfgAt s k) a))) s)

end Sys2Proof.Machine
end

