-- ==== Sys2Proof/Machine/OwnBeat.lean ====
section
/-! DEFINITION. The core's own beat: fetch from the loop buffer, decode, and issue (R42 to R44, R50, R64). -/

namespace Sys2Proof.Machine

/-- The meaning of a fetched core instruction; other commands are none. -/
def coreExec (i : Instr) (s : State) : Res :=
  match i with
  | .add k g gd ga gb => execAdd k g gd ga gb s
  | .sub k g gd ga gb => execSub k g gd ga gb s
  | .and_ k g gd ga gb => execAnd k g gd ga gb s
  | .or_ k g gd ga gb => execOr k g gd ga gb s
  | .xor_ k g gd ga gb => execXor k g gd ga gb s
  | .shl k g gd ga gb => execShl k g gd ga gb s
  | .shr k g gd ga gb => execShr k g gd ga gb s
  | .sra k g gd ga gb => execSra k g gd ga gb s
  | .mul k g gd ga gb => execMul k g gd ga gb s
  | .mulhu k g gd ga gb => execMulhu k g gd ga gb s
  | .min_ k g gd ga gb => execMin k g gd ga gb s
  | .max_ k g gd ga gb => execMax k g gd ga gb s
  | .minu k g gd ga gb => execMinu k g gd ga gb s
  | .maxu k g gd ga gb => execMaxu k g gd ga gb s
  | .ceq k g gd ga gb => execCeq k g gd ga gb s
  | .clt k g gd ga gb => execClt k g gd ga gb s
  | .cltu k g gd ga gb => execCltu k g gd ga gb s
  | .pand k g gd ga gb => execPand k g gd ga gb s
  | .por k g gd ga gb => execPor k g gd ga gb s
  | .pnot k g gd ga gb => execPnot k g gd ga gb s
  | .addi k g gd ga imm => execAddi k g gd ga imm s
  | .andi k g gd ga imm => execAndi k g gd ga imm s
  | .ori k g gd ga imm => execOri k g gd ga imm s
  | .xori k g gd ga imm => execXori k g gd ga imm s
  | .shli k g gd ga imm => execShli k g gd ga imm s
  | .shri k g gd ga imm => execShri k g gd ga imm s
  | .srai k g gd ga imm => execSrai k g gd ga imm s
  | .ceqi k g gd ga imm => execCeqi k g gd ga imm s
  | .clti k g gd ga imm => execClti k g gd ga imm s
  | .lil k g gd imm => execLil k g gd imm s
  | .lih k g gd imm => execLih k g gd imm s
  | .br k g off => execBr k g off s
  | .bal k g gd off => execBal k g gd off s
  | .brr k g ga => execBrr k g ga s
  | .loop k g cnt len => execLoop k g cnt len s
  | .loopr k g gc len => execLoopr k g gc len s
  | .ldw k g gv gb off => execLdw k g gv gb off s
  | .ldh k g gv gb off => execLdh k g gv gb off s
  | .ldhu k g gv gb off => execLdhu k g gv gb off s
  | .ldb k g gv gb off => execLdb k g gv gb off s
  | .ldbu k g gv gb off => execLdbu k g gv gb off s
  | .stw k g gv gb off => execStw k g gv gb off s
  | .sth k g gv gb off => execSth k g gv gb off s
  | .stb k g gv gb off => execStb k g gv gb off s
  | .top k g src dst gd gs gl => execTop k g src dst gd gs gl s
  | .rack k g src dst gd gs gl => execRack k g src dst gd gs gl s
  | .cmv k g dir gl gc lo co => execCmv k g dir gl gc lo co s
  | .vadd k g r => execVadd k g r s
  | .vsub k g r => execVsub k g r s
  | .vmul k g r => execVmul k g r s
  | .vfma k g r => execVfma k g r s
  | .vmin k g r => execVmin k g r s
  | .vmax k g r => execVmax k g r s
  | .vabs k g r => execVabs k g r s
  | .vneg k g r => execVneg k g r s
  | .vcmpeq k g r => execVcmpeq k g r s
  | .vcmplt k g r => execVcmplt k g r s
  | .vcmple k g r => execVcmple k g r s
  | .vsel k g r => execVsel k g r s
  | .vcvt k g r => execVcvt k g r s
  | .vcvti k g r => execVcvti k g r s
  | .vfunc k g r => execVfunc k g r s
  | .vrsum k g r => execVrsum k g r s
  | .vld k g v gr off => execVld k g v gr off s
  | .vst k g v gr off => execVst k g v gr off s
  | .vbcast k g v gr w => execVbcast k g v gr w s
  | .vext k g v gr lane w => execVext k g v gr lane w s
  | .vins k g v gr lane w => execVins k g v gr lane w s
  | .send k g ch pn v q => execSend k g ch pn v q s
  | .recv k g ch pn v q => execRecv k g ch pn v q s
  | .sendm k g ch pn gr off => execSendm k g ch pn gr off s
  | .recvm k g ch pn gr off => execRecvm k g ch pn gr off s
  | .nop k g => execNop k g s
  | .seg k g n => execSeg k g n s
  | .sege k g => execSege k g s
  | .ldcode k g line cl => execLdcode k g line cl s
  | .iter k g => execIter k g s
  | .halt k g => execHalt k g s
  | .rdcnt k g gd sel => execRdcnt k g gd sel s
  | .mlds k g e mode ga gb fmt off => execMlds k g e mode ga gb fmt off s
  | .mma k g ea eb sa sb rep blk => execMma k g ea eb sa sb rep blk s
  | .mrd k g vd bf rnd clr => execMrd k g vd bf rnd clr s
  | .mclr k g => execMclr k g s
  | .mwin k g gr => execMwin k g gr s
  | _ => .next s

/-- TASK_OWN_BEAT (R42, R64): the task named by the pattern entry of the present running beat fetches the instruction at its pc; CODE_MISS where no
line holds it, ILLEGAL_INSTRUCTION where it does not decode (R50, R77; at once, log 141), else the instruction's own beat. Entries 4 to 7 are idle. -/
def execTaskOwnBeat (t : TileAt) (s : State) : Res :=
  let x := tileAt s t
  let e := patEntry x (beatAt s t)
  if e < 4 then
    let k : TaskAt := { tile := t, task := ⟨e % 4, Nat.mod_lt _ (by decide)⟩ }
    match fetchWord x (cfgAt s k) (taskAt s k).pc.toNat with
    | none => .next (ownBeatWith false k (programFault k fCodeMiss 0) s)
    | some w =>
      match decodeCore k w with
      | none => .next (ownBeatWith true k (programFault k fIllegal w.toNat) s)
      | some i => coreExec i s
  else .next s

end Sys2Proof.Machine
end

