-- ==== Sys2Proof/Machine/Digest.lean ====
section
/-! DEFINITION. The cited standards that the digests, signatures and certificates follow: SHA-384 (FIPS 180-4; R220, R475, R492), HMAC and HKDF (RFC 2104,
RFC 5869; R496), the curve brainpoolP384r1 (RFC 5639), ECDSA with RFC 6979's k (R493, R497), and as much of DER and X.509 as R498 names. PRESUMED, log 133:
these are the standards' rules as they stand outside the manual. -/

namespace Sys2Proof.Machine

/-! ## SHA-384 -/

/-- The 64-bit words of a number of `n` words, the most significant first. -/
def packed : Nat → Nat → List Nat
  | 0, _ => []
  | n + 1, x => x / 2 ^ (64 * n) :: packed n (x % 2 ^ (64 * n))

/-- The round constants, the first 64 fraction bits of the cube roots of the first 80 primes, five to a number. -/
def rootBits : List Nat :=
  [0x428a2f98d728ae227137449123ef65cdb5c0fbcfec4d3b2fe9b5dba58189dbbc3956c25bf348b538,
   0x59f111f1b605d019923f82a4af194f9bab1c5ed5da6d8118d807aa98a303024212835b0145706fbe,
   0x243185be4ee4b28c550c7dc3d5ffb4e272be5d74f27b896f80deb1fe3b1696b19bdc06a725c71235,
   0xc19bf174cf692694e49b69c19ef14ad2efbe4786384f25e30fc19dc68b8cd5b5240ca1cc77ac9c65,
   0x2de92c6f592b02754a7484aa6ea6e4835cb0a9dcbd41fbd476f988da831153b5983e5152ee66dfab,
   0xa831c66d2db43210b00327c898fb213fbf597fc7beef0ee4c6e00bf33da88fc2d5a79147930aa725,
   0x06ca6351e003826f142929670a0e6e7027b70a8546d22ffc2e1b21385c26c9264d2c6dfc5ac42aed,
   0x53380d139d95b3df650a73548baf63de766a0abb3c77b2a881c2c92e47edaee692722c851482353b] ++
  [0xa2bfe8a14cf10364a81a664bbc423001c24b8b70d0f89791c76c51a30654be30d192e819d6ef5218,
   0xd69906245565a910f40e35855771202a106aa07032bbd1b819a4c116b8d2d0c81e376c085141ab53,
   0x2748774cdf8eeb9934b0bcb5e19b48a8391c0cb3c5c95a634ed8aa4ae3418acb5b9cca4f7763e373,
   0x682e6ff3d6b2b8a3748f82ee5defb2fc78a5636f43172f6084c87814a1f0ab728cc702081a6439ec,
   0x90befffa23631e28a4506cebde82bde9bef9a3f7b2c67915c67178f2e372532bca273eceea26619c,
   0xd186b8c721c0c207eada7dd6cde0eb1ef57d4f7fee6ed17806f067aa72176fba0a637dc5a2c898a6,
   0x113f9804bef90dae1b710b35131c471b28db77f523047d8432caab7b40c724933c9ebe0a15c9bebc,
   0x431d67c49c100d4c4cc5d4becb3e42b6597f299cfc657e2a5fcb6fab3ad6faec6c44198c4a475817]

/-- The first 64 fraction bits of the square roots of the ninth to the sixteenth prime: the chained words at a message's start. -/
def firstChain : List Nat :=
  packed 8 0xcbbb9d5dc1059ed8629a292a367cd5079159015a3070dd17152fecd8f70e593967332667ffc00b318eb44a8768581511db0c2e0d64f98fa747b5481dbefa4fa4

/-- The sum modulo 2 of a word turned right by each amount of a list. -/
def turned (l : List Nat) (x : Nat) : Nat := l.foldl (fun y n => y ^^^ (x * 2 ^ 64 + x) / 2 ^ n % 2 ^ 64) 0

/-- The rounds of a block, one for each constant. The eight words stand as two runs of four, newest first: a round puts one new word in front of each.
`w` holds the schedule's next sixteen words. -/
def rounds : List Nat → List Nat → List Nat → List Nat → List Nat
  | k :: ks, w :: ws, [a, b, c, d], [e, f, g, h] =>
    let x := h + k + w + turned [14, 18, 41] e + (g ^^^ (e &&& (f ^^^ g)))
    let far := ws.getD 0 0
    let near := ws.getD 13 0
    let next := w + ws.getD 8 0 + (turned [1, 8] far ^^^ far / 128) + (turned [19, 61] near ^^^ near / 64)
    let y := x + turned [28, 34, 39] a + (a &&& b ||| c &&& (a ||| b))
    rounds ks (ws ++ [next % 2 ^ 64]) [y % 2 ^ 64, a, b, c] [(d + x) % 2 ^ 64, e, f, g]
  | _, _, l, m => l ++ m

/-- Bytes as a big-endian number. -/
def ofBE (l : List Byte) : Nat := l.foldl (fun x b => 256 * x + b.toNat) 0

/-- A number as `n` big-endian bytes. -/
def beBytes (n x : Nat) : List Byte := (leBytes n x).reverse

/-- The chained words after each block of 128 bytes, of `n`, is taken in: each word plus what the rounds make of it. -/
def chained : Nat → List Byte → List Nat → List Nat
  | 0, _, l => l
  | n + 1, m, l =>
    chained n (m.drop 128) (((rounds (rootBits.flatMap (packed 5)) (packed 16 (ofBE (m.take 128))) (l.take 4) (l.drop 4)).zip l).map fun p => (p.1 + p.2) % 2 ^ 64)

/-- SHA-384, 48 bytes in the standard's order: of the message, 0x80, zeros up to whole blocks, and the message's length in bits. -/
def sha384 (l : List Byte) : List Byte :=
  let fill := (239 - l.length % 128) % 128
  let m := l ++ 0x80 :: zeros fill ++ beBytes 16 (8 * l.length)
  ((chained (m.length / 128) m firstChain).take 6).flatMap (beBytes 8)

/-! ## HMAC and HKDF (R496, R497) -/

/-- HMAC-SHA-384; a key longer than a block does not occur here. -/
def hmac (key msg : List Byte) : List Byte :=
  let k := key ++ zeros (128 - key.length)
  sha384 (k.map (· ^^^ 0x5C) ++ sha384 (k.map (· ^^^ 0x36) ++ msg))

/-- HKDF-SHA-384 with an empty salt, 64 bytes. -/
def hkdf (ikm info : List Byte) : List Byte :=
  let prk := hmac (zeros 48) ikm
  let t1 := hmac prk (info ++ [1])
  (t1 ++ hmac prk (t1 ++ info ++ [2])).take 64

/-! ## The curve brainpoolP384r1 -/

def curveP : Nat := 0x8cb91e82a3386d280f5d6f7e50e641df152f7109ed5456b412b1da197fb71123acd3a729901d1a71874700133107ec53
def curveA : Nat := 0x7bc382c63d8c150c3c72080ace05afa0c2bea28e4fb22787139165efba91f90f8aa5814a503ad4eb04a8c7dd22ce2826
def curveB : Nat := 0x04a8c7dd22ce28268b39b55416f0447c2fb77de107dcd2a62e880ea53eeb62d57cb4390295dbc9943ab78696fa504c11
/-- The order n of the base point. -/
def curveN : Nat := 0x8cb91e82a3386d280f5d6f7e50e641df152f7109ed5456b31f166e6cac0425a7cf3ab6af6b7fc3103b883202e9046565

/-- A point: none is the point at infinity. -/
abbrev Point := Option (Nat × Nat)

/-- The base point G. -/
def curveG : Point :=
  some (0x1d1c64f068cf45ffa2a63a81b7c13f6b8847a3e77ef14fe3db7fcafe0cbd10e8e826e03436d646aaef87b2e247d4af1e,
    0x8abe1d7520f9c2a45cb1eb8e95cfd55262b70b29feec5864e19c054ff99129280e4646217791811142820341263c5315)

/-- x to the power e modulo m, over the low `bits` bits of e. -/
def powMod (m : Nat) : Nat → Nat → Nat → Nat
  | 0, _, _ => 1
  | b + 1, x, e => (if e % 2 = 1 then x else 1) * powMod m b (x * x % m) (e / 2) % m

/-- The inverse modulo a prime of at most 384 bits. -/
def invMod (m x : Nat) : Nat := powMod m 384 (x % m) (m - 2)

/-- x − y modulo m. -/
def subMod (m x y : Nat) : Nat := (x % m + (m - y % m)) % m

/-- A point in Jacobian coordinates: (X / Z², Y / Z³), Z = 0 the point at infinity. -/
structure Jac where
  x : Nat
  y : Nat
  z : Nat

/-- Twice a point. -/
def Jac.double (p : Jac) : Jac :=
  let yy := p.y * p.y % curveP
  let s := 4 * p.x * yy % curveP
  let zz := p.z * p.z % curveP
  let m := (3 * p.x * p.x + curveA * zz % curveP * zz) % curveP
  let x := subMod curveP (m * m) (2 * s)
  { x := x, y := subMod curveP (m * subMod curveP s x) (8 * yy * yy), z := 2 * p.y * p.z % curveP }

/-- The group's addition. -/
def Jac.add (p q : Jac) : Jac :=
  if p.z = 0 then q
  else if q.z = 0 then p
  else
    let pz := p.z * p.z % curveP
    let qz := q.z * q.z % curveP
    let u := p.x * qz % curveP
    let v := p.y * qz % curveP * q.z % curveP
    let h := subMod curveP (q.x * pz) u
    let r := subMod curveP (q.y * pz % curveP * p.z) v
    if h = 0 then (if r = 0 then p.double else { x := 1, y := 1, z := 0 })
    else
      let hh := h * h % curveP
      let w := u * hh % curveP
      let x := subMod curveP (r * r) (hh * h + 2 * w)
      { x := x, y := subMod curveP (r * subMod curveP w x) (v * hh % curveP * h), z := h * p.z % curveP * q.z % curveP }

/-- e·P over the low `b` bits of e. -/
def jacMul : Nat → Nat → Jac → Jac
  | 0, _, _ => { x := 1, y := 1, z := 0 }
  | b + 1, e, p => (if e % 2 = 1 then p else { x := 1, y := 1, z := 0 }).add (jacMul b (e / 2) p.double)

/-- A point in Jacobian coordinates. -/
def toJac (p : Point) : Jac :=
  match p with
  | some (x, y) => { x := x, y := y, z := 1 }
  | none => { x := 1, y := 1, z := 0 }

/-- The point that Jacobian coordinates name. -/
def ofJac (p : Jac) : Point :=
  if p.z = 0 then none
  else
    let i := invMod curveP p.z
    let ii := i * i % curveP
    some (p.x * ii % curveP, p.y * ii % curveP * i % curveP)

/-- e·P for e below 2^384. -/
def pointMul (e : Nat) (p : Point) : Point := ofJac (jacMul 384 e (toJac p))

/-- e·P + f·Q. -/
def pointSum (e : Nat) (p : Point) (f : Nat) (q : Point) : Point := ofJac ((jacMul 384 e (toJac p)).add (jacMul 384 f (toJac q)))

/-- The point that 97 bytes of SEC 1 uncompressed encoding name, none where they name no point of the curve (R493). -/
def toPoint (l : List Byte) : Point :=
  let x := ofBE ((l.drop 1).take 48)
  let y := ofBE (l.drop 49)
  if l.length = 97 ∧ l.head? = some 4 ∧ x < curveP ∧ y < curveP ∧ y * y % curveP = (x * x * x + curveA * x + curveB) % curveP then some (x, y) else none

/-- A point's SEC 1 uncompressed encoding. -/
def ofPoint (p : Point) : List Byte :=
  match p with
  | some (x, y) => 4 :: beBytes 48 x ++ beBytes 48 y
  | none => [0]

/-- Whether bytes are a valid finite point of the curve (R493). -/
def pointOk (l : List Byte) : Bool := (toPoint l).isSome

/-! ## ECDSA with SHA-384 (R493, R497) -/

/-- Whether a signature r ‖ s of 48 bytes each verifies over a message under a public key. -/
def ecdsaOk (key sig msg : List Byte) : Bool :=
  let r := ofBE (sig.take 48)
  let t := ofBE (sig.drop 48)
  let z := ofBE (sha384 msg)
  if pointOk key ∧ sig.length = 96 ∧ 0 < r ∧ r < curveN ∧ 0 < t ∧ t < curveN then
    let w := invMod curveN t
    match pointSum (z * w % curveN) curveG (r * w % curveN) (toPoint key) with
    | some (x, _) => x % curveN == r
    | none => false
  else false

/-- The first k of RFC 6979's sequence, of at most `n`, that gives a signature; r and s with it. -/
def signTries (d z : Nat) : Nat → List Byte → List Byte → Nat × Nat
  | 0, _, _ => (0, 0)
  | n + 1, key, v =>
    let v := hmac key v
    let k := ofBE v
    let r := match pointMul k curveG with
      | some (x, _) => x % curveN
      | none => 0
    let t := invMod curveN k * (z + r * d) % curveN
    if 0 < k ∧ k < curveN ∧ 0 < r ∧ 0 < t then (r, t)
    else
      let key := hmac key (v ++ [0])
      signTries d z n key (hmac key v)

/-- The signature r ‖ s over a message with a private key, k derived as RFC 6979 states (R497); the sequence is followed for 1,000 values. -/
def ecdsaSign (d : Nat) (msg : List Byte) : List Byte :=
  let hash := sha384 msg
  let z := ofBE hash
  let seed := beBytes 48 d ++ beBytes 48 (z % curveN)
  let v0 := List.replicate 48 (1 : Byte)
  let k1 := hmac (zeros 48) (v0 ++ [0] ++ seed)
  let v1 := hmac k1 v0
  let k2 := hmac k1 (v1 ++ [1] ++ seed)
  let sig := signTries d (z % curveN) 1000 k2 (hmac k2 v1)
  beBytes 48 sig.1 ++ beBytes 48 sig.2

/-! ## The identity (R496) -/

/-- The ASCII bytes of R496's info: XW7 identity v1. -/
def identityInfo : List Byte := [0x58, 0x57, 0x37, 0x20, 0x69, 0x64, 0x65, 0x6E, 0x74, 0x69, 0x74, 0x79, 0x20, 0x76, 0x31]

/-- The private key d of a unique secret; its 48 bytes are taken big-endian (DESIGN CHOICE, log 133). -/
def identityKey (secret : BitVec 384) : Nat := ofBE (hkdf (beBytes 48 secret.toNat) identityInfo) % (curveN - 1) + 1

/-- The public key Q = d·G, 97 bytes SEC 1 uncompressed. -/
def identityPub (d : Nat) : List Byte := ofPoint (pointMul d curveG)

/-! ## DER and X.509 (R498) -/

/-- One DER element: its tag, its content, the element whole, and what follows it. -/
structure Der where
  tag  : Byte
  body : List Byte
  all  : List Byte
  rest : List Byte

/-- The element at the start of bytes, in DER: one-byte tags, definite lengths, the shortest form. -/
def derAt (b : List Byte) : Option Der :=
  match b with
  | tag :: len :: t =>
    let k := len.toNat % 128
    let n := if len.toNat < 128 then len.toNat else ofBE (t.take k)
    let body := if len.toNat < 128 then t else t.drop k
    let short := len.toNat < 128 || (decide (0 < k) && decide (k ≤ 4) && decide (128 ≤ n) && decide (256 ^ (k - 1) ≤ n) && decide (k ≤ t.length))
    if tag.toNat % 32 ≠ 31 ∧ short ∧ n ≤ body.length then
      some { tag := tag, body := body.take n, all := b.take (b.length - (body.length - n)), rest := body.drop n }
    else none
  | _ => none

/-- The elements that bytes are made of, at most `n`, where they are whole elements. -/
def derList : Nat → List Byte → Option (List Der)
  | 0, b => if b.isEmpty then some [] else none
  | n + 1, b =>
    if b.isEmpty then some []
    else match derAt b with
      | some e => (derList n e.rest).map (e :: ·)
      | none => none

/-- The elements inside a constructed element with a tag. -/
def derIn (tag : Byte) (e : Der) : Option (List Der) := if e.tag = tag then derList 64 e.body else none

/-- ecdsa-with-SHA384, id-ecPublicKey and brainpoolP384r1, as object identifiers' contents. -/
def oidSig : List Byte := [0x2A, 0x86, 0x48, 0xCE, 0x3D, 0x04, 0x03, 0x03]
def oidKey : List Byte := [0x2A, 0x86, 0x48, 0xCE, 0x3D, 0x02, 0x01]
def oidCurve : List Byte := [0x2B, 0x24, 0x03, 0x03, 0x02, 0x08, 0x01, 0x01, 0x0B]

/-- Whether an element is an object identifier with this content. -/
def isOid (e : Der) (o : List Byte) : Bool := e.tag == 0x06 && e.body == o

/-- An element's bit string of whole bytes. -/
def derBits (e : Der) : Option (List Byte) := if e.tag = 0x03 ∧ e.body.head? = some 0 then some (e.body.drop 1) else none

/-- A DER integer as 48 big-endian bytes; a number out of range becomes zero, which no signature holds. -/
def derScalar (e : Der) : List Byte :=
  if e.tag = 0x02 ∧ ofBE e.body < 2 ^ 384 ∧ ((e.body.headD 0xFF).toNat < 128) then beBytes 48 (ofBE e.body) else zeros 48

/-- An ECDSA signature value, a sequence of r and s, as r ‖ s. -/
def derSig (b : List Byte) : List Byte :=
  match derAt b with
  | some e => match derIn 0x30 e with
    | some [r, t] => if e.rest.isEmpty then derScalar r ++ derScalar t else zeros 96
    | _ => zeros 96
  | none => zeros 96

/-- The subject public key of a SubjectPublicKeyInfo: an elliptic-curve key on brainpoolP384r1. -/
def derKey (e : Der) : Option (List Byte) :=
  match derIn 0x30 e with
  | some [alg, key] => match derIn 0x30 alg, derBits key with
    | some [a, c], some k => if isOid a oidKey ∧ isOid c oidCurve then some k else none
    | _, _ => none
  | _ => none

/-- The public key of a version 3 TBSCertificate: version, serial number, signature, issuer, validity, subject, key, then optional elements. -/
def tbsKey (e : Der) : Option (List Byte) :=
  match derIn 0x30 e with
  | some (ver :: serial :: alg :: issuer :: valid :: subject :: key :: _) =>
    if ver.tag = 0xA0 ∧ ver.body = [0x02, 0x01, 0x02] ∧ serial.tag = 0x02 ∧ alg.tag = 0x30 ∧ issuer.tag = 0x30 ∧ valid.tag = 0x30 ∧ subject.tag = 0x30 then derKey key
    else none
  | _ => none

/-- A certificate: its signed bytes, its signature r ‖ s (zeros where its algorithm is another) and its public key; none where it does not parse. -/
def certOf (e : Der) : Option (List Byte × List Byte × List Byte) :=
  match derIn 0x30 e with
  | some [tbs, alg, sig] => match tbsKey tbs, derIn 0x30 alg, derBits sig with
    | some k, some (a :: _), some v => some (tbs.all, if isOid a oidSig then derSig v else zeros 96, k)
    | _, _, _ => none
  | _ => none

/-- The certificates of a chain laid end to end: 1 to 4 (R498). -/
def certParse (b : List Byte) : Option (List (List Byte × List Byte × List Byte)) := (derList 4 b).bind (·.mapM certOf)

end Sys2Proof.Machine
end

