-- ==== Sys2Proof/Machine/EdgePort.lean ====
section
/-! DEFINITION. Edge ports: setup, identity, training, HELLO, the link layer's receiver, replay, time probes and the cable (R323 to R337,
R343, R344, R348, R349, R352, R518). -/

namespace Sys2Proof.Machine

/-! ## Setup (R326, R341, R351, R353, R531) -/

/-- A BAR0 write whose effect the Vintner carries out: now, or once MGMT reopens, the last value only (R531). -/
def viaMgmt (off v : Nat) (f : State → State) (s : State) : Res :=
  onLink (fun s => if isOpen s mgmtCode then f s else { s with deferred := put off (BitVec.ofNat 64 v) s.deferred }) s

/-- The BAR0 offsets of the EDGE block (R353, R529). -/
def engineIdOff : Nat := 0x90000
def timeoutOff : Nat := 0x90008
def portCtlOff (n : Nat) : Nat := 0x90100 + 0x40 * n
def routeOff (d : Nat) : Nat := 0x91000 + 8 * d

/-- A port with the fields of a PORTn_CTL write (R353). -/
def withCtl (p : Port) (v : Nat) : Port :=
  { p with en := bitsOf v 0 1 == 1, noid := bitsOf v 1 1 == 1, minw := bitsOf v 2 2, tsync := bitsOf v 4 1 == 1,
           pcmax := bitsOf v 5 3, tpeer := bitsOf v 8 8 }

/-- A write of PORTn_CTL: EN 1 lets a DISABLED port read its identity, EN 0 disables it (R326, R327). The table of R326 names this exit for UP and FAILED
only; that it holds in every state is the model's choice, as the summary of the row PORT_DISABLE has it (log 167). -/
def portCtl (n : Fin 24) (v : Nat) (s : State) : State :=
  let s := updPort n (fun p => withCtl p v) s
  if (portOf s n).en then servePort s n
  else if (portOf s n).st = .disabled then s
  else disablePort n s

/-- A CTL value with EN set or clear. -/
def ctlEn (v : Word) (en : Bool) : Nat := v.toNat / 2 * 2 + if en then 1 else 0

/-- PORT_ENABLE, PORT_DISABLE (R326). -/
def execPortEnable (n : Fin 24) (v : Word) (s : State) : Res :=
  viaMgmt (portCtlOff n.val) (ctlEn v true) (portCtl n (ctlEn v true)) s
def execPortDisable (n : Fin 24) (v : Word) (s : State) : Res :=
  viaMgmt (portCtlOff n.val) (ctlEn v false) (portCtl n (ctlEn v false)) s

/-- ENGINE_ID (R351, R353): ignored while any port is not DISABLED. -/
def setEngineId (v : Nat) (s : State) : State :=
  if s.edge.ports.toList.all fun p => p.st == .disabled then { s with edge := { s.edge with engineId := v % 256 } } else s
def execEngineId (v : Word) (s : State) : Res := viaMgmt engineIdOff v.toNat (setEngineId v.toNat) s

/-- EDGE.TIMEOUT (R353). -/
def setTimeout (v : Nat) (s : State) : State := { s with edge := { s.edge with timeout := v % 2 ^ 20 } }

/-- Whether a channel is within a message. -/
def midMessage (c : EChan) : Bool := c.tx.any fun m => decide (0 < m.sent) && !m.done

/-- ROUTE (R341, R346): the new mask holds at once but for channels within a message, which keep the old one up to its end. -/
def setRoute (d : Fin 128) (v : Nat) (s : State) : State :=
  let old := s.edge.routes[d]
  let busy := s.edge.chans.filter fun e => e.1 / 256 == d.val && midMessage e.2 && !(s.edge.pendMask.any fun p => p.1 == e.1)
  let held := s.edge.pendMask ++ busy.map fun e => (e.1, old)
  let s := { s with edge := { s.edge with routes := s.edge.routes.set d (BitVec.ofNat 24 v), pendMask := held } }
  ((s.edge.chans.filter fun e => e.1 / 256 == d.val).map (·.1)).foldl (fun s k => pump k (routeGone k s)) s
def execRoute (d : Fin 128) (v : DWord) (s : State) : Res := viaMgmt (routeOff d.val) v.toNat (setRoute d v.toNat) s

/-! ## Identity and training (R324 to R330) -/

/-- The lanes that PORTn_CTL.MINW asks for (R353: 3 acts as 2). -/
def minLanes (p : Port) : Nat := match p.minw with
  | 0 => 2
  | 1 => 4
  | _ => 8

/-- A byte of a page or body. -/
def byteAt (b : List Byte) (i : Nat) : Nat := ((b[i]?).getD 0).toNat

/-- The first condition of R329 that an identity read fails, numbered from 1. -/
def pageFault (p : Port) (page : Option (List Byte)) : Option Nat :=
  match page with
  | none => some 1
  | some b =>
    if b.length ≠ 64 then some 1
    else if (crc16 (b.take 62)).toNat ≠ fieldLE b 62 2 then some 2
    else if byteAt b 0 ≠ 1 then some 3
    else if byteAt b 2 < minLanes p then some 4
    else if byteAt b 3 < 64 then some 5
    else if 10000 < fieldLE b 4 2 then some 6
    else if p.pcmax < byteAt b 6 then some 7
    else none

/-- The identity read of a port ends (R328 to R330, R518): the cable end is powered for PCLASS 1 to 4. -/
def identityEnd (n : Fin 24) (page : Option (List Byte)) (s : State) : State :=
  let p := portOf s n
  match pageFault p page with
  | none =>
    let b := page.getD []
    updPort n (fun p => { p with idok := true, idpage := b, power := if byteAt b 6 ≤ 4 then byteAt b 6 else 0 }) (portTo n .training s)
  | some i =>
    if p.noid then updPort n (fun p => { p with idok := false, idpage := [], power := 0 }) (portTo n .training s)
    else logRec { portRec s 0x12 1 n.val with info := i } (failQuiet n s)

/-- The port of a connector bank whose identity is read over the bank's two-wire bus (R328: one at a time): of those in ID_READ the one that entered first, of several
the lowest number (log 168). -/
def busPort (s : State) (bank : Nat) : Option (Fin 24) :=
  ((List.range 6).map fun i => fin24 (6 * bank + i)).foldl (fun b n =>
    if (portOf s n).st ≠ .idRead then b
    else match b with
      | none => some n
      | some m => if (portOf s n).at_ < (portOf s m).at_ then some n else b) none

/-- The channel of the bank's switch that is selected: that of the port being read (R328). -/
def busChannel (s : State) (bank : Nat) : Option Nat := (busPort s bank).map fun n => n.val % 6

/-- IDENTITY_READ (R328, R329): 64 bytes of the port that its bank's bus reads. -/
def execIdentityRead (n : Fin 24) (page : Option (List Byte)) (s : State) : Res :=
  .next (if busPort s (n.val / 6) = some n then identityEnd n page s else s)

/-- The lane groups that a port may use, widest first and of one width the lowest lanes first (R325, R329): width and lowest lane. -/
def laneGroups (p : Port) : List (Nat × Nat) :=
  ([8, 4, 2].filter fun w => decide (minLanes p ≤ w) && (!p.idok || decide (w ≤ byteAt p.idpage 2))).flatMap fun w =>
    (List.range (8 / w)).map fun i => (w, w * i)

/-- The lane numbers that a port sends in training (R324): each lane its own. What this engine receives corrects its receiver only; the peer's receiver corrects the
other direction by these. -/
def laneNumbers : List Nat := List.range 8

/-- The order of the lanes as the numbers heard show it (R324). -/
def heardOrder (tr : Trained) : LaneOrder :=
  let all (g : Nat → Nat) : Bool := (List.range 8).all fun i => match tr.heard[i]? with
    | some x => decide (8 ≤ x) || x == g i
    | none => true
  if all id then .straight else if all (7 - ·) then .reversed else .other

/-- The lane group that training chooses (R324, R325): none where no allowed group passes whole, the lanes arrive in another order than straight or reversed, or
their skew is beyond 32 ns. -/
def trainGroup (p : Port) (tr : Trained) : Option (Nat × Nat) :=
  if heardOrder tr = .other ∨ 32 < tr.skew then none
  else (laneGroups p).find? fun g => (List.range g.1).all fun i => tr.pass.getLsbD (g.2 + i)

/-- A port with the outcome of its training. -/
def withGroup (g : Nat × Nat) (tr : Trained) (p : Port) : Port := { p with width := g.1, base := g.2, rev := heardOrder tr == .reversed, inv := tr.inverted }

/-- TRAINING_DONE (R324 to R326). -/
def execTrainingDone (n : Fin 24) (tr : Trained) (s : State) : Res :=
  let p := portOf s n
  .next (if p.st ≠ .training then s
    else match trainGroup p tr with
      | some g => updPort n (fun p => { withGroup g tr p with heard := false, hellos := 0, badCw := 0, cwLeft := 0, cwBad := false }) (portTo n .hello s)
      | none => failPort n s)

/-- The bound of a port's state in time units (R326). With an engine ID above 127 no port leaves HELLO (R344). -/
def stBound (s : State) (p : Port) : Option Nat :=
  match p.st with
  | .idRead => some (ms 5)
  | .training => some (ms 50)
  | .hello => if 127 < ownId s then none else some (ms 1)
  | _ => none

/-- TRAINING_TIMEOUT (R326, R329, R330): an identity read that has not ended is one that the device does not answer. -/
def execTrainingTimeout (n : Fin 24) (s : State) : Res :=
  let p := portOf s n
  match stBound s p with
  | none => .next s
  | some b =>
    .next (if s.time < p.at_ + b then s
      else if p.st = .idRead then identityEnd n none s
      else failPort n s)

/-- FAILED_RETRY (R326, R402): 1 s after the failure, while EN is 1 and the port is served. -/
def execFailedRetry (n : Fin 24) (s : State) : Res :=
  let p := portOf s n
  .next (if p.st = .failed ∧ p.en ∧ p.at_ + ms 1000 ≤ s.time ∧ portServed s n ∧ isOpen s (edgeCode n.val) then idRead n s else s)

/-! ## Receiving flits (R331 to R337, R352) -/

/-- Sends a NAK with the expected SEQ, at most once per 2 µs (R335, R337). -/
def sendNak (n : Fin 24) (s : State) : State :=
  let p := portOf s n
  let ok : Bool := match p.nakAt with
    | none => true
    | some t => decide (t + us 2 ≤ s.time)
  if p.st == .up && ok then
    sendCtrl n ([2] ++ leBytes 2 p.rxSeq.toNat) (updPort n (fun p => { p with nakAt := some s.time }) s)
  else s

/-- Counts a discarded flit or packet (R353). -/
def countBad (n : Fin 24) (s : State) : State := updPort n (fun p => { p with crcErr := sat32 (p.crcErr + 1) }) s

/-- Message bits of a codeword (R331: 514 symbols of 10 bits), and of a flit. -/
def cwBits : Nat := 5140
def flitBits : Nat := 2048

/-- Whether a codeword begins within a port's next flit (R331: flits lie back to back in the message bits of the codewords). -/
def cwBegins (p : Port) : Bool := decide (p.cwLeft < flitBits)

/-- Whether the codeword that begins in a flit is uncorrectable (R331): more than 15 symbols are beyond the decoder. -/
def cwLost (f : Flit) : Bool := f.uncorr || decide (15 < f.fixed)

/-- Whether a flit overlaps an uncorrectable codeword (R332). -/
def flitLost (p : Port) (f : Flit) : Bool := (decide (0 < p.cwLeft) && p.cwBad) || (cwBegins p && cwLost f)

/-- A port past a flit: how much of the codeword in progress is still to come. -/
def pastFlit (f : Flit) (p : Port) : Port :=
  if cwBegins p then { p with cwLeft := p.cwLeft + cwBits - flitBits, cwBad := cwLost f } else { p with cwLeft := p.cwLeft - flitBits }

/-- What the FEC decoder made of the codeword that begins in a flit is counted and logged; four uncorrectable codewords in a row end the codeword
lock (R331, R332, R352). -/
def fecNote (n : Fin 24) (f : Flit) (s : State) : State :=
  let begins := cwBegins (portOf s n)
  let s := updPort n (pastFlit f) s
  if !begins then s
  else
    let s := if f.fixed = 0 ∨ cwLost f then s else
      logRec { portRec s 0x10 0 n.val with info := f.fixed } (updPort n (fun p => { p with corr := sat32 (p.corr + f.fixed) }) s)
    if cwLost f then
      let s := updPort n (fun p => { p with uncorr := sat32 (p.uncorr + 1), badCw := p.badCw + 1 }) s
      if (portOf s n).st = .up ∧ 4 ≤ (portOf s n).badCw then retrainPort n s else s
    else updPort n (fun p => { p with badCw := 0 }) s

/-- The ACK and the credits of a flit are applied (R334 to R336). -/
def applyAck (f : Flit) (now : Nat) (p : Port) : Port :=
  let p := match p.replay with
    | [] => p
    | g :: _ =>
      let k := (f.ack - g.1.seq).toNat
      if 0 < k ∧ k ≤ p.replay.length then { p with replay := p.replay.drop k, ackAt := now } else p
  let v : Fin 4 := ⟨f.cvc.toNat, by have := f.cvc.isLt; omega⟩
  { p with txCred := p.txCred.set v (p.txCred[v] + f.ccnt.toNat) }

/-- A flit arrives at a port that carries flits: a bad one is discarded with its record and a NAK, a good one's ACK and credits are applied
before `good` acts; then IDLEs carry the news that no other flit has (R332, R334, R335). -/
def takeFlit (n : Fin 24) (f : Flit) (good : State → State) (s : State) : State :=
  let st := (portOf s n).st
  if st ≠ .up ∧ st ≠ .hello ∧ st ≠ .retrain then s
  else
    let lost := flitLost (portOf s n) f
    let s := fecNote n f s
    if lost || !flitOk f then idles n 64 (sendNak n (logRec { portRec s 0x11 1 n.val with info := 1 } (countBad n s)))
    else
      let s := if st = .up then updPort n (applyAck f s.time) s else s
      let s := good s
      if (portOf s n).st = .up then idles n 64 (pumpPort n s) else s

/-- The packet fields of a transport header (R338). -/
def pktOf (h : Nat) (b : List Byte) : EdgePkt :=
  { src := bitsOf h 0 8, dst := bitsOf h 8 8, chan := bitsOf h 16 8, psn := bitsOf h 24 16, mfirst := bitsOf h 46 1 == 1,
    mlast := bitsOf h 47 1 == 1, kind := bitsOf h 56 3, abort := bitsOf h 59 1 == 1, inc := bitsOf h 60 4, bytes := b, flits := 1 }

/-- Whether a further flit continues a packet. -/
def samePkt (a b : EdgePkt) : Bool := a.src == b.src && a.dst == b.dst && a.chan == b.chan && a.psn == b.psn && a.kind == b.kind

/-- Whether a flit may be part of a packet that has `sofar` bytes (R336, R338): on its packet's virtual channel, full but for the last, at most 4,096 bytes in the
packet, and a TACK or HEARTBEAT in one flit. -/
def partFits (vc : Nat) (h : Nat) (part : EdgePkt) (sofar : Nat) : Bool :=
  let vlen := bitsOf h 48 8
  let pend := bitsOf h 45 1 == 1
  decide (vlen ≤ 240) && (pend || vlen == 240) && vcOf part == vc && decide (sofar + vlen ≤ 4096) &&
  (part.kind == 0 || decide (3 ≤ part.kind) || (pend && bitsOf h 40 5 == 0))

/-- Flits of a virtual channel are passed on: so many credits are due back (R336). -/
def passOn (n : Fin 24) (vc k : Nat) (s : State) : State :=
  let v := fin4 vc
  updPort n (fun p => { p with rxCred := p.rxCred.set v (p.rxCred[v] + k) }) s

/-- A DATA flit's part joins its packet; a whole packet waits for the transport and its flits stay in the receive buffer (R336, R338). What fits no packet is discarded and
counted, a packet left unfinished with it, and its flits leave the buffer. -/
def assemble (n : Fin 24) (f : Flit) (s : State) : State :=
  let h := f.thdr.toNat
  let vc := f.vc.toNat
  let p := portOf s n
  let part := pktOf h (f.body.take (min 240 (bitsOf h 48 8)))
  let fidx := bitsOf h 40 5
  let begun := find? p.partials vc
  let old := match begun with
    | some q => q.flits
    | none => 0
  let whole : Option EdgePkt :=
    if fidx = 0 then (if partFits vc h part 0 then some part else none)
    else match begun with
      | some q => if samePkt q part && q.bytes.length == 240 * fidx && partFits vc h part q.bytes.length then
          some { q with bytes := q.bytes ++ part.bytes, flits := q.flits + 1 } else none
      | none => none
  let rest := p.partials.filter fun e => e.1 != vc
  let s := if fidx = 0 ∧ begun.isSome then passOn n vc old (countBad n s) else s
  match whole with
  | none => passOn n vc (if fidx = 0 then 1 else old + 1) (countBad n (updPort n (fun p => { p with partials := rest }) s))
  | some q =>
    if bitsOf h 45 1 = 1 then updPort n (fun p => { p with partials := rest, inbox := p.inbox ++ [q] }) s
    else updPort n (fun p => { p with partials := rest ++ [(vc, q)] }) s

/-- A DATA flit with the expected SEQ is taken (R335). -/
def acceptData (n : Fin 24) (f : Flit) (s : State) : State :=
  assemble n f (updPort n (fun p => { p with rxSeq := p.rxSeq + 1 }) s)

/-- DATA (R335): accepted in sequence only. -/
def execData (n : Fin 24) (f : Flit) (s : State) : Res :=
  if f.ftype ≠ 1 ∨ (portOf s n).st ≠ .up then .next s
  else .next (takeFlit n f (fun s => if f.seq = (portOf s n).rxSeq then acceptData n f s else sendNak n (countBad n s)) s)

/-- IDLE (R334). -/
def execIdle (n : Fin 24) (f : Flit) (s : State) : Res := if f.ftype ≠ 0 then .next s else .next (takeFlit n f id s)

/-- A CTRL flit of a subtype, discarded and counted where the subtype is unknown (R337). -/
def ctrlFlit (sub : Nat) (n : Fin 24) (f : Flit) (act : State → State) (s : State) : Res :=
  let b := byteAt f.body 0
  if f.ftype ≠ 2 then .next s
  else if b = 0 ∨ 4 < b then .next (takeFlit n f (countBad n) s)
  else if b ≠ sub then .next s
  else .next (takeFlit n f act s)

/-- Replays every unacknowledged flit, with its record; once a flit has been replayed 16 times without an acknowledgement the port retrains (R335, R352). -/
def doReplay (n : Fin 24) (s : State) : State :=
  let p := portOf s n
  if p.st ≠ .up ∨ p.replay.isEmpty then s
  else
    let s := updPort n (fun p => { p with replay := p.replay.map (fun e => (e.1, e.2 + 1)), replays := sat32 (p.replays + 1), ackAt := s.time }) s
    let s := replayAll n (logRec { portRec s 0x11 1 n.val with info := 2 } s)
    if (portOf s n).replay.any fun e => decide (16 ≤ e.2) then retrainPort n s else s

/-- NAK (R335). -/
def execNak (n : Fin 24) (f : Flit) (s : State) : Res := ctrlFlit 2 n f (doReplay n) s

/-- REPLAY_TIMEOUT (R335): 4 µs without ACK progress. -/
def execReplayTimeout (n : Fin 24) (s : State) : Res :=
  .next (if (portOf s n).ackAt + us 4 ≤ s.time then doReplay n s else s)

/-! ## The line of a port (R323, R331) -/

/-- The state of the self-synchronous polynomial x⁵⁸ + x³⁹ + 1 (R323): the 58 line bits before, bit 0 the last; and what it adds to a bit. -/
def scrTap (r : BitVec 58) : Bool := r.getLsbD 38 ^^ r.getLsbD 57
def scrNext (r : BitVec 58) (b : Bool) : BitVec 58 := (r <<< 1) ||| (if b then 1 else 0)

/-- The scrambled bits of a transmitted stream (R323). -/
def scramble : BitVec 58 → List Bool → List Bool
  | _, [] => []
  | r, b :: t =>
    let x := b ^^ scrTap r
    x :: scramble (scrNext r x) t

/-- The bits that the receiver takes from a scrambled stream (R323). -/
def descramble : BitVec 58 → List Bool → List Bool
  | _, [] => []
  | r, x :: t => (x ^^ scrTap r) :: descramble (scrNext r x) t

/-- The bits of flits in the order sent: ascending bytes, the least significant bit first (R334). -/
def flitStream (l : List Flit) : List Bool :=
  l.flatMap fun f => (flitBody f ++ leBytes 4 f.crc.toNat).flatMap fun b => (List.range 8).map b.getLsbD

/-- The symbols of 10 bits of a stream, the first bit least significant. -/
def symbolsOf : Nat → List Bool → List (BitVec 10)
  | 0, _ => []
  | n + 1, l => ((l.take 10).foldr (fun b x => x <<< 1 ||| (if b then 1 else 0)) 0) :: symbolsOf n (l.drop 10)

/-- A codeword of RS(544,514) (R331): 514 message symbols, then 30 of parity. -/
def codeword (l : List Bool) : List (BitVec 10) :=
  let m := symbolsOf 514 l
  m ++ (Config.fecParity m).toList

/-- The symbols of a codeword that each lane of a port sends: dealt round-robin over the active lanes from the lowest of the group (R331). -/
def dealt (p : Port) (w : List (BitVec 10)) (lane : Nat) : List (BitVec 10) :=
  if lane < p.base ∨ p.base + p.width ≤ lane then []
  else (List.range 544).filterMap fun i => if i % p.width = lane - p.base then w[i]? else none

/-! ## HELLO, UP and RETRAIN (R326, R336, R343, R344) -/

/-- The module's serial digest (R343). -/
def snDigest (s : State) : List Byte := (sha384 s.module.sn.toList).take 8

/-- The cable's serial CRC (R343): 0 without identity. -/
def cableSn (p : Port) : Nat := if p.idok then (crc32 ((p.idpage.drop 8).take 16)).toNat else 0

/-- The HELLO body a port sends (R343). -/
def helloBody (s : State) (n : Fin 24) : List Byte :=
  let p := portOf s n
  [1] ++ leBytes 1 (ownId s) ++ leBytes 1 n.val ++ leBytes 1 (if p.tsync then 4 else 0) ++ [1] ++ zeros 3 ++ snDigest s ++
  leBytes 4 (cableSn p) ++ leBytes 2 512 ++ leBytes 2 384 ++ leBytes 2 64 ++ leBytes 2 64

/-- The width code of lanes (R353, R484). -/
def widthCode (w : Nat) : Nat := if w = 8 then 2 else if w = 4 then 1 else 0

/-- How a port stands to its expected topology entry: the first matching row of R485. -/
def portClass (s : State) (n : Fin 24) (e : TopoEnt) : Nat :=
  let p := portOf s n
  let up := p.st == .up
  let named := decide (e.peer ≤ 127) || e.peer == 0xFE
  if ownId s > 127 ∧ e.peer ≠ 0xFD ∧ e.peer ≠ 0xFF then 7
  else if e.peer = 0xFF ∧ up then 6
  else if !named then 0
  else if !up then 1
  else if p.peerId ≠ e.peer then 2
  else if e.port ≠ 0xFF ∧ p.peerPort ≠ e.port then 3
  else if widthCode p.width < e.minw then 4
  else if e.cab ≠ 0 ∧ p.peerCab ≠ e.cab then 5
  else 0

/-- After READY, a port that reached UP with a peer its expected topology rejects goes to FAILED (R486). -/
def rejectPort (n : Fin 24) (s : State) : State :=
  let bad : Bool := match s.boot.topo with
    | some l => match l[n.val]? with
      | some e => portClass s n e != 0
      | none => false
    | none => false
  if s.boot.ready && (portOf s n).st == .up && bad then attn attnTopology (failPort n s) else s

/-- A port enters UP: SEQ starts at 0, and channels it qualifies for may go (R326, R341, R343). -/
def portUp (n : Fin 24) (s : State) : State :=
  let s := updPort n (fun p => { p with
    txSeq := 0, rxSeq := 0, ackSent := 0, again := false, replay := [], nakAt := none, txq := [], rxCred := Vector.replicate 4 0, partials := [],
    inbox := [] }) (portTo n .up s)
  rejectPort n ((s.edge.chans.map (·.1)).foldl (fun s k => pump k s) s)

/-- HELLO_SEND (R343): UP once three HELLOs have been sent after a valid one came. -/
def execHelloSend (n : Fin 24) (s : State) : Res :=
  let p := portOf s n
  if p.st ≠ .hello then .next s
  else
    let s := sendCtrl n (helloBody s n) s
    let s := if p.heard then updPort n (fun p => { p with hellos := p.hellos + 1 }) s else s
    .next (if 3 ≤ (portOf s n).hellos ∧ ownId s ≤ 127 then portUp n s else s)

/-- The peer as a HELLO states it (R343, R353), with its buffer sizes as credits (R336). -/
def withPeer (b : List Byte) (p : Port) : Port :=
  { p with peerId := byteAt b 1, peerPort := byteAt b 2, switched := byteAt b 3 % 2 == 1, tc := byteAt b 3 / 2 % 2 == 1,
           peerSn := BitVec.ofNat 64 (fieldLE b 8 8), peerCab := BitVec.ofNat 32 (fieldLE b 16 4), heard := true,
           hellos := if p.heard then p.hellos else 0,
           txCred := Vector.ofFn fun i : Fin 4 => fieldLE b (20 + 2 * i.val) 2 }

/-- Whether a port's HELLOs are those after a RETRAIN (R344): within it, and UP after it. -/
def retrained (p : Port) : Bool := p.st == .retrain || (p.st == .up && p.again)

/-- A port whose peer has changed over a retrain leaves UP and is brought up again from HELLO, on the lanes that the retrain found (R344, log 169). -/
def newPeer (n : Fin 24) (b : List Byte) (s : State) : State :=
  movePortChans n (updPort n (fun p => withPeer b { linkLost p with width := p.width, base := p.base, rev := p.rev, inv := p.inv }) (portTo n .hello s))

/-- What a good HELLO does (R344). After a retrain the same peer changes nothing, another one is brought up anew. -/
def helloIn (n : Fin 24) (b : List Byte) (s : State) : State :=
  let p := portOf s n
  if 127 < ownId s ∨ (p.st ≠ .hello ∧ ¬ retrained p) then s
  else if byteAt b 1 = ownId s then attn attnTopology (failPort n s)
  else if byteAt b 4 ≠ 1 ∨ (byteAt b 3 % 2 = 1 ∧ byteAt b 1 ≠ 0xFE) then failPort n s
  else if p.st = .hello then updPort n (withPeer b) s
  else if byteAt b 1 = p.peerId ∧ fieldLE b 8 8 = p.peerSn.toNat then s
  else newPeer n b s

/-- HELLO (R344). -/
def execHello (n : Fin 24) (f : Flit) (s : State) : Res := ctrlFlit 1 n f (helloIn n f.body) s

/-- RETRAIN_DONE (R326, R335): with the same peer, from the oldest unacknowledged flit. -/
def execRetrainDone (n : Fin 24) (tr : Trained) (s : State) : Res :=
  let p := portOf s n
  .next (if p.st ≠ .retrain then s
    else match trainGroup p tr with
      | some g =>
        let s := updPort n (fun p => { withGroup g tr p with ackAt := s.time, again := true }) (portTo n .up s)
        let s := pumpPort n (replayAll n s)
        rejectPort n (idles n 64 ((s.edge.chans.map (·.1)).foldl (fun s k => pump k s) s))
      | none => failPort n s)

/-- RETRAIN_TIMEOUT (R326, R335): 10 ms in RETRAIN. -/
def execRetrainTimeout (n : Fin 24) (s : State) : Res :=
  let p := portOf s n
  .next (if p.st = .retrain ∧ p.at_ + ms 10 ≤ s.time then failPort n s else s)

/-! ## The cable (R518) -/

/-- CABLE_REMOVAL (R518): the cable end loses its power, and a port that was UP loses its link and retrains. -/
def execCableRemoval (n : Fin 24) (s : State) : Res :=
  let s := updPort n (fun p => { p with power := 0 }) s
  .next (if (portOf s n).st = .up then retrainPort n s else s)

/-- CBL_OVERCURRENT (R518): a powered cable end above its limit for 1 ms. -/
def execCblOvercurrent (n : Fin 24) (s : State) : Res :=
  .next (if (portOf s n).power = 0 then s
    else failPort n s)

/-! ## Time probes (R348, R349) -/

/-- Engine time as a timestamp, in 2⁻⁸ ns (R348). -/
def stamp (s : State) : Nat := 256 * s.time / unitsPerNs % 2 ^ 64

/-- Whether a port probes its peer, and the engine it probes (R348, R349). -/
def probeDst (s : State) (p : Port) : Option Nat :=
  if !p.switched then some p.peerId
  else if !p.tc || p.tpeer == 0xFF || p.tpeer == ownId s then none
  else some p.tpeer

/-- TSYNC_PROBE (R348). -/
def execTsyncProbe (n : Fin 24) (s : State) : Res :=
  let p := portOf s n
  if p.st ≠ .up ∨ ¬ p.tsync then .next s
  else match probeDst s p with
    | none => .next s
    | some d =>
      let t1 := stamp s
      .next (sendCtrl n ([3] ++ leBytes 1 d ++ leBytes 1 (ownId s) ++ zeros 5 ++ leBytes 8 t1)
        (updPort n (fun p => { p with probe := some (s.time, BitVec.ofNat 64 t1) }) s))

/-- TPROBE (R348): answered when the port's own TSYNC is set. -/
def answerProbe (n : Fin 24) (b : List Byte) (s : State) : State :=
  let p := portOf s n
  if p.st ≠ .up ∨ ¬ p.tsync then s
  else sendCtrl n ([4] ++ leBytes 1 (byteAt b 2) ++ leBytes 1 (ownId s) ++ zeros 5 ++ leBytes 8 (fieldLE b 8 8) ++ leBytes 8 (stamp s) ++
    leBytes 8 (stamp s) ++ leBytes 8 (fieldLE b 32 8)) s
def execTprobe (n : Fin 24) (f : Flit) (s : State) : Res := ctrlFlit 3 n f (answerProbe n f.body) s

/-- Half of a whole number of units; an odd one's rounding is not stated, and `up` is free. -/
def halfOf (x : Int) (up : Bool) : Int := x / 2 + (if x % 2 = 1 ∧ up then 1 else 0)

/-- The offset and delay of a probe (R348). -/
def probeDone (n : Fin 24) (b : List Byte) (s : State) : State :=
  let p := portOf s n
  match p.probe with
  | none => s
  | some (at_, t1) =>
    if p.st ≠ .up ∨ at_ + us 100 < s.time ∨ fieldLE b 8 8 ≠ t1.toNat then s
    else
      let i (o : Nat) : Int := (BitVec.ofNat 64 (fieldLE b o 8)).toInt
      let t1 : Int := t1.toInt
      let t4 : Int := (BitVec.ofNat 64 (stamp s)).toInt
      let fwd := i 16 - t1 - i 32
      let back := t4 - i 24 - i 40
      let fr := freeDWord s
      let up1 := fr.1 % 2 == 1
      let up2 := fr.1 / 2 % 2 == 1
      updPort n (fun p => { p with
        probe := none, toff := BitVec.ofInt 64 (halfOf (fwd - back) up1),
        tdly := BitVec.ofInt 32 (halfOf (t4 - t1 - (i 24 - i 16) - i 32 - i 40) up2) }) fr.2

/-- TREPLY (R348). -/
def execTreply (n : Fin 24) (f : Flit) (s : State) : Res := ctrlFlit 4 n f (probeDone n f.body) s

/-- PROBE_TIMEOUT (R348): the registers stay. -/
def execProbeTimeout (n : Fin 24) (s : State) : Res :=
  match (portOf s n).probe with
  | some (t, _) => .next (if t + us 100 ≤ s.time then updPort n (fun p => { p with probe := none }) s else s)
  | none => .next s

end Sys2Proof.Machine
end

