-- ==== Sys2Proof/Machine/Objects.lean ====
section
/-! DEFINITION. The bytes of a placed object: where they stand copy by copy and in the transpose, and how the engine reads and writes them
(R209, R211, R227, R309). -/

namespace Sys2Proof.Machine

/-- A run of an object's bytes in a tile's memory: tile, memory, offset there, offset in the object, length. -/
structure Piece where
  tile : TileAt
  mem  : MemSpace
  at_  : Nat
  off  : Nat
  len  : Nat
deriving DecidableEq, Repr

/-- A copy's runs, in object order. -/
def runsFrom : Nat → List (TileAt × MemSpace × Nat × Nat) → List Piece
  | _, [] => []
  | o, (t, m, a, n) :: l => { tile := t, mem := m, at_ := a, off := o, len := n } :: runsFrom (o + n) l

/-- The part of a run inside the object's bytes `off` to `off + n − 1`. -/
def cutRun (off n : Nat) (p : Piece) : Option Piece :=
  let lo := max off p.off
  let hi := min (off + n) (p.off + p.len)
  if lo < hi then some { p with at_ := p.at_ + (lo - p.off), off := lo, len := hi - lo } else none

/-- The runs of the first copy in a range. -/
def firstRuns (o : ObjPlace) (off n : Nat) : List Piece :=
  match o.copies with
  | c :: _ => (runsFrom 0 c).filterMap (cutRun off n)
  | [] => []

/-- The runs of every copy in a range (R309). -/
def allRuns (o : ObjPlace) (off n : Nat) : List Piece := o.copies.flatMap fun c => (runsFrom 0 c).filterMap (cutRun off n)

/-- Bits `lo` to `lo + n − 1` of a number replaced by the low `n` bits of another. -/
def spliceBits (x lo n v : Nat) : Nat := x % 2 ^ lo + 2 ^ lo * (v % 2 ^ n) + 2 ^ (lo + n) * (x / 2 ^ (lo + n))

/-- The bytes that a transpose entry changes when `b` is written at `off` of its object: tile, memory, offset, bytes (R211). -/
def transWrite (s : State) (off : Nat) (b : List Byte) (e : TileAt × MemSpace × Nat × Nat × Nat) : Option (TileAt × MemSpace × Nat × List Byte) :=
  let (t, m, at_, o, n) := e
  let lo := max (8 * off) o
  let hi := min (8 * (off + b.length)) (o + n)
  if lo < hi then
    let bit := at_ + (lo - o)
    let k := (bit + (hi - lo) + 7) / 8 - bit / 8
    let old := ofLE (readBytes (memOf (tileAt s t) m) (bit / 8) k)
    some (t, m, bit / 8, leBytes k (spliceBits old (bit % 8) (hi - lo) (ofLE b / 2 ^ (lo - 8 * off))))
  else none

/-- An object of a program. -/
def objAt (g : Prog) (i : Nat) : Option ObjPlace := g.place.objects[i]?

/-- Whether a tile's memory can be reached now (R283, R311). -/
def tileUp (s : State) (t : TileAt) : Bool := netOn s (parcelOf t).val

/-- An object's bytes as they stand: the bytes, whether all of it could be reached, and whether an
uncorrectable word was met (R126). -/
def objRead (o : ObjPlace) (off n : Nat) (s : State) : List Byte × Bool × Bool :=
  let rs := firstRuns o off n
  (rs.flatMap fun p => readBytes (memOf (tileAt s p.tile) p.mem) p.at_ p.len,
   rs.all fun p => tileUp s p.tile,
   rs.any fun p => eccBad (tileAt s p.tile) p.mem p.at_ p.len)

/-- Writes bytes of a tile's memory for a hub unit. -/
def pokeTile (t : TileAt) (m : MemSpace) (a : Nat) (b : List Byte) (s : State) : State :=
  updTile t (fun x => eccWrite m a b.length (setMem x m (writeBytes (memOf x m) a b))) s

/-- A state with bytes of an object replaced, in every copy and the transpose; which elements are stored stays as it is (R206, R208, R211,
R309). -/
def objWrite (o : ObjPlace) (off : Nat) (b : List Byte) (s : State) : State :=
  let s := (allRuns o off b.length).foldl (fun s p => pokeTile p.tile p.mem p.at_ ((b.drop (p.off - off)).take p.len) s) s
  o.trans.foldl (fun s e => match transWrite s off b e with
    | some (t, m, a, w) => pokeTile t m a w s
    | none => s) s

/-! ## Accesses over the service net (R309, R345) -/

/-- A write lands in a tile's memory. -/
def landed (s : State) (t : TileAt) (m : MemSpace) (a : Nat) (b : List Byte) : State :=
  updTile t (fun x => setMem x m (writeBytes (memOf x m) a b)) s

/-- The memories once every WRITE that has been sent is done: those at tile ports, those on their way, and those held for an old epoch. Parts of 8-byte words are
written with what the rest of the word holds then. -/
def ahead (s : State) : State :=
  let p := s.tiles.flatMap fun e => e.2.narrow.filterMap fun n => n.wdata.map fun b => (tileOfNo e.1, n.space, n.addr, b)
  let q := (s.snet.blocked ++ (s.snet.flight.filter fun k => !k.headBad && !k.bodyBad) ++ s.snet.waiting.flatMap (·.2)).filterMap fun k =>
    if k.opc = 2 ∧ k.space ≠ 2 ∧ epKind k.dst = 0 then some (epTile k.dst, netSpace k.space, 8 * (k.addr.toNat % 8192), k.payload) else none
  (p ++ q).foldl (fun s e => landed s e.1 e.2.1 e.2.2.1 e.2.2.2) s

/-- The whole 8-byte words that an access touches: first byte and length. -/
def wholeWords (a n : Nat) : Nat × Nat := (a / 8 * 8, (a + n + 7) / 8 * 8 - a / 8 * 8)

/-- The words of tile memory that a write of an object changes, each run once: those of every copy, and of the transpose (R211, R309). -/
def objWords (s : State) (o : ObjPlace) (off : Nat) (b : List Byte) : List (TileAt × MemSpace × Nat × Nat) :=
  (((allRuns o off b.length).map fun p => (p.tile, p.mem, wholeWords p.at_ p.len)) ++
   ((o.trans.filterMap (transWrite s off b)).map fun e => (e.1, e.2.1, wholeWords e.2.2.1 e.2.2.2.length))).eraseDups

/-- The reads of an object's bytes as its first copy holds them: each word is checked (R124, R126). -/
def checkRuns (r : Reader) (o : ObjPlace) (off n : Nat) (s : State) : State :=
  (firstRuns o off n).foldl (fun s p => eccRead r p.tile p.mem p.at_ p.len s) s

/-- Who reads the old bytes of a word that a unit's write changes in part. -/
def mergedBy (s : State) : NetWhy → Reader
  | .desc d | .edgeWrite d | .collWrite d _ => byDesc s d
  | _ => .vintner

/-- The words that a write of an object changes in part are read for the bytes that stay, and checked (R124, R126): the first and the last of each run, and those
that hold a run of the transpose. -/
def checkMerged (r : Reader) (o : ObjPlace) (off : Nat) (b : List Byte) (s : State) : State :=
  let ends (m : MemSpace) (t : TileAt) (a : Nat) (s : State) : State := if a % 8 = 0 then s else eccRead r t m (a / 8 * 8) 8 s
  let s := (allRuns o off b.length).foldl (fun s p => ends p.mem p.tile (p.at_ + p.len) (ends p.mem p.tile p.at_ s)) s
  (o.trans.filterMap (transWrite s off b)).foldl (fun s e => eccRead r e.1 e.2.1 (wholeWords e.2.2.1 e.2.2.2.length).1 (wholeWords e.2.2.1 e.2.2.2.length).2 s) s

/-- A unit writes bytes of an object, word by word as they are to stand (R211, R309). -/
def netObjWrite (u : BitVec 24) (why : NetWhy) (k : Fin 8) (o : ObjPlace) (off : Nat) (b : List Byte) (s : State) : State :=
  let s := checkMerged (mergedBy s why) o off b s
  let d := objWrite o off b (ahead s)
  (objWords s o off b).foldl (fun s e =>
    netWrite u why (some k) e.1 e.2.1 e.2.2.1 (readBytes (memOf (tileAt d e.1) e.2.1) e.2.2.1 e.2.2.2) s) s

/-- A unit reads bytes of an object, one READ for each run of its first copy; `why` says what a run at an offset is for (R309). -/
def netObjRead (u : BitVec 24) (why : Nat → NetWhy) (k : Fin 8) (o : ObjPlace) (off n : Nat) (s : State) : State :=
  (firstRuns o off n).foldl (fun s p => netRead u (why (p.off - off)) (some k) p.tile p.mem p.at_ p.len (p.off - off) s) s

end Sys2Proof.Machine
end

