-- ==== Sys2Proof/Machine/DescOps.lean ====
section
/-! DEFINITION. What the descriptors share: the checks of their fields and of the slot they name, and the elements of objects
(R82, R304, R311, R441, R447). -/

namespace Sys2Proof.Machine

/-- A field outside its range, or a length, count or range above its limit: the first such field's offset (R311). -/
def badField (d : DescRef) (o : Nat) (s : State) : State := decideDesc d stBad o s
def overField (d : DescRef) (o : Nat) (s : State) : State := decideDesc d stLimit o s

/-- A condition on a descriptor's fields and the status and DETAIL it gives. -/
abbrev Check := Bool × Nat × Nat
/-- A field that is out of its range, and one above its limit. -/
def bad (b : Bool) (o : Nat) : Check := (b, stBad, o)
def tooBig (b : Bool) (o : Nat) : Check := (b, stLimit, o)

/-- Ends a descriptor on the first check that fails; else `act`. -/
def checks (d : DescRef) (l : List Check) (act : State → State) (s : State) : State :=
  match l.find? (·.1) with
  | some c => decideDesc d c.2.1 c.2.2 s
  | none => act s

/-- Goes on with the program of the slot a descriptor names: FENCED while its domain is closing or closed, NO_PROGRAM where it is empty
(R311, R441, R447). -/
def onSlot (x : Desc) (act : Fin 8 → Prog → State → State) (s : State) : State :=
  match slotOf x with
  | none => s
  | some k =>
    let st := (dom s (progCode k.val)).st
    if st = .closing ∨ st = .closed then decideDesc x.ref stFenced (fencedDetail (progCode k.val) false false) s
    else match prog? s k with
      | none => decideDesc x.ref stNoProgram 0 s
      | some g => act k g s

/-- The first byte of an object that holds bits of elements `i` to `i + n − 1`, and how many do (R82). -/
def elemSpan (f : Fmt) (i n : Nat) : Nat × Nat := (f.width * i / 8, (f.width * (i + n) + 7) / 8 - f.width * i / 8)

/-- Elements `i` to `i + n − 1` out of the bytes of their span (R82). -/
def elemsIn (f : Fmt) (i n : Nat) (b : List Byte) : List Nat :=
  let v := ofLE b / 2 ^ (f.width * i - 8 * (elemSpan f i n).1)
  (List.range n).map fun j => v / 2 ^ (f.width * j) % 2 ^ f.width

/-- The bytes of their span with new elements from index `i` on. -/
def withElems (f : Fmt) (i : Nat) (l : List Nat) (b : List Byte) : List Byte :=
  leBytes b.length (spliceBits (ofLE b) (f.width * i - 8 * (elemSpan f i l.length).1) (f.width * l.length) (ofLE (packBits f.width l)))

/-- Bytes with every third 4-byte value, from the first on, replaced: the gradients of a press state (R374, R377). -/
def withEvery3 : List Nat → List Byte → List Byte
  | [], b => b
  | x :: t, b => leBytes 4 x ++ ((b.drop 4).take 8 ++ withEvery3 t (b.drop 12))

end Sys2Proof.Machine
end

