-- ==== Sys2Proof/Machine/ServiceNet.lean ====
section
/-! DEFINITION. The service net's packets, timeouts, and throttle (R256 to R279, R285, R286). -/

namespace Sys2Proof.Machine

/-! ## Requests at their targets -/

/-- Answers a request that is refused on arrival with a response that carries no data (R271). -/
def refuseReq (p : Packet) (opc : BitVec 6) (status : Nat) (s : State) : State := respond p opc true true 0 status [] s

/-- READ (R271, R272): refused on arrival, or its units queued at the tile's port. -/
def execRead (p : Packet) (s : State) : Res :=
  .next (arrive 1 0 p (fun s => match refusal s p (8 * p.countOff.toNat) with
    | some st => refuseReq p 0x21 st s
    | none => acceptRead p s) s)

/-- WRITE (R267, R271, R273): the packet's bytes are written as it arrives; the message's WRITE_ACK carries the first refusal. -/
def execWrite (p : Packet) (s : State) : Res := .next (portWrite p s)

/-- How a hub unit refuses a MSG packet, if it does (R271, R279, R285): MSG is data for a receiving unit. -/
def msgRefusal (s : State) (p : Packet) : Option Nat :=
  if unreach s p.epoch (epRegion p.dst) then some stNotReady
  else if epKind p.dst ≠ 2 ∨ ¬ epOk p.dst then some stAccess
  else if !isOpen s (hubCode (epHub p.dst)) || (epUnit p.dst == 0 && !isOpen s mgmtCode) then some stFenced
  else none

/-- The bytes of a message in offset order. -/
def joined (parts : List (Nat × List Byte)) : List Byte := ((parts.mergeSort fun a b => decide (a.1 ≤ b.1)).map (·.2)).flatten

/-- A MSG packet taken at its unit: placed by its offset; the message completes by count (R259, R267, R268). -/
def takeMsg (p : Packet) (s : State) : State :=
  match msgRefusal s p with
  | some st => refuseReq p 0x23 st s
  | none =>
    let fresh := (msgOf s p).isNone
    let m := (msgOf s p).getD (newMsg s p)
    if badPart m p then discard p s
    else
      let m : InMsg := { withPart m p s.time with parts := m.parts ++ [(offOf p, p.payload)] }
      let s := if fresh then awaitMore p.epoch s else s
      if m.total = some m.got then
        let s := awaitLess p.epoch (dropMsg p (respond p 0x23 true true 0 stOk [] s))
        match s.snet.reqs.find? fun r => r.unit == p.src && r.tag == p.tag && r.opc == 3 with
        | none => s
        | some r =>
          msgCame r (joined m.parts) { s with snet := { s.snet with reqs := s.snet.reqs.map fun q => if q == r then { q with got := m.got } else q } }
      else setMsg p m s

/-- MSG (R267, R268): placed by offset, complete by count whatever the order of its packets. -/
def execMsg (p : Packet) (s : State) : Res := .next (arrive 3 0 p (takeMsg p) s)

/-! ## Responses at their requesters -/

/-- A response meets a requester that is gone or whose domain is not OPEN: discarded and counted (R269, R285). -/
def lostResponse (s : State) : State := countLost s

/-- The open request a response answers: by requester and tag, of the request operation `opc`. -/
def reqOf (s : State) (p : Packet) (opc : BitVec 6) : Option NetReq :=
  s.snet.reqs.find? fun r => r.unit == p.dst && r.tag == p.tag && r.opc == opc

/-- Whether a hub takes responses for its unit (R285). -/
def unitOpen (s : State) (e : BitVec 24) : Bool :=
  isOpen s (hubCode (epHub e)) && (epUnit e != 0 || epHub e != 0 || isOpen s mgmtCode)

/-- The worst status so far: that of the lowest-offset packet with one (R272). -/
def worse (bad : Option (Nat × Nat)) (off st : Nat) : Option (Nat × Nat) :=
  if st = stOk then bad else match bad with
    | some b => if off < b.1 then some (off, st) else bad
    | none => some (off, st)

/-- A READ_DATA packet at its requester (R267, R272): placed by offset; complete by count. -/
def takeReadData (p : Packet) (s : State) : State :=
  match reqOf s p 1 with
  | none => lostResponse s
  | some r =>
    let off := offOf p
    let total := if p.first then some (8 * p.countOff.toNat) else r.total
    if r.parts.any (fun e => e.1 == off) || (match total with | some n => decide (n < r.got + p.payload.length) | none => false) then discard p s
    else
      let r' := { r with total := total, got := r.got + p.payload.length, parts := r.parts ++ [(off, p.payload)],
                         bad := worse r.bad off (p.addr.toNat % 256) }
      if total = some r'.got then
        releaseHeld r.unit (endReq r' (epRegion p.src) (match r'.bad with | some b => b.2 | none => stOk) (joined r'.parts) s)
      else { s with snet := { s.snet with reqs := s.snet.reqs.map fun q => if q == r then r' else q } }

/-- An acknowledgement at its requester (R259, R273). -/
def takeAck (opc : BitVec 6) (p : Packet) (s : State) : State :=
  match reqOf s p opc with
  | none => lostResponse s
  | some r => releaseHeld r.unit (endReq r (epRegion p.src) (p.addr.toNat % 256) [] s)

/-! ## Timeouts (R269) -/

/-- REASSEMBLY_TIMEOUT (R269): 2 ms after its last arrival an incomplete incoming message is forgotten, with no acknowledgement; it awaits no response any more. -/
def execReassemblyTimeout (dst src : BitVec 24) (tag : BitVec 12) (s : State) : Res :=
  let old (m : InMsg) : Bool := m.dst == dst && m.src == src && m.tag == tag && m.opc != 1 && m.total != some m.got && decide (m.last + ms 2 ≤ s.time)
  let l := s.snet.msgs.filter old
  if l.isEmpty then .next s
  else .next (unblock dst (l.foldl (fun s m => awaitLess m.epoch s) { s with snet := { s.snet with msgs := s.snet.msgs.filter fun m => !old m } }))

/-! ## Throttle (R275, R276) -/

/-- A hub's level and its count of quiet windows after a sample window (R275); a level above the floor moves to the floor. -/
def throttleStep (thresh floor : Nat) (en : Bool) (level quiet : Nat) (sums : List Nat) : Nat × Nat :=
  let level := min level floor
  if !en then (0, 0)
  else if sums.any fun x => decide (thresh < x) then (min floor (level + 1), 0)
  else if sums.all fun x => decide (x ≤ thresh / 2) then
    (if quiet + 1 = 4 then (level - 1, 0) else (level, quiet + 1))
  else (level, 0)

/-- THROTTLE_WINDOW (R275): the hub's window ends, once its cycles have passed; the register's values hold from the next one. The sums are those of the routers, to
which the command adds the flits of packets from outside the model. -/
def execThrottleWindow (h : Hub) (sums : List Nat) (s : State) : Res :=
  let n := s.snet
  let i : Fin 4 := ⟨hubNum h % 4, Nat.mod_lt _ (by decide)⟩
  if netNow s < n.wins[i].1 + n.wins[i].2 then .next s
  else
    let a := n.act[i]
    let all := (gatewaySums s i.val).zipIdx.map fun e => e.1 + (sums[e.2]?).getD 0
    let r := throttleStep a.1 a.2.1 a.2.2 n.level[i] n.quiet[i] all
    let next := (min 80 n.thresh, min 4 n.floor, n.en)
    let level := if n.en then min r.1 (min 4 n.floor) else 0
    .next { s with snet := { n with level := n.level.set i level, quiet := n.quiet.set i r.2, act := n.act.set i next,
                                    wins := n.wins.set i (netNow s, 32 * 2 ^ n.window) } }

end Sys2Proof.Machine
end

