-- ==== Sys2Proof/Machine/Collective.lean ====
section
/-! DEFINITION. Collectives and the press: COLLECTIVE, its segments, seals, notices, aborts and norm exchange, and the press's two passes
(R354 to R384). -/

namespace Sys2Proof.Machine

/-! ## Running collectives -/

/-- The collective of a descriptor. -/
def collOf (s : State) (d : DescRef) : Option Coll := s.colls.find? fun c => c.desc == d
/-- Changes a collective. -/
def updColl (d : DescRef) (f : Coll → Coll) (s : State) : State :=
  { s with colls := s.colls.map fun c => if c.desc == d then f c else c }
/-- Goes on with a collective, if it still runs. -/
def withColl (d : DescRef) (act : Coll → State → State) (s : State) : State :=
  match collOf s d with
  | some c => act c s
  | none => s

/-- The format of the source and of the reduced elements (R356). -/
def baseFmt (c : Coll) : Fmt := if c.bf then bf16 else fp32
/-- An object of a collective's program. -/
def objOf (s : State) (c : Coll) (i : Nat) : Option ObjPlace :=
  match prog? s c.slot with
  | some g => objAt g i
  | none => none
/-- The format of what a gather writes: the working format of a press collective (R375), else the source's. -/
def workFmt (c : Coll) : Fmt := if c.press then wfOf c else baseFmt c

/-- The format code of the object a press record works on. -/
def wfCode (g : Prog) (r : Option PressRec) : Nat :=
  match r with
  | none => 0
  | some r => match objAt g r.work with
    | some o => o.fmt
    | none => 0

/-! ## Objects over the service net (R366, R380) -/

/-- The adders and press of a collective's hub, as a requester. -/
def collUnit (s : State) (c : Coll) : BitVec 24 := hubEp (hubFor s c) 3

/-- The byte range of elements of an object, as a collective reads it: object, offset, length; nothing for no elements. -/
def elemRange (obj : Nat) (f : Fmt) (i n : Nat) : List (Nat × Nat × Nat) :=
  if n = 0 then [] else [(obj, (elemSpan f i n).1, (elemSpan f i n).2)]

/-- Whether a read of a collective is for a range. -/
def isRange (r : Nat × Nat × Nat) (x : CollRead) : Bool := x.obj == r.1 && x.off == r.2.1 && x.len == r.2.2

/-- The bytes of a range, once all have come. -/
def rangeBytes (c : Coll) (r : Nat × Nat × Nat) : Option (List Byte) :=
  match c.reads.find? (isRange r) with
  | none => none
  | some x => if (x.parts.map (·.2.length)).sum < x.want then none else some (joined x.parts)

/-- Elements of an object out of what a collective has read. -/
def elemsOf (c : Coll) (obj : Nat) (f : Fmt) (i n : Nat) : List Nat :=
  elemsIn f i n ((rangeBytes c (obj, (elemSpan f i n).1, (elemSpan f i n).2)).getD [])

/-- Whether a collective has read every range. -/
def haveAll (c : Coll) (l : List (Nat × Nat × Nat)) : Bool := l.all fun r => (rangeBytes c r).isSome

/-- Asks for a range that is not asked for yet: READs of the object's first copy (R309). -/
def askRange (d : DescRef) (s : State) (r : Nat × Nat × Nat) : State :=
  withColl d (fun c s =>
    if c.reads.any (isRange r) then s
    else match objOf s c r.1 with
      | none => updColl d (fun c => { c with reads := c.reads ++ [{ obj := r.1, off := r.2.1, len := r.2.2, want := 0, parts := [] }] }) s
      | some o =>
        let n := ((firstRuns o r.2.1 r.2.2).map (·.len)).sum
        netObjRead (collUnit s c) (fun i => .collRead d r.1 r.2.1 i) c.slot o r.2.1 r.2.2
          (updColl d (fun c => { c with reads := c.reads ++ [{ obj := r.1, off := r.2.1, len := r.2.2, want := n, parts := [] }] }) s)) s

/-- Whether the barrier of a slot is one that no collective may run through (R384): a reconfiguration or removal. -/
def barHolds (b : Barrier) : Bool := match b.kind with
  | .evacuate _ => false
  | _ => true

/-- Whether the cores of a slot are being moved: accesses to them wait until the copies are done (R384). -/
def coresMove (s : State) (k : Fin 8) : Bool := match prog? s k with
  | some g => (match g.bar with
    | some b => b.step == .halted && !b.evac.isEmpty
    | none => false)
  | none => false

/-- Whether accesses of a slot's collectives are under way on the net. -/
def collAccess (s : State) (k : Fin 8) : Bool :=
  let mine (r : NetReq) : Bool := match r.why with
    | .collRead d _ _ _ => s.colls.any fun c => c.desc == d && c.slot == k
    | .collWrite d _ => s.colls.any fun c => c.desc == d && c.slot == k
    | _ => false
  s.snet.reqs.any mine || s.snet.waiting.any fun r => mine r.1

/-- Goes on once a collective has read every range that the action needs; until then it is left for the answers. -/
def onRanges (d : DescRef) (l : List (Nat × Nat × Nat)) (act : State → State) (s : State) : State :=
  let s := l.foldl (askRange d) s
  withColl d (fun c s => if haveAll c l && c.fail.isNone then act s else s) s

/-- Forgets what an action has read. -/
def forget (d : DescRef) (s : State) : State := updColl d (fun c => { c with reads := [] }) s

/-- Writes elements of an object (R366): whole bytes, with the bits beside the elements as they will stand; `pass2` says that nothing may stop it
(R384). -/
def giveElems (c : Coll) (pass2 : Bool) (o : Option ObjPlace) (f : Fmt) (i : Nat) (l : List Nat) (s : State) : State :=
  match o with
  | none => s
  | some o =>
    if l.isEmpty then s
    else
      let p := elemSpan f i l.length
      netObjWrite (collUnit s c) (.collWrite c.desc pass2) c.slot o p.1 (withElems f i l (objRead o p.1 p.2 (ahead s)).1) s

/-! ## Sending (R361, R364, R366, R367) -/

/-- Sends a message on a channel from the working hub: where another hub has the channel's port, the bytes go there first (R366). -/
def sendVia (d : DescRef) (k : Nat) (b : List Byte) (s : State) : State :=
  withColl d (fun c s =>
    let h := hubFor s c
    let p := portHub s k
    if p = h then enqueue k (collMsg b) s
    else
      let e := echan s k
      let s := updEchan k (fun e => { e with tx := e.tx ++ [{ collMsg [] with len := b.length }] }) s
      netMsg (hubEp h 3) (hubEp p 6) (.segOut d k (e.txMsg + e.tx.length)) (some c.slot) b s) s

/-- Sends one segment of a phase to the successor. -/
def sendSeg (d : DescRef) (kind p st chunk seg : Nat) (f : Fmt) (l : List Nat) (ssum : Nat) (sflag : Bool) (s : State) : State :=
  withColl d (fun c s =>
    let b := packBits f.width l
    let h := collHeader c kind st (hdrPhase c p) seg (if kind = 4 then chunk else chunkNo c p chunk) l.length (crc64 b).toNat ssum 0
      (if sflag then 1 else 0) 0
    sendVia d (succKey c p) (h ++ b) s) s

/-- The slices of a chunk that its segments carry: segment, first element, elements. -/
def slices (f : Fmt) (l : List Nat) : List (Nat × Nat × List Nat) :=
  (List.range (segCount f l.length)).map fun g => (g, segMax f * g, (l.drop (segMax f * g)).take (segMax f))

/-- Sends a whole chunk that no addition produced. -/
def sendChunk (d : DescRef) (kind p st k : Nat) (f : Fmt) (l : List Nat) (s : State) : State :=
  (slices f l).foldl (fun s e => sendSeg d kind p st k e.1 f e.2.2 (sealSum f e.2.2) false s) s

/-- Sends a whole chunk that the member's own additions produced: its seals say so, with the sums of both operands (R367). -/
def sendSums (d : DescRef) (kind p st k : Nat) (f : Fmt) (l : List Nat) (ops : List (Nat × Nat)) (s : State) : State :=
  (slices f l).foldl (fun s e =>
    let o := (ops.drop e.2.1).take e.2.2.length
    sendSeg d kind p st k e.1 f e.2.2 (addF fp64 0 0 (sealSum f (o.map (·.1))) (sealSum f (o.map (·.2)))) true s) s

/-- The member's own contribution to elements of a reduce phase: its source, or under the torus's column reduce the sums of its row-chunk
(R361, R362). -/
def ownElems (c : Coll) (p start n : Nat) : List Nat :=
  if c.torus && p == 1 then (c.acc.drop (start - partStart c.count (ringTx c) (c.rank % ringTx c))).take n
  else elemsOf c c.srcObj (baseFmt c) (c.srcOff + start) n
/-- What of the source that needs. -/
def ownSpans (c : Coll) (p start n : Nat) : List (Nat × Nat × Nat) :=
  if c.torus && p == 1 then [] else elemRange c.srcObj (baseFmt c) (c.srcOff + start) n

/-! ## Receiving (R339, R359, R371) -/

/-- Posts the receive of a collective's next message on a channel, if none is outstanding. -/
def needPost (k : Nat) (s : State) : State :=
  if (echan s k).rx.any fun r => r.desc.isNone && !r.full then s else postRecv k collPost s

/-- Takes a whole message of a collective off its channel. -/
def shiftMsg (k : Nat) (s : State) : State :=
  updEchan k (fun e => { e with rx := match e.rx with
    | r :: t => if r.desc.isNone && r.full then t else r :: t
    | [] => [] }) s

/-- Whether the next message of a channel is still on its way from its port's hub to the working hub (R366). -/
def onItsWay (s : State) (k : Nat) : Bool := s.snet.reqs.any fun r => match r.why with
  | .segIn _ x => x == k && r.got == 0
  | _ => false

/-- The whole message that waits on a channel, at the hub that works on it. -/
def msgOn (s : State) (k : Nat) : Option (List Byte) :=
  if onItsWay s k then none
  else match (echan s k).rx with
    | r :: _ => if r.desc.isNone && r.full then some r.got else none
    | [] => none

/-- The running collective that a channel belongs to. -/
def collOn (s : State) (k : Nat) : Option Coll := s.colls.find? fun c => c.live && (heldKeys c).contains k

/-! ## The press (R372 to R380) -/

/-- A layer's press record of a slot. -/
def pressRec (s : State) (k : Fin 8) (layer : Nat) : Option PressRec :=
  match prog? s k with
  | some g => find? g.press layer
  | none => none

/-- Coefficient k1 to k10 of a record. -/
def kOf (r : PressRec) (i : Nat) : Nat := ((r.k[i - 1]?).getD 0).toNat

/-- The recurrence of R377: s1′, s2′ and d of an element. -/
def recur (r : PressRec) (w s1 s2 g : Nat) : Nat × Nat × Nat :=
  let mul := mulF fp32 0 0
  let add := addF fp32 0 0
  let t1 := add (mul (kOf r 1) s1) (mul (kOf r 2) g)
  let t2 := add (mul (kOf r 3) s2) (mul (mul (kOf r 4) g) g)
  let d := divF fp32 t1 (add (mul (kOf r 5) (sqrtF fp32 t2)) (kOf r 6))
  (t1, t2, add d (mul (kOf r 7) w))

/-- The press's view of a shard: master weight, s1, s2 and g of each element (R374). -/
def pressElems (c : Coll) : List (Nat × Nat × Nat × Nat) :=
  match c.prec with
  | none => []
  | some r =>
    let n := (shardOf c).2
    let m := elemsOf c r.master fp32 0 n
    let t := elemsOf c r.state fp32 0 (3 * n)
    let at_ (i : Nat) : Nat := (t[i]?).getD 0
    (List.range n).map fun i => ((m[i]?).getD 0, at_ (3 * i), at_ (3 * i + 1), at_ (3 * i + 2))
/-- What of the objects that needs. -/
def pressSpans (c : Coll) : List (Nat × Nat × Nat) :=
  match c.prec with
  | none => []
  | some r => elemRange r.master fp32 0 (shardOf c).2 ++ elemRange r.state fp32 0 (3 * (shardOf c).2)

/-- Pass 1 on one segment of the shard, its elements from `i` on: g goes to STATE_OBJECT, and what stands between stays (R376, R377). -/
def pass1 (d : DescRef) (i : Nat) (l : List Nat) (s : State) : State :=
  withColl d (fun c s =>
    let r := match c.prec with
      | some r => some r
      | none => pressRec s c.slot c.layer
    match r with
    | none => s
    | some r =>
      let wf := match prog? s c.slot with
        | some g => wfCode g (some r)
        | none => 0
      let s := updColl d (fun c => { c with prec := some r, wf := wf }) s
      match objOf s c r.state with
      | none => s
      | some o =>
        let a := 4 * (3 * i + 2)
        let n := 12 * l.length - 8
        let g := l.map fun x => convF (baseFmt c) fp32 0 0 x
        netObjWrite (collUnit s c) (.collWrite d false) c.slot o a (withEvery3 g (objRead o a n (ahead s)).1) s) s

/-- The square of a binary32 value in binary64, as the norms add it. -/
def square64 (x : Nat) : Nat := mulF fp64 0 0 (convF fp32 fp64 0 0 x) (convF fp32 fp64 0 0 x)

/-- Wsq, Dsq and the non-finite flag of the own shard (R377, R378). -/
def shardNorms (c : Coll) : Nat × Nat × Bool :=
  match c.prec with
  | none => (0, 0, false)
  | some r =>
    let e := pressElems c
    let ds := e.map fun x => recur r x.1 x.2.1 x.2.2.1 x.2.2.2
    (sealSum fp64 (e.map fun x => square64 x.1), sealSum fp64 (ds.map fun x => square64 x.2.2),
      ds.any fun x => nonFinite fp32 x.1 || nonFinite fp32 x.2.1 || nonFinite fp32 x.2.2)

/-- Sums by rank (R378). -/
def sumRanks (l : List Nat) : Nat := l.foldl (addF fp64 0 0) 0

/-- T of R379; a comparison with NaN is not stated, and its result is free. -/
def trustOf (r : PressRec) (w d : Nat) (s : State) : Nat × State :=
  if !r.trust then (0x3F800000, s)
  else
    let x := if eqVal (decodeVal fp64 w) (.fin false 0 0) || eqVal (decodeVal fp64 d) (.fin false 0 0) then 0x3F800000
      else roundTo fp32 0 0 (divVal (decodeVal fp64 (sqrtF fp64 w)) (decodeVal fp64 (sqrtF fp64 d)))
    match decodeVal fp32 x with
    | .nan =>
      let f := freeDWord s
      (f.1 % 2 ^ 32, f.2)
    | v =>
      (if leVal v (decodeVal fp32 (kOf r 9)) then kOf r 9
       else if leVal (decodeVal fp32 (kOf r 10)) v then kOf r 10 else x, s)

/-- The new master weights of a shard, and its new states (R379). -/
def updated (c : Coll) (r : PressRec) (lam : Nat) : List Nat × List Nat :=
  let n := (pressElems c).map fun x => (recur r x.1 x.2.1 x.2.2.1 x.2.2.2, x)
  (n.map fun y => addF fp32 0 0 y.2.1 (mulF fp32 0 0 lam y.1.2.2 ^^^ 2 ^ 31), n.flatMap fun y => [y.1.1, y.1.2.1, y.2.2.2.2])

/-- A member whose shard is empty takes its layer's record when the reduce phases end (R376; log 170). -/
def takeRecord (d : DescRef) (s : State) : State :=
  withColl d (fun c s =>
    if !c.press || c.prec.isSome then s
    else match pressRec s c.slot c.layer, prog? s c.slot with
      | some r, some g => updColl d (fun c => { c with prec := some r, wf := wfCode g (some r) }) s
      | _, _ => s) s

/-- Pass 2 (R379): with F = 1 nothing is written; else T and λ, the update, and the weights in the working format. The gather carries the
master weights as they stand then. -/
def pass2 (d : DescRef) (s : State) : State :=
  withColl d (fun c s => match c.prec with
    | none => s
    | some r =>
      let ns := (List.range (gsize c)).map fun i => ((find? c.norms i).getD (0, 0, false))
      let wsq := sumRanks (ns.map fun e => e.1.toNat)
      let dsq := sumRanks (ns.map fun e => e.2.1.toNat)
      let hold (l : List Nat) (s : State) : State :=
        updColl d (fun x => { x with shard := l.map fun w => convF fp32 (workFmt c) r.rnd 0 w }) s
      if ns.any (fun e => e.2.2) then hold ((pressElems c).map (·.1)) (updColl d (fun c => { c with skipped := true }) s)
      else
        let t := trustOf r wsq dsq s
        let u := updated c r (mulF fp32 0 0 (kOf r 8) t.1)
        let s := updColl d (fun c => { c with applied := true }) t.2
        hold u.1 (giveElems c true (objOf s c r.master) fp32 0 u.1 (giveElems c true (objOf s c r.state) fp32 0 u.2 s))) s

/-- Whether the press works for another collective on the layer (R376). -/
def pressBusy (s : State) (c : Coll) : Bool :=
  s.colls.any fun x => x.live && !sameColl x c && x.slot == c.slot && x.layer == c.layer && x.prec.isSome && !x.applied && !x.skipped

/-! ## Phases (R361, R362, R378) -/

/-- The phase after a collective's last: it waits for its last packets' acknowledgement. -/
def endPhase : Nat := 100

/-- The object a gather writes, and its format. -/
def gatherObj (s : State) (c : Coll) : Option ObjPlace :=
  match c.prec with
  | some r => objOf s c r.work
  | none => objOf s c c.dstObj

/-- Writes gathered elements to the destination. -/
def giveDst (d : DescRef) (start : Nat) (l : List Nat) (s : State) : State :=
  withColl d (fun c s =>
    updColl d (fun c => { c with written := c.written + l.length }) (giveElems c false (gatherObj s c) (workFmt c) (c.dstOff + start) l s)) s

/-- The elements of the row-chunk that a column gather brought together (R362). -/
def rowChunk (c : Coll) : List Nat :=
  (List.range (ringTy c)).flatMap fun i => if i = c.rank / ringTx c then c.shard else lookupD [] c.pieces i

/-- What a member sends at the start of a gather: its shard, which is also to stand in the destination (R357, R361, R367). -/
def gatherStart (d : DescRef) (p : Nat) (s : State) : State :=
  withColl d (fun c s =>
    if p = 3 then sendChunk d 1 p 0 (ringAt c p) (workFmt c) (rowChunk c) s
    else if c.op = 2 then
      let l := elemsOf c c.srcObj (baseFmt c) c.srcOff (shardOf c).2
      sendChunk d 1 p 0 (ringAt c p) (workFmt c) l (updColl d (fun c => { c with shard := l, own := true }) s)
    else
      let s := giveDst d (shardOf c).1 c.shard s
      if c.press then sendChunk d 1 p 0 (ringAt c p) (workFmt c) c.shard s
      else sendSums d 1 p 0 (ringAt c p) (workFmt c) c.shard c.sums s) s

/-- An ALL_GATHER writes its own elements once a segment has shown that its neighbour runs the same collective (R357, R384). -/
def writeOwn (d : DescRef) (s : State) : State :=
  withColl d (fun c s => if c.own then giveDst d (shardOf c).1 c.shard (updColl d (fun c => { c with own := false }) s) else s) s

/-- What a reduce phase sends first: its own contribution (R361), under the torus's column reduce the sums of its row-chunk (R362, R367). -/
def reduceStart (d : DescRef) (p : Nat) (s : State) : State :=
  withColl d (fun c s =>
    let k := (ringAt c p + ringLen c p - 1) % ringLen c p
    let r := chunkRange c p k
    let l := ownElems c p r.1 r.2
    if c.torus && p == 1 then
      let o := (c.sums.drop (r.1 - partStart c.count (ringTx c) (c.rank % ringTx c))).take r.2
      sendSums d 0 p 0 k (baseFmt c) l o (updColl d (fun c => { c with sums := [] }) s)
    else sendChunk d 0 p 0 k (baseFmt c) l s) s

/-- What a broadcast sends first (R361, R362). -/
def bcastStart (d : DescRef) (p : Nat) (s : State) : State :=
  withColl d (fun c s =>
    if ringAt c p ≠ bcastFrom c p then s
    else
      let l := if c.rank = c.root then elemsOf c c.srcObj (baseFmt c) c.srcOff c.count else c.acc
      let same : Bool := c.srcObj == c.dstObj && c.srcOff == c.dstOff
      let s := if c.rank = c.root ∧ p = 0 ∧ ¬ same then giveDst d 0 l s else s
      if ringLen c p = 1 then s else sendChunk d 1 p 0 0 (baseFmt c) l s) s

/-- Sends norms of a rank (R378). -/
def sendNorms (d : DescRef) (p st rank : Nat) (e : DWord × DWord × Bool) (s : State) : State :=
  let l := [e.1.toNat, e.2.1.toNat, if e.2.2 then 1 else 0]
  sendSeg d 4 p st rank 0 fp64 l (sealSum fp64 l) false s

/-- What the norm exchange sends first: the own shard's norms, then under the torus those of the whole row. -/
def normStart (d : DescRef) (p : Nat) (s : State) : State :=
  withColl d (fun c s =>
    if p = 8 then
      let s := takeRecord d s
      let n := shardNorms c
      let e : DWord × DWord × Bool := (BitVec.ofNat 64 n.1, BitVec.ofNat 64 n.2.1, n.2.2)
      sendNorms d p 0 c.rank e (updColl d (fun c => { c with norms := put c.rank e c.norms }) s)
    else
      (List.range (ringTx c)).foldl (fun s q =>
        let rank := c.rank / ringTx c * ringTx c + q
        sendNorms d p 0 rank ((find? c.norms rank).getD (0, 0, false)) s) s) s

/-- What a member reads from objects before it begins to send in a phase. -/
def startSpans (c : Coll) (p : Nat) : List (Nat × Nat × Nat) :=
  if c.op = 3 then (if ringAt c p = bcastFrom c p ∧ c.rank = c.root then elemRange c.srcObj (baseFmt c) c.srcOff c.count else [])
  else if p = 8 then pressSpans c
  else if p = 9 then []
  else if isReduce c p then
    let r := chunkRange c p ((ringAt c p + ringLen c p - 1) % ringLen c p)
    ownSpans c p r.1 r.2
  else if p ≠ 3 ∧ c.op = 2 then elemRange c.srcObj (baseFmt c) c.srcOff (shardOf c).2
  else []

/-- Begins the sending of a phase. -/
def phaseStart (d : DescRef) (p : Nat) (s : State) : State :=
  withColl d (fun c s =>
    if c.op = 3 then bcastStart d p s
    else if p = 8 ∨ p = 9 then normStart d p s
    else if isReduce c p then reduceStart d p s
    else gatherStart d p s) s

/-- The messages of the present phase. -/
def dueNow (c : Coll) : List (Nat × Nat × Nat) := inList c (workFmt c) c.phase

/-- The phase after one. -/
def phaseAfter (c : Coll) (p : Nat) : Option Nat := (((phasesOf c).dropWhile (· != p)).drop 1).head?

/-- Whether pass 2 follows on a phase (R379). -/
def beforePass2 (c : Coll) (p : Nat) : Bool := (p == 8 || p == 9) && phaseAfter c p != some 9

/-- A phase has ended: the reduced shard is written where no press follows and it is the last, pass 2 runs after the norms (R357, R372, R379). -/
def phaseEnd (d : DescRef) (p : Nat) (s : State) : State :=
  withColl d (fun c s =>
    if c.op = 1 ∧ phaseAfter c p = none then giveElems c false (objOf s c c.dstObj) (baseFmt c) c.dstOff c.shard s
    else if beforePass2 c p then pass2 d s
    else writeOwn d s) s

/-- Whether the net still carries something for a collective. -/
def netBusy (s : State) (d : DescRef) : Bool :=
  let mine (r : NetReq) : Bool := match r.why with
    | .collWrite x _ => x == d
    | _ => false
  s.snet.reqs.any mine || s.snet.waiting.any fun r => mine r.1

/-- Ends a collective whose last message has come once its own messages are acknowledged and its elements written (R379). -/
def finishColl (d : DescRef) (s : State) : State :=
  withColl d (fun c s =>
    let ks := ((phasesOf c).map (succKey c)).eraseDups
    let owed := ks.any fun k => (echan s k).tx.any fun m => m.desc.isNone
    if c.phase ≠ endPhase || owed || netBusy s d then s
    else
      let f := freeDWord s
      let det := c.written % 2 ^ 32 + (if c.applied then 2 ^ 33 else 0) + (if c.skipped then 2 ^ 34 else 0)
      dropColl c (if c.press then doneDesc d det s else doneDesc d f.1 f.2)) s

/-- Begins the present phase, ends it once all its messages have come, and goes on to the next, at most `fuel` such actions; one that must first read
objects is left until they have been read. -/
def advance (d : DescRef) : Nat → State → State
  | 0, s => s
  | fuel + 1, s => match collOf s d with
    | none => s
    | some c =>
      if c.fail.isSome then s
      else if c.phase = endPhase then finishColl d s
      else if coresMove s c.slot then s
      else if !c.begun then
        onRanges d (startSpans c c.phase) (fun s =>
          advance d fuel (forget d (phaseStart d c.phase (updColl d (fun c => { c with begun := true }) s)))) s
      else if c.got < (dueNow c).length then needPost (predKey c c.phase) s
      else
        onRanges d (if beforePass2 c c.phase then pressSpans c else []) (fun s =>
          advance d fuel (updColl d (fun x => { x with phase := (phaseAfter c c.phase).getD endPhase, got := 0, begun := false })
            (forget d (phaseEnd d c.phase s)))) s

/-! ## The start of a collective (R354 to R360, R374, R384) -/

/-- Whether two collectives of one engine share a channel (R359). -/
def chansMeet (a b : Coll) : Bool := (heldKeys a).any fun k => (heldKeys b).contains k

/-- A group's member that is down, with the cause (R342, R382). -/
def downIn (s : State) (c : Coll) : Option (Nat × Nat) :=
  c.group.findSome? fun m => (peerOf s m).down.map fun x => (m, x)

/-- Ends a collective with PEER_DOWN (R346, R382); the bytes its messages have moved are not stated. -/
def collPeerDown (c : Coll) (peer cause : Nat) (s : State) : State :=
  let f := freeDWord s
  endColl c stPeerDown (peerDownDetail peer c.chan cause (f.1 % 2 ^ 32)) f.2

/-- COLLECTIVE descriptors that were fetched before a collective's and of which none has come so far that it waits or runs (R302, R359). -/
def collsAhead (s : State) (c : Coll) : List Desc :=
  (s.hostif.descs.takeWhile fun y => y.ref != c.desc).filter fun y =>
    opcOf y == 0x32 && y.outc.isNone && !s.colls.any fun x => x.desc == y.ref

/-- Whether a waiting collective may run: fewer than 64 run, no channel of it is taken or asked for before it, its slot is in no reconfiguration or removal (R359,
R384). -/
def collFree (s : State) (c : Coll) : Bool :=
  let before := s.colls.takeWhile fun x => !sameColl x c
  let early := collsAhead s c
  let bar : Bool := match prog? s c.slot with
    | some g => (match g.bar with
      | some b => barHolds b
      | none => false)
    | none => false
  decide ((s.colls.filter (·.live)).length + early.length < 64) && !bar && !(s.colls.any fun x => x.live && chansMeet x c) &&
  !(before.any fun x => chansMeet x c) && !(early.any fun y => decide (fld y 56 1 ≤ c.chan + 2 ∧ c.chan ≤ fld y 56 1 + 2))

/-- Ends the collectives an access of which has failed (R269, R271). -/
def settleColls (s : State) : State :=
  (s.colls.filter fun c => c.fail.isSome).foldl (fun s c => match c.fail with
    | some e => endColl c e.1 e.2 s
    | none => s) s

/-- Begins a collective: its number, its channels, its first sending (R359, R360, R361). -/
def beginColl (c : Coll) (s : State) : State :=
  let cid := lookupD 0 s.nextCid c.chan
  let p := ((phasesOf c).head?).getD 0
  let s := { s with nextCid := put c.chan ((cid + 1) % 65536) s.nextCid }
  let s := updColl c.desc (fun c => { c with live := true, cid := cid, phase := p }) s
  let s := (heldKeys c).foldl (fun s k => updEchan k (fun e => { e with held := true }) s) s
  let ks := ((phasesOf c).map fun q => chanKey (succKey c q / 256) (c.chan + 2)).eraseDups
  let s := ks.foldl (fun s k => needPost k s) s
  advance c.desc 16 s

/-- Whether two ranges of one object overlap without being the same (R357). -/
def rangesClash (a n b m : Nat) : Bool := !(a == b && n == m) && n != 0 && m != 0 && decide (a < b + m) && decide (b < a + n)

/-- Lengths of a collective's source and destination ranges (R357). -/
def srcLen (c : Coll) : Nat := match c.op with
  | 2 => (shardOf c).2
  | 3 => if c.rank = c.root then c.count else 0
  | _ => c.count
def dstLen (c : Coll) : Nat := if c.op = 1 then (shardOf c).2 else c.count

/-- Whether an object may be a source or destination (R357). -/
def objFits (c : Coll) (o : ObjPlace) : Bool := o.enc == 0 && o.fmt == (if c.bf then 1 else 0)

/-- Whether a range of `n` elements runs past an object. -/
def pastObj (o : Option ObjPlace) (off n : Nat) : Bool := match o with
  | some o => decide (o.elems < off + n)
  | none => false

/-- The objects and ranges of a collective, with the first field at fault (R357, R374, R375). -/
def rangeChecks (g : Prog) (c : Coll) (layer : Option PressRec) : List Check :=
  let src := objAt g c.srcObj
  let dstIx := match layer with
    | some r => r.work
    | none => c.dstObj
  let dst := objAt g dstIx
  let useSrc : Bool := c.op != 3 || c.rank == c.root
  let fits (o : Option ObjPlace) : Bool := match o with
    | some o => objFits c o
    | none => false
  let short (o : Option ObjPlace) (n : Nat) : Bool := match o with
    | some o => decide (o.elems < n)
    | none => true
  [bad (useSrc && pastObj src c.srcOff (srcLen c)) 24,
   bad (useSrc && c.srcObj == dstIx && rangesClash c.srcOff (srcLen c) c.dstOff (dstLen c)) 24,
   bad (pastObj dst c.dstOff (dstLen c)) 32,
   bad (useSrc && !fits src) 40,
   bad (layer.isNone && !fits dst) 44] ++
  (match layer with
   | some r => [tooBig (short (objAt g r.master) (shardOf c).2 || short (objAt g r.state) (3 * (shardOf c).2)) 58]
   | none => [])

/-- Starts the waiting collectives that may run, in acceptance order (R302, R359). One whose program has been removed ends, and one whose objects a reconfiguration has
changed is held to them again (R384). -/
def startColls (s : State) : State :=
  settleColls ((s.colls.filter fun c => !c.live).foldl (fun s c =>
    if collFree s c then
      (match prog? s c.slot with
       | none => endColl c stNoProgram 0 s
       | some g => match downIn s c with
         | some e => collPeerDown c e.1 e.2 s
         | none => match (rangeChecks g c (if c.press then find? g.press c.layer else none)).find? (·.1) with
           | some e => endColl c e.2.1 e.2.2 s
           | none => beginColl c s)
    else s) s)

/-- A collective's operands, with the group once it is known (R356). -/
def collFrom (x : Desc) (group : List Nat) (rank : Nat) : Coll :=
  let b := fld x 52 1
  { desc := x.ref, live := false, slot := fin8 (fld x 53 1), cid := 0, group := group, rank := rank, op := b % 8,
    press := bitsOf b 3 1 == 1, torus := bitsOf b 4 1 == 1, bf := bitsOf b 5 1 == 1, count := fld x 48 4, tx := fld x 55 1,
    root := fld x 57 1, chan := fld x 56 1, layer := fld x 58 2, srcObj := fld x 40 4, dstObj := fld x 44 4, srcOff := fld x 24 8,
    dstOff := fld x 32 8, hub := none, toward := 0, phase := 0, got := 0, acc := [], shard := [], sums := [], own := false, pieces := [], norms := [], applied := false,
    skipped := false, written := 0, prec := none, wf := 0, begun := false, reads := [], fail := none }

/-- Whether a group table is one of R354 for this engine. -/
def groupOk (s : State) (l : List Nat) : Bool :=
  l.all (fun m => decide (m < 128)) && decide (l.eraseDups.length = l.length) && l.contains (ownId s)

/-- A collective takes its place among those that wait, in fetch order (R302, R359). -/
def acceptColl (c : Coll) (s : State) : State :=
  let place (d : DescRef) : Nat := s.hostif.descs.findIdx fun y => y.ref == d
  let first (x : Coll) : Bool := x.live || decide (place x.desc < place c.desc)
  { s with colls := s.colls.filter first ++ [c] ++ s.colls.filter fun x => !first x }

/-- The group table has come (R354, R357): the collective waits for its turn. -/
def groupIn (d : DescRef) (b : List Byte) (s : State) : State :=
  match descOf s d with
  | none => s
  | some x => if x.outc.isSome then s else
    let l := b.map (·.toNat)
    if !groupOk s l then badField d 16 s
    else onSlot x (fun k g s =>
      let c := collFrom x l (l.findIdx (· == ownId s))
      let c := { c with toward := succKey c 0 }
      let layer := if c.press then find? g.press c.layer else none
      if (g.press.all fun e => e.1 != c.layer) && c.press then badField d 58 s
      else checks d (rangeChecks g c layer) (fun s => startColls (acceptColl { c with slot := k, wf := wfCode g layer } s)) s) s

/-- The fields of COLLECTIVE (R356, R358). -/
def collChecks (x : Desc) : List Check :=
  let n := fld x 48 4
  let b := fld x 52 1
  let gs := fld x 54 1
  let tx := fld x 55 1
  let torus := bitsOf b 4 1 == 1
  [bad (n == 0) 48, tooBig (decide (268435456 < n)) 48,
   bad (decide (4 ≤ b % 8) || (bitsOf b 3 1 == 1 && b % 8 != 0)) 52,
   bad (decide (gs < 2) || decide (128 < gs)) 54,
   bad (if torus then decide (tx < 2) || decide (gs / 2 < tx) || gs % tx != 0 else tx != 0) 55,
   bad (decide (253 < fld x 56 1)) 56,
   bad (if b % 8 = 3 then decide (gs ≤ fld x 57 1) else fld x 57 1 != 0) 57,
   bad (if bitsOf b 3 1 = 1 then decide (4095 < fld x 58 2) else fld x 58 2 != 0) 58]

/-- COLLECTIVE (R356, R427): the group table is read once. -/
def collStart (x : Desc) (s : State) : State :=
  checks x.ref (collChecks x) (onSlot x fun _ g s =>
    if bitsOf (fld x 52 1) 3 1 = 1 ∧ (find? g.press (fld x 58 2)).isNone then badField x.ref 58 s
    else if s.adders = 0 then decideDesc x.ref stNotReady 5 s
    else askHost x.ref .group (BitVec.ofNat 64 (fld x 16 8)) (fld x 54 1) s) s

/-- COLLECTIVE (R356, R359): begins; given again for one that waits for its turn, it starts those that may run now. -/
def execCollective (d : DescRef) (s : State) : Res :=
  match collOf s d with
  | some _ => .next (startColls s)
  | none => runDesc 0x32 d collStart s

/-! ## Segments (R360, R364, R368 to R371) -/

/-- The element count and first index, within its chunk, of a segment that is due. -/
def segOf (f : Fmt) (n g : Nat) : Nat × Nat := (segMax f * g, min (segMax f) (n - segMax f * g))

/-- The first field of a header that disagrees with the own descriptor, in the order of R356 (R360). -/
def headFault (c : Coll) (b : List Byte) : Option Nat :=
  let f := fieldLE b
  if f 40 4 ≠ groupDigest c.group then some 16
  else if f 32 4 ≠ c.count then some 48
  else if f 36 1 ≠ opByte c then some 52
  else if f 37 1 ≠ gsize c then some 54
  else if f 38 1 ≠ c.tx then some 55
  else if f 0 2 ≠ c.cid then some 56
  else if f 39 1 ≠ c.root then some 57
  else none

/-- Which check of R368 a segment fails: SCOUNT or SCRC (true), the sum (false). -/
def sealFault (f : Fmt) (bf : Bool) (n : Nat) (b : List Byte) : Option Bool :=
  let e := b.drop 64
  if fieldLE b 12 4 ≠ n ∨ e.length ≠ (f.width * n + 7) / 8 ∨ fieldLE b 16 8 ≠ (crc64 e).toNat then some true
  else if sumOk f bf (fieldLE b 45 1 % 2 == 1) (unpackBits f.width n e) (fieldLE b 24 8) then none
  else some false

/-- A failed seal (R369): the segment is discarded, a record that names sender, channel, step and check, a seal notice, and the end of the collective. The step stands
in OPWORD[23:16], which R415 leaves unused for a channel (DESIGN CHOICE, log 171). -/
def sealFail (c : Coll) (k step : Nat) (count : Bool) (s : State) : State :=
  let peer := k / 256
  let e : ErrRec := { hubRec s 0x13 1 (hubFor s c) 3 with
    okind := 5, opword := peer + 256 * (k % 256) + 2 ^ 16 * step, opaux := ((echan s k).rxPsn + 65535) % 65536, info := if count then 1 else 0 }
  let s := sendHead c (chanKey peer (c.chan + 2)) (collHeader c 2 step (hdrPhase c c.phase) 0 0 0 0 0 0 0 0) (logRec e s)
  endCollTaken c 1 stSeal (peer + 256 * ownId s + 2 ^ 16 * (k % 256) + 2 ^ 24 * step + (if count then 2 ^ 32 else 0) +
    (if c.applied then 2 ^ 33 else 0)) s

/-- A segment that comes in at the collective's hub meets the errors of its SRAM, seal summers and press; `go` takes it if its collective runs on
(R380, R421). -/
def meetSegment (c : Coll) (k : Nat) (go : State → State) (s : State) : State :=
  let h := hubFor s c
  let us : List HubUse := [.segment, .unit, .datapath]
  if (marksAt s h us).isEmpty then go s
  else
    let nm (e : ErrRec) : ErrRec := { e with okind := 6, opword := c.cid + 2 ^ 16 * curStep c, opaux := c.count }
    let s := meetMarks h us nm (fun s => endCollTaken c 1 stUncorr 0 (shiftMsg k s)) s
    if s.colls.any (sameColl c) then go s else s

/-- A due segment of `n` elements: header and seal are checked before `good` takes it (R360, R368). -/
def checkSeg (c : Coll) (k : Nat) (b : List Byte) (f : Fmt) (bf : Bool) (n : Nat) (good : State → State) (s : State) : State :=
  meetSegment c k (fun s => match headFault c b with
    | some o => endCollTaken c 1 stBad o (shiftMsg k s)
    | none => match sealFault f bf n b with
      | some x => sealFail c k (fieldLE b 2 1) x (shiftMsg k s)
      | none => advance c.desc 16 (good (updColl c.desc (fun c => { c with got := c.got + 1, reads := [] }) (shiftMsg k s)))) s

/-- Goes on with a due segment once the elements it is added to have been read; one that fails its checks does so at once. -/
def checkWith (c : Coll) (l : List (Nat × Nat × Nat)) (k : Nat) (b : List Byte) (f : Fmt) (bf : Bool) (n : Nat) (good : State → State)
    (s : State) : State :=
  if (headFault c b).isSome || (sealFault f bf n b).isSome then checkSeg c k b f bf n good s
  else onRanges c.desc l (checkSeg c k b f bf n good) s

/-- Whether a member takes nothing in its present phase yet, or no more: it has still to read objects. -/
def notNow (c : Coll) : Bool := !c.begun || decide ((dueNow c).length ≤ c.got)

/-- A reduce segment that passed its checks is added to the own contribution and forwarded, kept, or pressed (R361, R366, R372). -/
def reduceGood (c : Coll) (st k g i n : Nat) (b : List Byte) (s : State) : State :=
  let d := c.desc
  let p := c.phase
  let f := baseFmt c
  let got := unpackBits f.width n (b.drop 64)
  let start := (chunkRange c p k).1 + i
  let own := ownElems c p start n
  let sum := (got.zip own).map fun e => addF f 0 0 e.1 e.2
  if st + 2 < ringLen c p then
    sendSeg d 0 p (st + 1) k g f sum (addF fp64 0 0 (sealSum f got) (sealSum f own)) true s
  else if c.torus && p == 0 then updColl d (fun c => { c with acc := c.acc ++ sum, sums := c.sums ++ got.zip own }) s
  else if c.press then pass1 d i sum s
  else updColl d (fun c => { c with shard := c.shard ++ sum, sums := c.sums ++ got.zip own }) s

/-- Whether a reduce segment must wait: it would be the first the press of its layer takes while it works for another collective (R376). -/
def pressWaits (s : State) (c : Coll) (st : Nat) : Bool :=
  c.press && !(c.torus && c.phase == 0) && decide (ringLen c c.phase ≤ st + 2) && c.prec.isNone && pressBusy s c

/-- Handles the message that waits on a channel if it is of one of the kinds `kinds`. -/
def onMsg (kinds : List Nat) (peer : Fin 128) (chan : BitVec 8) (act : Nat → List Byte → State → State) (s : State) : Res :=
  let k := chanKey peer.val chan.toNat
  match msgOn s k with
  | none => .next s
  | some b => .next (if kinds.contains (byteAt b 3) then startColls (act k b s) else s)

/-- A message that the schedule has no place for is taken off its channel. -/
def strayMsg (k : Nat) (s : State) : State :=
  let s := shiftMsg k s
  match collOn s k with
  | some c => if c.phase ≠ endPhase ∧ predKey c c.phase = k then needPost k s else s
  | none => s

/-- A segment of a kind that the schedule does not await: a header that disagrees with the own descriptor ends the collective (R360, R384), else it is taken off. -/
def wrongKind (c : Coll) (k : Nat) (b : List Byte) (s : State) : State :=
  match headFault c b with
  | some o => endColl c stBad o (shiftMsg k s)
  | none => strayMsg k s

/-- REDUCE_SEGMENT (R368); a message of a reserved kind is discarded. -/
def reduceSeg (k : Nat) (b : List Byte) (s : State) : State :=
  match collOn s k with
  | none => shiftMsg k s
  | some c =>
    if byteAt b 3 ≠ 0 ∨ c.phase = endPhase ∨ predKey c c.phase ≠ k then strayMsg k s
    else if ¬ isReduce c c.phase ∨ c.phase = 8 ∨ c.phase = 9 then wrongKind c k b s
    else if notNow c || coresMove s c.slot then s
    else match (dueNow c)[c.got]? with
      | none => strayMsg k s
      | some (st, q, g) =>
        let r := segOf (baseFmt c) (chunkRange c c.phase q).2 g
        if pressWaits s c st then s
        else checkWith c (ownSpans c c.phase ((chunkRange c c.phase q).1 + r.1) r.2) k b (baseFmt c) c.bf r.2 (reduceGood c st q g r.1 r.2 b) s
def execReduceSegment (peer : Fin 128) (chan : BitVec 8) (s : State) : Res :=
  onMsg ([0] ++ (List.range 251).map (· + 5)) peer chan reduceSeg s

/-- A gather or broadcast segment that passed its checks is written and forwarded unchanged (R361, R362). -/
def gatherGood (c : Coll) (f : Fmt) (st k g i n : Nat) (b : List Byte) (s : State) : State :=
  let d := c.desc
  let p := c.phase
  let l := unpackBits f.width n (b.drop 64)
  let s := giveDst d ((chunkRange c p k).1 + i) l (writeOwn d s)
  let s := if c.op = 3 then updColl d (fun c => { c with acc := c.acc ++ l }) s
    else if p = 2 then updColl d (fun c => { c with pieces := put k (lookupD [] c.pieces k ++ l) c.pieces }) s else s
  let on : Bool := if c.op = 3 then (ringAt c p + 1) % ringLen c p != bcastFrom c p else decide (st + 2 < ringLen c p)
  if on then sendSeg d 1 p (if c.op = 3 then st else st + 1) k g f l (sealSum f l) false s else s

/-- GATHER_SEGMENT (R361, R368). -/
def gatherSeg (k : Nat) (b : List Byte) (s : State) : State :=
  match collOn s k with
  | none => shiftMsg k s
  | some c =>
    if c.phase = endPhase ∨ predKey c c.phase ≠ k then strayMsg k s
    else if c.phase = 8 ∨ c.phase = 9 ∨ isReduce c c.phase then wrongKind c k b s
    else if notNow c || coresMove s c.slot then s
    else match (dueNow c)[c.got]? with
      | none => strayMsg k s
      | some (st, q, g) =>
        let f := segFmt c (workFmt c) c.phase
        let r := segOf f (chunkRange c c.phase q).2 g
        checkSeg c k b f (c.bf && !c.press) r.2 (gatherGood c f st q g r.1 r.2 b) s
def execGatherSegment (peer : Fin 128) (chan : BitVec 8) (s : State) : Res := onMsg [1] peer chan gatherSeg s

/-- A norm exchange that passed its checks is kept by rank and forwarded (R378). -/
def normGood (c : Coll) (st q : Nat) (b : List Byte) (s : State) : State :=
  let e : DWord × DWord × Bool := (BitVec.ofNat 64 (fieldLE b 64 8), BitVec.ofNat 64 (fieldLE b 72 8), fieldLE b 80 8 % 2 == 1)
  let s := updColl c.desc (fun c => { c with norms := put q e c.norms }) s
  if st + 2 < ringLen c c.phase then sendNorms c.desc c.phase (st + 1) q e s else s

/-- NORM_EXCHANGE (R378, R379, R384). -/
def normSeg (k : Nat) (b : List Byte) (s : State) : State :=
  match collOn s k with
  | none => shiftMsg k s
  | some c =>
    if c.phase = endPhase ∨ predKey c c.phase ≠ k then strayMsg k s
    else if c.phase ≠ 8 ∧ c.phase ≠ 9 then wrongKind c k b s
    else if notNow c || coresMove s c.slot then s
    else match (dueNow c)[c.got]? with
      | none => strayMsg k s
      | some (st, q, _) => checkSeg c k b fp64 false 3 (normGood c st q b) s
def execNormExchange (peer : Fin 128) (chan : BitVec 8) (s : State) : Res := onMsg [4] peer chan normSeg s

/-- SEAL_NOTICE (R370): SUSPECT on the hub adders, attention and the policy, whether or not the collective has completed. -/
def sealNote (k : Nat) (b : List Byte) (s : State) : State :=
  let cid := fieldLE b 0 2
  let row := chanKey (k / 256) (k % 256 - 2)
  let hub := match (collOn s k).filter fun c => c.cid == cid with
    | some c => hubFor s c
    | none => (find? s.sealHubs (noticeKey k cid)).getD (chooseHub s row)
  let e : ErrRec := { hubRec s 0x14 3 hub 3 with okind := 6, opword := cid + 2 ^ 16 * byteAt b 2, opaux := fieldLE b 32 4 }
  let s := suspectHub (fin4 hub) (logSuspect e (shiftMsg k s))
  if (collOn s k).isSome then needPost k s else s
def execSealNotice (peer : Fin 128) (chan : BitVec 8) (s : State) : Res := onMsg [2] peer chan sealNote s

/-- Whether an abort is that of an earlier collective on these channels, which has completed here and ignores it (R371; log 173). -/
def staleAbort (c : Coll) (b : List Byte) : Bool :=
  let n := (c.cid + 65536 - fieldLE b 0 2) % 65536
  decide (0 < n ∧ n < 32768)

/-- ABORT (R371): the collective ends as the abort says, and the abort goes on; nothing more comes on that channel. -/
def abortIn (k : Nat) (b : List Byte) (s : State) : State :=
  let s := shiftMsg k s
  match collOn s k with
  | none => s
  | some c =>
    if c.phase = endPhase then s
    else if staleAbort c b then (if predKey c c.phase = k then needPost k s else s)
    else
      let st := byteAt b 44
      let det := fieldLE b 48 8
      let det := if st = stSeal then det - 2 ^ 33 * bitsOf det 33 1 + (if c.applied then 2 ^ 33 else 0) else det
      updEchan k (fun e => { e with drain := 0 }) (endColl c st det s)
def execAbort (peer : Fin 128) (chan : BitVec 8) (s : State) : Res := onMsg [3] peer chan abortIn s

/-! ## Answers of the service net (R366) -/

/-- A collective goes on after an answer of the service net: with its phase, or with the reduce segment that waits for what it is added to. -/
def goColl (s : State) (c : Coll) : State :=
  withColl c.desc (fun c s =>
    if !c.live then s
    else if !c.begun || notNow c then advance c.desc 16 s
    else if c.reads.isEmpty then s
    else match msgOn s (predKey c c.phase) with
      | some b => if isReduce c c.phase then reduceSeg (predKey c c.phase) b s else s
      | none => s) s

/-- The collectives go on that may. -/
def goColls (s : State) : State := if s.colls.isEmpty then s else startColls (s.colls.foldl goColl s)

/-- READ_DATA (R272): its bytes are placed; the read ends by count with the status of its lowest packet that has one. -/
def execReadData (p : Packet) (s : State) : Res :=
  .next (goColls (arrive 0x21 1 p (fun s => if unitOpen s p.dst then takeReadData p s else lostResponse s) s))

/-- WRITE_ACK (R273): the write message ends with its status; a CXL.mem write is then reported complete (R265). -/
def execWriteAck (p : Packet) (s : State) : Res :=
  .next (goColls (arrive 0x22 1 p (fun s => if unitOpen s p.dst then takeAck 2 p s else lostResponse s) s))

/-- MSG_ACK (R259): the MSG message ends. -/
def execMsgAck (p : Packet) (s : State) : Res :=
  .next (goColls (arrive 0x23 1 p (fun s => if unitOpen s p.dst then takeAck 3 p s else lostResponse s) s))

/-- Whether packets of a request still wait to be injected: its time has not begun (R269). -/
def feeding (s : State) (r : NetReq) : Bool :=
  s.snet.wires.feeds.any fun e => e.2.any fun q => q.1.vcr == 0 && q.1.src == r.unit && q.1.tag == r.tag && q.1.opc == r.opc

/-- MESSAGE_TIMEOUT (R269): 1 ms after its last packet an unanswered message ends with PROGRESS_TIMEOUT and a record; its tag rests for 2 ms. -/
def execMessageTimeout (u : BitVec 24) (tag : BitVec 12) (s : State) : Res :=
  match s.snet.reqs.find? fun r => r.unit == u && r.tag == tag && decide (r.at_ + ms 1 ≤ s.time) && !feeding s r with
  | none => .next s
  | some r =>
    let s := logRec (netRec s u tag r.opc u 0) s
    let s := { s with snet := { s.snet with dead := s.snet.dead ++ [(u, tag, s.time + ms 2)] } }
    .next (goColls (releaseHeld u (endReq r 12 stTimeout [] s)))

end Sys2Proof.Machine
end

