-- ==== Sys2Proof/Machine/EdgeNet.lean ====
section
/-! DEFINITION. The edge transport: EDGE_SEND and EDGE_RECV, arriving packets, TACKs, heartbeats, and peers going down and up (R338 to R342,
R345, R346, R351, R381 to R384). -/

namespace Sys2Proof.Machine

/-! ## EDGE_SEND and EDGE_RECV (R345, R346, R351, R359) -/

/-- The fields that need no program (R345, R359). -/
def edgeChecks (x : Desc) (s : State) : List Check :=
  [tooBig (opcOf x == 0x30 && decide (16777216 < edgeLen x)) 24, bad (decide (127 < edgePeer x) || edgePeer x == ownId s) 28,
   bad (echan s (edgeKey x)).held 29, bad (edgeKind x == 3) 30]

/-- The fields that name a program's port or object: the port must carry the stream, the object hold the range (R345). -/
def edgeProgChecks (x : Desc) (g : Prog) : List Check :=
  let send : Bool := opcOf x == 0x30
  if edgeKind x = 1 then
    [bad (match bindOf g (fld x 32 2) with
      | some p => !(if send then p.hasOut else p.hasIn)
      | none => true) 32]
  else
    [tooBig (match objAt g (fld x 36 4) with
      | some o => decide (o.len < fld x 16 8 + edgeLen x)
      | none => false) 24,
     bad (objAt g (fld x 36 4)).isNone 36]

/-- Goes on unless the peer has no route or is down (R342, R346). -/
def toPeer (x : Desc) (act : State → State) (s : State) : State :=
  let p := edgePeer x
  let det (cause : Nat) := peerDownDetail p (fld x 29 1) cause 0
  if s.edge.routes[fin128 p] = 0 then decideDesc x.ref stPeerDown (det 5) s
  else match (peerOf s p).down with
    | some c => decideDesc x.ref stPeerDown (det c) s
    | none => act s

/-- The checks of an edge descriptor, then its work with its program, if it names one. -/
def edgeStart (x : Desc) (act : Option (Fin 8 × Prog) → State → State) (s : State) : State :=
  checks x.ref (edgeChecks x s) (fun s =>
    if edgeKind x = 0 then toPeer x (act none) s
    else onSlot x (fun k g s => checks x.ref (edgeProgChecks x g) (toPeer x (act (some (k, g)))) s) s) s

/-- The ring engine of the hub that has a channel's port (R23): it reads and writes objects for edge messages. -/
def portRing (s : State) (k : Nat) : BitVec 24 := hubEp (portHub s k) 1

/-- The bytes of an EDGE_SEND: read from host memory, taken from an exit stream, or read from an object. -/
def sendBytes (x : Desc) (k : Option (Fin 8 × Prog)) (s : State) : State :=
  let n := edgeLen x
  match k with
  | none => if n = 0 then s else askHost x.ref .edgeData (BitVec.ofNat 64 (fld x 16 8)) n s
  | some (k, g) =>
    if edgeKind x = 1 then
      (match bindOf g (fld x 32 2) with
       | some p => pumpOut k p.slot s
       | none => s)
    else match objAt g (fld x 36 4) with
      | none => s
      | some o => netObjRead (portRing s (edgeKey x)) (fun i => .edgeRead x.ref i) k o (fld x 16 8) n s

/-- Whether an earlier fetched descriptor of the same opcode and channel has not started (R302, R345). -/
def edgeBehind (s : State) (x : Desc) : Bool :=
  (s.hostif.descs.takeWhile fun y => y.ref != x.ref).any fun y =>
    opcOf y == opcOf x && edgeKey y == edgeKey x && !y.started && y.outc.isNone

/-- Runs an edge descriptor in its turn. -/
def runEdge (o : Nat) (d : DescRef) (act : Desc → State → State) (s : State) : Res :=
  match descOf s d with
  | none => .next s
  | some x => if edgeBehind s x then .next s else runDesc o d act s

/-- EDGE_SEND (R345). -/
def execEdgeSend (d : DescRef) (s : State) : Res :=
  runEdge 0x30 d (fun x s => edgeStart x (fun k s =>
    let m : TxMsg := { desc := some x.ref, bytes := [], parts := [], len := edgeLen x, sent := 0, done := false, abort := false }
    sendBytes x k (enqueue (edgeKey x) m s)) s) s

/-- A receive still unused that a collective left for late seal notices gives its place to the next EDGE_RECV (R345, R370). -/
def isSpare (r : RxPost) : Bool := r.desc.isNone && !r.full && r.come == 0

/-- Posts an EDGE_RECV (R339, R345). -/
def postEdge (x : Desc) (s : State) : State :=
  let k := edgeKey x
  let c := echan s k
  let r : RxPost := { desc := some x.ref, len := edgeLen x, come := 0, got := [], live := true, full := false }
  let i := c.rx.findIdx isSpare
  if c.drain = 0 ∧ i < c.rx.length then setEchan k { c with rx := c.rx.set i r } s else postRecv k r s

/-- EDGE_RECV (R345). -/
def execEdgeRecv (d : DescRef) (s : State) : Res := runEdge 0x31 d (fun x s => edgeStart x (fun _ s => postEdge x s) s) s

/-! ## Packets (R338, R339, R342) -/

/-- The key of a packet's channel. -/
def pktKey (q : EdgePkt) : Nat := chanKey q.src q.chan

/-- Whether a packet counts as one of its peer: to this engine, of a peer that is up, in its incarnation (R342). -/
def pktGood (s : State) (q : EdgePkt) : Bool :=
  q.dst == ownId s && decide (q.src < 128) && (peerOf s q.src).down.isNone && q.inc == (peerOf s q.src).inc

/-- Takes a packet out of a port's inbox by its place: its flits are passed on (R336). -/
def pullPkt (n : Fin 24) (i : Nat) (q : EdgePkt) (s : State) : State :=
  passOn n (vcOf q) q.flits (updPort n (fun p => { p with inbox := p.inbox.eraseIdx i }) s)

/-- A packet that belongs to nothing is discarded and counted; a good one shows its peer alive before `act` (R340, R342). Credits that no other flit returns go in
IDLEs (R334). -/
def withPkt (n : Fin 24) (i : Nat) (q : EdgePkt) (act : State → State) (s : State) : State :=
  let s := pullPkt n i q s
  idles n 64 (if pktGood s q then act (setPeer q.src { peerOf s q.src with heard := some s.time } s) else countBad n s)

/-- Whether the credits of a packet's flits may be held (R336: at most 63 of a VC are returned and not sent). -/
def credRoom (p : Port) (q : EdgePkt) : Bool := p.st == .up || decide (p.rxCred[fin4 (vcOf q)] + q.flits ≤ 63)

/-- The first packet of a kind in a port's inbox. -/
def firstOf (s : State) (n : Fin 24) (kind : Nat) : Option (Nat × EdgePkt) :=
  let l := (portOf s n).inbox
  let i := l.findIdx fun q => q.kind == kind && credRoom (portOf s n) q
  (l[i]?).map fun q => (i, q)

/-- The receive that the next packet of a channel goes to. -/
def curPost (c : EChan) : Option RxPost := c.rx.find? fun r => !r.full

/-- The part of a packet that its receive takes (R345). -/
def fitting (r : RxPost) (q : EdgePkt) : List Byte := q.bytes.take (r.len - r.come)

/-- Whether bytes of an EDGE_RECV are still on their way to the hub of their sink. -/
def rxOnWay (s : State) (d : DescRef) : Bool := s.snet.reqs.any fun r => match r.why with
  | .rxPart x _ => x == d && r.got == 0
  | _ => false

/-- Whether an expected packet must wait for room in a landing buffer, for the end of a buffer move, or for earlier bytes to reach it (R316, R339, R345). -/
def pktWaits (s : State) (q : EdgePkt) : Bool :=
  let c := echan s (pktKey q)
  if !pktGood s q || q.psn != c.rxPsn % 65536 then false
  else match curPost c with
    | none => false
    | some r => match r.desc with
      | none => false
      | some d => match descOf s d with
        | none => false
        | some x =>
          r.live && edgeKind x == 1 && (match sinkSlot s x with
            | none => false
            | some (k, n) => match slotAt s k n with
              | none => false
              | some sl => s.moving.getLsbD (n / 128) || !takesEdge sl (fitting r q).length || rxOnWay s d)

/-- The first MSG packet of a port that need not wait and that no earlier one of its channel precedes. -/
def nextMsg (s : State) (n : Fin 24) : Option (Nat × EdgePkt) :=
  let l := (portOf s n).inbox
  let msg (q : EdgePkt) : Bool := q.kind != 1 && q.kind != 2
  let i := (List.range l.length).find? fun i => match l[i]? with
    | some q => msg q && credRoom (portOf s n) q && !pktWaits s q && !((l.take i).any fun y => msg y && pktKey y == pktKey q)
    | none => false
  match i with
  | none => none
  | some i => (l[i]?).map fun q => (i, q)

/-- The hub that holds the sink of an EDGE_RECV of KIND 0 or 1, and its unit (R22, R255). -/
def sinkHub (s : State) (x : Desc) : Nat × Nat :=
  if edgeKind x = 0 then (0, 1)
  else match sinkSlot s x with
    | some (_, n) => (n / 128, 2)
    | none => (0, 2)

/-- Bytes of a message that came through a port go to the sink of its EDGE_RECV, over the service net to another hub (R22, R345). -/
def toSink (n : Fin 24) (x : Desc) (off : Nat) (b : List Byte) (s : State) : State :=
  if edgeKind x < 2 then
    let h := sinkHub s x
    if hubOf n.val = h.1 then landRx x off b s
    else netMsg (hubEp (hubOf n.val) 6) (hubEp h.1 h.2) (.rxPart x.ref off) none b s
  else
    match slotOf x with
    | none => s
    | some k => match prog? s k with
      | none => s
      | some g => match objAt g (fld x 36 4) with
        | none => s
        | some o => netObjWrite (hubEp (hubOf n.val) 1) (.edgeWrite x.ref) k o (fld x 16 8 + off) b s

/-- An EDGE_RECV ends once the bytes of its message are written (R345). -/
def recvEnd (d : DescRef) (detail : Nat) (s : State) : State :=
  if busyDesc s d then updDesc d (fun x => { x with due := some detail }) s else doneDesc d detail s

/-- The whole message of a receive has come: its descriptor ends (R345, R351). -/
def msgDone (r : RxPost) (abort : Bool) (s : State) : State :=
  match r.desc with
  | none => s
  | some d =>
    if !r.live then s
    else if r.len < r.come then recvEnd d 0 (failDesc d stLimit 24 s)
    else recvEnd d (r.come + (if abort then 2 ^ 32 else 0)) s

/-- A collective's message that is whole; of an ended collective it is discarded, up to the abort (R371). -/
def collWhole (k : Nat) (r : RxPost) (s : State) : State :=
  let c := echan s k
  if c.drain = 0 then s
  else
    let left := if byteAt r.got 3 = 3 then 0 else c.drain - 1
    let rest := c.rx.filter fun y => !(y.desc.isNone && y.full)
    if left = 0 then setEchan k { c with rx := rest, drain := 0 } s
    else setEchan k { c with rx := collPost :: rest, drain := left, posted := c.posted + 1 } s

/-- The receive after a packet (R339). -/
def afterPkt (r : RxPost) (q : EdgePkt) : RxPost :=
  { r with come := r.come + q.bytes.length, got := if r.desc.isNone then r.got ++ fitting r q else [],
           full := r.desc.isNone && q.mlast }

/-- Puts a receive back in its place, or takes a descriptor's off when its message is whole. -/
def putPost (r : RxPost) (last : Bool) : List RxPost → List RxPost
  | [] => []
  | y :: t => if y.full then y :: putPost r last t else if last && r.desc.isSome then t else r :: t

/-- A collective's whole message goes on to the hub that works on it where that is not the port's (R366). -/
def toWorkHub (n : Fin 24) (k : Nat) (r : RxPost) (s : State) : State :=
  match collOn s k with
  | none => s
  | some c =>
    let p := hubOf n.val
    if hubFor s c = p then s
    else netMsg (hubEp p 6) (collUnit s c) (.segIn c.desc k) (some c.slot) r.got s

/-- Delivers the expected packet of a channel (R339). -/
def deliver (n : Fin 24) (q : EdgePkt) (r : RxPost) (s : State) : State :=
  let k := pktKey q
  let s := match r.desc with
    | none => s
    | some d => match descOf s d with
      | some x => if r.live then toSink n x r.come (fitting r q) s else s
      | none => s
  let r' := afterPkt r q
  let s := updEchan k (fun c => { c with
    rx := putPost r' q.mlast c.rx, rxPsn := c.rxPsn + 1, rxMsg := if q.mlast then c.rxMsg + 1 else c.rxMsg, since := c.since + 1,
    ackDue := some (c.ackDue.getD s.time) }) s
  let s := if q.mlast then (if r.desc.isNone then (if (echan s k).drain = 0 then toWorkHub n k r' s else collWhole k r' s) else msgDone r' q.abort s) else s
  if q.mlast || decide (8 ≤ (echan s k).since) then sendTack k s else s

/-- A MSG packet (R339): delivered in sequence, else discarded; one below the expected PSN is answered with a TACK. -/
def msgPkt (n : Fin 24) (q : EdgePkt) (s : State) : State :=
  let k := pktKey q
  let c := echan s k
  if q.kind ≠ 0 then countBad n s
  else if q.psn = c.rxPsn % 65536 then
    (match curPost c with
     | some r => deliver n q r s
     | none => countBad n s)
  else if (c.rxPsn + 65536 - q.psn) % 65536 < 32768 then sendTack k (countBad n s)
  else countBad n s

/-- EDGE_MSG_PACKET (R339). -/
def execEdgeMsgPacket (n : Fin 24) (s : State) : Res :=
  match nextMsg s n with
  | none => .next s
  | some (i, q) => .next (withPkt n i q (msgPkt n q) s)

/-- The messages of a channel whose last packet is acknowledged: sent, and no unacknowledged last packet of theirs left. -/
def ackedMsgs (c : EChan) : Nat := (c.tx.takeWhile (·.done)).length - (c.unack.filter fun e => e.1.mlast).length

/-- Ends the EDGE_SENDs whose messages are acknowledged (R345). -/
def endSends (k : Nat) (s : State) : State :=
  let c := echan s k
  let m := ackedMsgs c
  let s := setEchan k { c with tx := c.tx.drop m, txMsg := c.txMsg + m } s
  (c.tx.take m).foldl (fun s t => match t.desc with
    | some d => doneDesc d t.sent s
    | none => s) s

/-- A TACK (R339): acknowledges packets below ACKPSN and raises the grant. -/
def tackIn (q : EdgePkt) (s : State) : State :=
  let k := pktKey q
  let c := echan s k
  let ack := fieldLE q.bytes 0 2
  let n := match c.unack with
    | e :: _ => (ack + 65536 - e.1.psn) % 65536
    | [] => 0
  let un := if n ≤ c.unack.length then c.unack.drop n else c.unack
  let up := (fieldLE q.bytes 2 2 + 65536 - c.grant % 65536) % 65536
  let s := setEchan k { c with unack := un, grant := if up < 32768 then c.grant + up else c.grant } s
  let s := pump k (endSends k s)
  match collOn s k with
  | some c => startColls (finishColl c.desc s)
  | none => s

/-- TACK (R339). -/
def execTack (n : Fin 24) (s : State) : Res :=
  match firstOf s n 1 with
  | none => .next s
  | some (i, q) => .next (withPkt n i q (tackIn q) s)

/-- HEARTBEAT (R340). -/
def execHeartbeat (n : Fin 24) (s : State) : Res :=
  match firstOf s n 2 with
  | none => .next s
  | some (i, q) => .next (withPkt n i q id s)

/-- TACK_TIMER (R339): 1 µs after a packet not yet acknowledged. -/
def execTackTimer (peer : Fin 128) (chan : BitVec 8) (s : State) : Res :=
  let k := chanKey peer.val chan.toNat
  match (echan s k).ackDue with
  | some t => .next (if t + us 1 ≤ s.time then sendTack k s else s)
  | none => .next s

/-- HEARTBEAT_SEND (R340): through the first port that qualifies for the engine. -/
def execHeartbeatSend (peer : Fin 128) (s : State) : Res :=
  if s.edge.routes[peer] = 0 ∨ peer.val = ownId s then .next s
  else match choosePort s (chanKey peer.val 0) with
    | none => .next s
    | some n =>
      .next (sendPkt n
        { src := ownId s, dst := peer.val, chan := 0, psn := 0, mfirst := false, mlast := false, kind := 2, abort := false,
          inc := (peerOf s peer.val).inc, bytes := [] } (setPeer peer.val { peerOf s peer.val with beat := some s.time } s))

/-! ## Peers (R340, R342, R381 to R383) -/

/-- A peer is lost: the running collectives with it end with PEER_DOWN, then its channels break (R342, R382). -/
def losePeer (peer cause : Nat) (s : State) : State :=
  let cs := s.colls.filter fun c => c.live && c.group.contains peer
  startColls (breakPeer peer cause (cs.foldl (fun s c => collPeerDown c peer cause s) s))

/-- TRANSPORT_TIMEOUT (R340). -/
def execTransportTimeout (peer : Fin 128) (s : State) : Res :=
  let late := s.edge.chans.any fun e => e.1 / 256 == peer.val && e.2.unack.any fun u => decide (u.2 + tmo s < s.time)
  .next (if late ∧ (peerOf s peer.val).down.isNone then losePeer peer.val 1 s else s)

/-- HEARTBEAT_LOST (R340). -/
def execHeartbeatLost (peer : Fin 128) (s : State) : Res :=
  let p := peerOf s peer.val
  let late : Bool := match p.heard with
    | some t => decide (t + tmo s < s.time)
    | none => false
  .next (if late ∧ p.down.isNone then losePeer peer.val 2 s else s)

/-- PEER_DOWN (R381, R382): its DETAIL counts the descriptors it ended, and it completes after them. -/
def peerDownWork (x : Desc) (s : State) : State :=
  let p := fld x 16 1
  if 127 < p ∨ p = ownId s then badField x.ref 16 s
  else if (peerOf s p).down.isSome then doneDesc x.ref 0 s
  else
    let s' := losePeer p 3 s
    let ended := (s.hostif.descs.filter fun y => y.outc.isNone && (match descOf s' y.ref with
      | some z => z.outc.isSome
      | none => false)).map (·.ref)
    doneDesc x.ref ended.length (updDesc x.ref (fun y => { y with after := ended }) s')
def execPeerDown (d : DescRef) (s : State) : Res := runDesc 0x34 d peerDownWork s

/-- A peer's channels begin anew under an incarnation (R342). -/
def reopenPeer (p inc : Nat) (s : State) : State :=
  let s := setPeer p { down := none, inc := inc, heard := none, beat := none } s
  { s with edge := { s.edge with chans := s.edge.chans.map fun e => if e.1 / 256 = p then (e.1, { EChan.idle with held := e.2.held }) else e } }

/-- PEER_UP (R383). -/
def peerUpWork (x : Desc) (s : State) : State :=
  let p := fld x 16 1
  let inc := fld x 17 1 % 16
  if 127 < p ∨ p = ownId s then badField x.ref 16 s
  else if (peerOf s p).down.isNone ∧ (peerOf s p).inc = inc then doneDesc x.ref 0 s
  else
    let s := if (peerOf s p).down.isNone then losePeer p 3 s else s
    doneDesc x.ref 0 (reopenPeer p inc s)
def execPeerUp (d : DescRef) (s : State) : Res := runDesc 0x35 d peerUpWork s

end Sys2Proof.Machine
end

