-- ==== Sys2Proof/Machine/Sequencer.lean ====
section
/-! DEFINITION. The trellis router's beat: entries, multicast, solera, steering, channels at the C port, parcel
crossings and hub spans (R26, R106, R138 to R153, R159, R160, R168 to R175, R180 to R184), hold beats and hold commands (R163 to R167). -/

namespace Sys2Proof.Machine

/-! ## Entries (R143, R144) -/

/-- Source of output `o` of an entry (0 N, 1 E, 2 S, 3 W, 4 C): 0 none, 1 to 5 an input. -/
def srcOf (e : Nat) (o : Nat) : Nat := bits e (5 * o + 2) (5 * o)
/-- Operation of output `o`: 0 PASS, 1 COPY, 2 SOLERA, 3 STEER. -/
def opOf (e : Nat) (o : Nat) : Nat := bits e (5 * o + 4) (5 * o + 3)
/-- Steering route of output `o`. -/
def rtOf (e : Nat) (o : Nat) : Nat := bits e (39 + 2 * o) (38 + 2 * o)
def solMask (e : Nat) : Nat := bits e 29 25
def solType (e : Nat) : Nat := bits e 31 30
def ctlSrc (e : Nat) : Nat := bits e 34 32
def datSrc (e : Nat) : Nat := bits e 37 35

/-- The set bits of a 5-bit mask, in port order N, E, S, W, C. -/
def portsOf (m : Nat) : List Nat := (List.range 5).filter fun i => m / 2 ^ i % 2 == 1

/-- Whether an entry is valid (R144). -/
def entryValid (e : Nat) : Bool :=
  let os := List.range 5
  let drives (i : Nat) : List Nat := os.filter fun o => srcOf e o == i
  let sol := os.filter fun o => opOf e o == 2
  os.all (fun o => decide (srcOf e o < 6)) && decide (ctlSrc e < 6) && decide (datSrc e < 6) &&
  os.all (fun o => srcOf e o != o + 1) &&
  os.all (fun o => !(opOf e o == 0 && srcOf e o != 0) || (drives (srcOf e o)).length == 1) &&
  os.all (fun o => opOf e o != 1 || (srcOf e o != 0 && (drives (srcOf e o)).all fun q => opOf e q == 1)) &&
  os.all (fun o => decide (opOf e o < 2) || srcOf e o == 0) &&
  decide (sol.length ≤ 1) &&
  (match sol with
    | [] => solMask e == 0 && solType e == 0
    | o :: _ =>
      let n := (portsOf (solMask e)).length
      (n == 2 || n == 3) && !(portsOf (solMask e)).contains o && decide (solType e < 3)) &&
  os.all (fun o => opOf e o == 3 || rtOf e o == 0)

/-! ## Solera (R106, R149, R150) -/

/-- One lane of a fabric addition: FP32 or BF16 rounded to nearest even, INT32 modulo 2^32 (R106). -/
def addLane (ty a b : Nat) : Nat :=
  match ty with
  | 0 => addF fp32 0 0 a b
  | 1 => addF bf16 0 0 a b
  | _ => (a + b) % 2 ^ 32

/-- The lanes of a word for a SOL_TYPE (R149). -/
def quadLanes (ty : Nat) (q : Quad) : List Nat :=
  let w := if ty = 1 then 16 else 32
  (List.range (128 / w)).map fun i => (q.extractLsb' (w * i) w).toNat

/-- The lanewise sum of two words. -/
def addQuad (ty : Nat) (a b : Quad) : Quad :=
  BitVec.ofNat 128 (packN (if ty = 1 then 16 else 32) (((quadLanes ty a).zip (quadLanes ty b)).map fun p => addLane ty p.1 p.2))

/-- The solera output: the first two inputs in port order, then the third (R106); V = 1, EP = 0 (R149). -/
def solera (ty : Nat) : List TWord → TWord
  | [] => TWord.empty
  | w :: l => { data := l.foldl (fun a x => addQuad ty a x.data) w.data, v := true, ep := false, bad := 0 }

/-! ## Spans and headlands (R26, R159, R160) -/

/-- The bound ports of a program that use a span port in the present beat of the headland schedule, by one of their beat lists. -/
def bindsAt (s : State) (h n : Nat) (beats : PortBind → List Nat) (g : Prog) : List PortBind :=
  g.place.ports.filter fun b => b.slot / 128 == h && b.span == n && (beats b).contains (s.beats.wrb % 64)

/-- The beats of a port's streams and of their credit words; a port without the stream has none (R228). -/
def entryBeats (b : PortBind) : List Nat := if b.hasIn then b.inAt else []
def entryCredits (b : PortBind) : List Nat := if b.hasIn then b.inCrAt else []
def exitBeats (b : PortBind) : List Nat := if b.hasOut then b.outAt else []
def exitCredits (b : PortBind) : List Nat := if b.hasOut then b.outCrAt else []

/-- Whether a program's ingress queues release tokens: not from a barrier's stop beat, nor from a fence's first beat (R190, R448). -/
def releases (s : State) (k : Fin 8) (g : Prog) : Bool :=
  g.running && isOpen s (progCode k.val) && (match g.bar with
    | some b => b.step == .accepted || b.step == .restarted
    | none => true)

/-- The slot whose entry stream has a word and a credit for a span port in the present beat (R176, R179, R318). -/
def entryAt (s : State) (h n : Nat) : Option (Fin 8 × Nat × Slot × Bool) :=
  (List.finRange 8).findSome? fun k => match prog? s k with
    | none => none
    | some g => if releases s k g then
        (bindsAt s h n entryBeats g).findSome? fun b => match find? g.slots b.slot with
          | some x => if decide (0 < x.lcap) && decide (16 ≤ x.landing.length) && decide (0 < x.inCred) then some (k, b.slot, x, g.epoch) else none
          | none => none
      else none

/-- The slot whose exit stream has a credit slot on a span port in the present beat (R176, R181). -/
def exitCreditAt (s : State) (h n : Nat) : Option (Fin 8 × Nat × Bool) :=
  (List.finRange 8).findSome? fun k => match prog? s k with
    | none => none
    | some g => if progRuns s g then (bindsAt s h n exitCredits g).head?.map fun b => (k, b.slot, g.epoch) else none

/-- The hub moves words of a slot's credited egress queue into the egress queue while it has room; each adds a credit to return (R179, R181, R322). -/
def drainExit (k : Fin 8) (n : Nat) : Nat → State → State
  | 0, s => s
  | f + 1, s =>
    match slotAt s k n with
    | none => s
    | some x => match x.outQ with
      | [] => s
      | q :: t =>
        if x.egress.length + 16 ≤ x.ecap then
          drainExit k n f (addExit k n (leBytes 16 q.toNat) (updSlot k n (fun y => { y with outQ := t, outPend := y.outPend + 1 }) s))
        else s

/-- The word a hub puts on a span port in the present beat (R159, R176, R318): the next 16 bytes of a landing buffer while the entry stream has
credit, or a credit word of an exit stream; none on a port out of service (R29). -/
def spanIn (h n : Nat) (s : State) : TWord × State :=
  if !spanUp s h n then (TWord.empty, s)
  else match entryAt s h n with
    | some (k, n, x, ep) =>
      ({ data := BitVec.ofNat 128 (ofLE (x.landing.take 16)), v := true, ep := ep, bad := 0 },
       release16 k n (updSlot k n (fun y => { y with inCred := y.inCred - 1 }) s))
    | none => match exitCreditAt s h n with
      | none => (TWord.empty, s)
      | some (k, n, ep) =>
        let s := drainExit k n 8 s
        match slotAt s k n with
        | none => (TWord.empty, s)
        | some x =>
          if x.outPend = 0 then (TWord.empty, s)
          else ({ data := BitVec.ofNat 128 (x.outPend % 16), v := true, ep := ep, bad := 0 }, updSlot k n (fun y => { y with outPend := 0 }) s)

/-- Counts a word with an old epoch (R192, R193): in the barrier's completion from its restart on, else, and where a barrier writes no completion
(log 124), in EPOCH_DISCARDS. -/
def epochDiscard (k : Fin 8) (s : State) : State :=
  let other (g : Prog) : Prog := { g with discards := sat32 (g.discards + 1) }
  updProg k (fun g => match g.bar with
    | some b => if b.step = .restarted ∧ b.desc.isSome then { g with bar := some { b with late := sat32 (b.late + 1) } } else other g
    | none => other g) s

/-- The depth of a slot's entry stream. -/
def entryDepth (s : State) (k : Fin 8) (n : Nat) : Nat :=
  match prog? s k with
  | some g => ((g.place.ports.find? fun b => b.slot == n).map (·.inDepth)).getD 0
  | none => 0

/-- A word that leaves through a span port (R159, R176, R318): it joins the credited egress queue of the slot whose position this is, or gives an
entry stream its credits back; a word of an old epoch is discarded (R183, R193), and so is one on a port out of service (R29). -/
def spanOut (h n : Nat) (w : TWord) (s : State) : State :=
  let at_ (beats : PortBind → List Nat) : Option (Fin 8 × Nat × Bool) := (List.finRange 8).findSome? fun k => match prog? s k with
    | none => none
    | some g => (bindsAt s h n beats g).head?.map fun b => (k, b.slot, g.epoch)
  if !spanUp s h n then s
  else match at_ exitBeats with
    | some (k, slot, ep) =>
      if w.ep = ep then drainExit k slot 8 (updSlot k slot (fun y => { y with outQ := y.outQ ++ [w.data] }) s) else epochDiscard k s
    | none => match at_ entryCredits with
      | none => s
      | some (k, slot, ep) =>
        if w.ep = ep then
          updSlot k slot (fun y => { y with inCred := min (entryDepth s k slot) (y.inCred + (w.data.extractLsb' 0 4).toNat) }) s
        else epochDiscard k s

/-! ## Records of the router (R168, R175, R180, R184, R414 to R416, R420) -/

/-- The programs a router serves: its owner, or in a headland the programs with drives in it (R147, R160). -/
def routerProgs (s : State) (t : TileAt) : List (Fin 8) :=
  let x := tileAt s t
  if x.router.owner < 8 then [fin8 x.router.owner] else if x.router.owner = 8 then usersOf s t else []

/-- The programs that an entry of a router drives for (R160). -/
def entryProgs (s : State) (t : TileAt) (idx : Nat) : List (Fin 8) :=
  let x := tileAt s t
  if x.router.owner < 8 then [fin8 x.router.owner]
  else (usersOf s t).filter fun k => match prog? s k with
    | some g => (headDrives g t).any fun e => e.1 == idx
    | none => false

/-- A router's record, naming the program it serves; a headland router's own schedule serves none (R414, R415). -/
def routerRec (s : State) (t : TileAt) (ks : List (Fin 8)) (src sev port : Nat) : ErrRec :=
  let e := tileRec s src sev 2 port t
  match ks with
  | k :: _ => withProg s k e
  | [] => e

/-- A word that enters, or stands in the pipeline, with a parity failure (R168, R420): RECOVERED the first time, SUSPECT when it repeats at this router
within the recurrence window; the next completion on each bound SQ is spoilt. -/
def parityMismatch (t : TileAt) (port : Nat) (w : TWord) (s : State) : State :=
  if w.bad = 0 then s
  else
    let again := recurs s (tileAt s t).router.parityAt
    let e := { routerRec s t (routerProgs s t) 0x07 (if again then 3 else 1) port with info := w.bad.toNat }
    let s := spoil t (updTile t (fun x => { x with router := { x.router with parityAt := some s.time } }) s)
    if again then suspectTile t (logSuspect e s) else logRec e s

/-- A steering word popped with a parity failure goes on unchanged, with a record (R184). -/
def steerParity (t : TileAt) (w : TWord) (s : State) : State :=
  if w.bad = 0 then s else spoil t (logRec (routerRec s t (routerProgs s t) 0x0A 1 7) s)

/-- A word pushed into a full queue is lost, and the domain is fenced (R175, R180). -/
def queueOverflow (t : TileAt) (e : ErrRec) (s : State) : State := recFence e (routerProgs s t) 4 s

/-- An invalid entry, or one that fails its parity: empty outputs, a record, and the domains it drives for are fenced (R144, R160, R420). -/
def badEntry (t : TileAt) (idx phase : Nat) (entry : DWord) (s : State) : State :=
  let ks := entryProgs s t idx
  recFence { routerRec s t ks 0x08 2 7 with okind := 3, opword := idx, opaux := phase, info := entry.toNat } ks 4 s

/-! ## Inputs, steering, outputs -/

/-- The word on a router input in the present beat (R138, R140). -/
def linkIn (s : State) (t : TileAt) (port : Nat) : TWord :=
  match s.links.find? fun l => l.dst == t && l.port == port && l.beat == s.beats.wrb with
  | some l => l.word
  | none => TWord.empty

/-- Drives a word on an output N, E, S or W (R138, R140, R153): to the neighbour's facing input one beat on, five across a parcel boundary; words
toward a parcel that is OFF, a row gap or the bare edge are discarded; a span port leads to the hub. -/
def drive (t : TileAt) (o : Nat) (w : TWord) (s : State) : State :=
  if w = TWord.empty then s
  else match neighbour t o with
    | some u =>
      if inGap s u || !netOn s (parcelOf u).val then s
      else pushWord u ((o + 2) % 4) (s.beats.wrb + (if parcelOf u = parcelOf t then 1 else 5)) w s
    | none => match spanOf t o with
      | some (h, n) => if w.v then spanOut h n w s else s
      | none => s

/-- The credit word due on the C input: in a credit slot of a receive entry with pending credits, the count is sent and cleared (R181). -/
def creditWord (s : State) (t : TileAt) (pos : Nat × Nat) : Option (Fin 8 × Nat) :=
  let x := tileAt s t
  (List.finRange 8).findSome? fun i =>
    let c : Chan := x.chans[i]
    if c.cfg.recv && creditSlot x.router c.cfg pos && decide (c.pend ≠ 0) then some (i, c.pend) else none

/-- The word on the C input: what a SEND put there, else a due credit word (R60, R181). -/
def cInput (t : TileAt) (pos : Nat × Nat) (s : State) : TWord × State :=
  let w := linkIn s t 4
  if w ≠ TWord.empty then (w, s)
  else match creditWord s t pos with
    | none => (w, s)
    | some (i, n) =>
      ({ data := BitVec.ofNat 128 (n % 16), v := true, ep := epochAt s t, bad := 0 },
       updTile t (fun x => { x with chans := x.chans.set i { x.chans[i] with pend := 0 } }) s)

/-- The five inputs in the present beat; a span port's comes from its hub. -/
def inputs (t : TileAt) (pos : Nat × Nat) (s : State) : List TWord × State :=
  let c := cInput t pos s
  let sp := (List.range 4).filterMap fun o => (spanOf t o).map fun h => (o, h)
  match sp with
  | (o, h, n) :: _ =>
    let r := spanIn h n c.2
    ((List.range 4).map (fun i => if i = o then r.1 else linkIn s t i) ++ [c.1], r.2)
  | [] => ((List.range 4).map (linkIn s t) ++ [c.1], c.2)

/-- The parity error that a word meets in the pipeline: place 0 to 4 the input it came by, 5 the solera adder (R168). -/
def pipeAt (r : Router) (place : Nat) : BitVec 4 := ((r.pipe.find? fun e => e.1 == place).map (·.2)).getD 0

/-- A word as it leaves a place of the pipeline; the empty word meets nothing. -/
def piped (r : Router) (place : Nat) (w : TWord) : TWord := if w = TWord.empty then w else { w with bad := w.bad ||| pipeAt r place }

/-- The input words as they pass the pipeline, each mismatch with its record (R168); errors that a word has met are gone. -/
def takeInputs (t : TileAt) (pos : Nat × Nat) (s : State) : List TWord × State :=
  let i := inputs t pos s
  let r := (tileAt s t).router
  let ws := i.1.mapIdx (piped r)
  let met (e : Nat × BitVec 4) : Bool := match i.1[e.1]? with
    | some w => w != TWord.empty
    | none => false
  let s := updTile t (fun x => { x with router := { x.router with pipe := x.router.pipe.filter fun e => !met e } }) i.2
  (ws, ws.zipIdx.foldl (fun s e => parityMismatch t e.2 e.1 s) s)

/-- The solera sum's own check (R168): its record names the SOLERA output port. -/
def solChecked (t : TileAt) (e : Nat) (s : State) : State :=
  match (List.range 5).find? fun o => opOf e o == 2 with
  | none => s
  | some o =>
    let b := pipeAt (tileAt s t).router 5
    if b = 0 then s
    else parityMismatch t o { TWord.empty with bad := b }
      (updTile t (fun x => { x with router := { x.router with pipe := x.router.pipe.filter fun e => e.1 != 5 } }) s)

/-- Input word number `src` (1 to 5), the empty word for none. -/
def pick (ws : List TWord) (src : Nat) : TWord := if src = 0 then TWord.empty else (ws[src - 1]?).getD TWord.empty

/-- The word to push into a steering queue: V = 1, and of the current epoch where a TGT entry names the queue (R169, R183). -/
def pushOf (s : State) (t : TileAt) (tgt : Nat) (w : TWord) : Option TWord × Bool :=
  if !w.v then (none, false)
  else
    let named := (tileAt s t).chans.toList.any fun c => c.cfg.en && c.cfg.recv && c.cfg.tgt == tgt
    if named && w.ep != epochAt s t then (none, true) else (some w, false)

/-- Saturating 48-bit count (R173). -/
def sat48 (n : Nat) : Nat := min n (2 ^ 48 - 1)

/-- What the steering unit does in a beat (R169 to R173): the queues after it, and the route and data token of a firing (4: discard). -/
def steer (r : Router) (steering : Bool) (pc pd : Option TWord) : List TWord × List TWord × Option (Nat × TWord × TWord) :=
  let qc := r.ctlQ ++ pc.toList
  let qd := r.datQ ++ pd.toList
  match steering, qc, qd with
  | true, c :: tc, d :: td =>
    let v := (c.data.extractLsb' 0 3).toNat
    (tc, td, some (min v 4, c, d))
  | _, _, _ => (qc, qd, none)

/-- The word of output `o` of a valid entry; `sb` are the solera sum's failing quarters. -/
def outWord (e : Nat) (ws : List TWord) (sb : BitVec 4) (fired : Option (Nat × TWord × TWord)) (o : Nat) : TWord :=
  match opOf e o with
  | 0 => pick ws (srcOf e o)
  | 1 => pick ws (srcOf e o)
  | 2 => { solera (solType e) ((portsOf (solMask e)).map fun i => pick ws (i + 1)) with bad := sb }
  | _ => match fired with
    | some (r, _, d) => if r = rtOf e o then d else TWord.empty
    | none => TWord.empty

/-- Whether a RECV or RECVM on a channel captures in the present beat (R60, R180). -/
def popDue (s : State) (t : TileAt) (i : Fin 8) : Bool :=
  (tileAt s t).acts.any fun a => decide (a.due ≤ s.beats.wrb) && (match a.act with
    | .capture _ ch _ _ _ | .captureMem _ ch _ _ => ch == i
    | _ => false)

/-- What the C output's word does at the tile's channels (R180, R182, R183): pushed in the data slot of a credited receive channel, captured as
credits in a credit slot of a send channel. A full queue takes the word in a beat in which it is popped, as R175 states for a steering queue. -/
def channelsTake (t : TileAt) (pos : Nat × Nat) (w : TWord) (s : State) (i : Fin 8) : State :=
  if !w.v then s
  else
    let x := tileAt s t
    let c := x.chans[i]
    if c.cfg.en && c.cfg.recv && c.cfg.cred && c.cfg.tgt == 0 && dataSlot x.router c.cfg pos then
      (if w.ep != epochAt s t then epochDiscard x.pslot s
       else if c.queue.length < c.cfg.depth + (if popDue s t i then 1 else 0) then
         updTile t (fun x => { x with chans := x.chans.set i { c with queue := c.queue ++ [w] } }) s
       else recFence (withProg s x.pslot { tileRec s 0x09 2 0 0 t with info := 2 + 4 * i.val }) [x.pslot] 4 s)
    else if !c.cfg.recv && creditSlot x.router c.cfg pos then
      (if w.ep != epochAt s t then epochDiscard x.pslot s
       else schedule t (s.beats.wrb + 4) true .engine (.credit i (w.data.extractLsb' 0 4).toNat) s)
    else s

/-- Pending credits that a firing returns for the queues it popped (R181). -/
def firingCredits (t : TileAt) (s : State) (i : Fin 8) : State :=
  let c := (tileAt s t).chans[i]
  if c.cfg.en && c.cfg.recv && c.cfg.cred && c.cfg.cret && (c.cfg.tgt == 1 || c.cfg.tgt == 2) then
    schedule t (s.beats.wrb + 3) true .engine (.pend i) s
  else s

/-- Applies a valid entry (R143, R146, R148, R149, R169 to R173). -/
def applyEntry (t : TileAt) (pos : Nat × Nat) (e : Nat) (s : State) : State :=
  let i := takeInputs t pos s
  let ws := i.1
  let sb := pipeAt (tileAt i.2 t).router 5
  let s := solChecked t e i.2
  let pc := pushOf s t 1 (pick ws (ctlSrc e))
  let pd := pushOf s t 2 (pick ws (datSrc e))
  let late (b : Bool) (s : State) : State := if b then (routerProgs s t).foldl (fun s k => epochDiscard k s) s else s
  let s := late pd.2 (late pc.2 s)
  let q := steer (tileAt s t).router ((List.range 5).any fun o => opOf e o == 3) pc.1 pd.1
  let s := updTile t (fun x => { x with router := { x.router with
    ctlQ := q.1.take 8, datQ := q.2.1.take 8,
    counts := match q.2.2 with
      | some (r, _, _) =>
        let c : Fin 5 := ⟨r % 5, Nat.mod_lt _ (by decide)⟩
        x.router.counts.set c (sat48 (x.router.counts[c] + 1))
      | none => x.router.counts } }) s
  let s := match q.2.2 with
    | some (_, c, d) => (List.finRange 8).foldl (firingCredits t) (steerParity t d (steerParity t c s))
    | none => s
  let s := if 8 < q.1.length then queueOverflow t { routerRec s t (routerProgs s t) 0x09 2 7 with info := 0 } s else s
  let s := if 8 < q.2.1.length then queueOverflow t { routerRec s t (routerProgs s t) 0x09 2 7 with info := 1 } s else s
  let s := (List.range 4).foldl (fun s o => drive t o (outWord e ws sb q.2.2 o) s) s
  let c := outWord e ws sb q.2.2 4
  let s := updTile t (fun x => { x with router := { x.router with cOut := c } }) s
  (List.finRange 8).foldl (channelsTake t pos c) s

/-- Whether a router runs its sequencer in the present beat (R146, R160, R163, R449); a headland router in a row gap is out of service (R29, R30). -/
def routerRuns (s : State) (t : TileAt) : Bool :=
  let x := tileAt s t
  x.router.en && parcelRuns s (parcelOf t) && !holdNow s && x.router.ran != some s.beats.wrb &&
  (if x.router.owner = 8 then !inGap s t
   else match prog? s (fin8 x.router.owner) with
    | some g => x.router.owner < 8 && progRuns s g
    | none => false)

/-- The position of a router in the present beat: a headland schedule has period 64 (R160). -/
def posNow (s : State) (t : TileAt) : Nat × Nat :=
  let r := (tileAt s t).router
  if r.owner = 8 then (0, s.beats.wrb % 64) else (r.p, r.k)

/-- SEQUENCER_BEAT (R146): the router applies its current entry and moves its sequencer on; once in each running beat. -/
def execSequencerBeat (t : TileAt) (s : State) : Res :=
  if routerRuns s t then
    let r := (tileAt s t).router
    let pos := posNow s t
    let idx := (r.phases[(⟨pos.1 % 4, Nat.mod_lt _ (by decide)⟩ : Fin 4)]).base + pos.2
    let entry := lookupD 0 r.table idx
    let nxt := if r.owner = 8 then (0, pos.2, 0) else seqNext r.phases (r.p, r.k, r.done)
    let moved (s : State) : State := updTile t (fun x => { x with router := { x.router with
      p := nxt.1, k := nxt.2.1, done := nxt.2.2, ran := some s.beats.wrb } }) s
    if r.badEnt.contains idx || !entryValid entry.toNat then .next (moved (badEntry t idx pos.1 entry (takeInputs t pos s).2))
    else .next (moved (applyEntry t pos entry.toNat s))
  else .next s

/-! ## Hold beats and hold commands (R163 to R167) -/

/-- HOLD_BEAT: in a hold beat the CBN advances, cores and trellis freeze, and HOLDS counts it (R163, R167). -/
def execHoldBeat (s : State) : Res :=
  .next (if anyRuns s && holdNow s then passTime (period s.pwr.eff) (holdBeat s) else s)

/-- HOLD_COMMAND_ARRIVAL: a parcel with a good copy is under the command, as every parcel is (R164); with both copies bad it runs on under the
command in force until beat S and stops there; its programs are fenced at once (R165). -/
def execHoldCommandArrival (p : Fin 12) (at_ h : Nat) (good0 good1 : Bool) (s : State) : Res :=
  let x := s.parcels[p]
  if good0 || good1 || !(x.st == .on || x.st == .evacuating) || !s.pwr.cmds.contains { at_ := at_, h := h } || x.stopAt.isSome then .next s
  else
    let r := nextRseq s
    let ks := progsIn s p
    let s := logFor (parcelRec s 0x19 2 p) (parcelCode p.val :: ks.map fun k => progCode k.val) s
    let s := updDom (parcelCode p.val) (fun d => { d with st := .closing, cause := 4, rseq := r, since := s.time }) s
    let s := updParcel p (fun x => { x with stopAt := some at_ }) s
    .next (ks.foldl (fun s k => fenceProg k 5 r true s) s)

end Sys2Proof.Machine
end

