-- ==== Sys2Proof/Machine/Content.lean ====
section
/-! DEFINITION. The content checks that Jarbor makes before it places (R41, R144, R145, R174, R177, R223 to R231, R234, R238): the records of an
image's sections, and the configuration words of the cores, which come with the placement. RSV fields are not checked (R14, R16). -/

namespace Sys2Proof.Machine

/-- The index of a refusal that concerns no plot, net, port, object or constraint (R240). -/
def noIndex : Nat := 0xFFFFFFFF

/-- The `n`-byte records of a section, with their indices. -/
def recsOf (n : Nat) (b : List Byte) : List (Nat × List Byte) := (List.range (b.length / n)).map fun i => (i, (b.drop (n * i)).take n)

/-- The first `n` records of a section. -/
def firstRecs (n w : Nat) (b : List Byte) : List (Nat × List Byte) := (recsOf w b).take n

/-! ## Records of the sections (R223 to R230) -/

/-- The rows and columns of a plot's rectangle, and its helper cores (R223). -/
def plotDims (r : List Byte) : Nat × Nat × Nat := (byteAt r 0, byteAt r 1, fieldLE r 2 2)

/-- A phase's length in the PHASES section (R229). -/
def phaseRecLen (ph : List Byte) (i : Nat) : Nat := fieldLE ph (32 + 16 * i) 2

/-- A plot record with a field out of range, an offset outside the section of `n` bytes, or a period that does not divide its phase (R223, R229). -/
def plotBad (n : Nat) (ph r : List Byte) : Bool :=
  let d := plotDims r
  decide (n ≤ fieldLE r 16 8 ∨ n < fieldLE r 24 8 ∨ n < fieldLE r 32 8) ||
  d.1 == 0 || decide (64 < d.1) || d.2.1 == 0 || decide (64 < d.2.1) || decide (64 < d.2.2) ||
  (List.range 4).any fun n =>
    let p := fieldLE r (4 + 2 * n) 2
    p != 0 && (phaseRecLen ph n == 0 || phaseRecLen ph n % p != 0)

/-- Whether a plot index, row and column name a core: one of the rectangle, or a helper at row ROWS + its index (R225). -/
def endOk (plots : List (Nat × List Byte)) (p row col : Nat) : Bool :=
  match plots[p]? with
  | none => false
  | some e =>
    let d := plotDims e.2
    decide (row < d.1 + d.2.2) && (decide (d.1 ≤ row) || decide (col < d.2.1))

/-- A net record's fields (R225): credited or timed, channel pairs less one, active phases, rate and the latencies accepted. -/
def netCred (r : List Byte) : Bool := byteAt r 13 % 2 == 1
def netWidth (r : List Byte) : Nat := bitsOf (byteAt r 13) 1 3
def netIn (r : List Byte) (ph : Nat) : Bool := bitsOf (byteAt r 13) (4 + ph) 1 == 1
def netRate (r : List Byte) : Nat := fieldLE r 14 2
def netLmin (r : List Byte) : Nat := fieldLE r 16 4
def netLmax (r : List Byte) : Nat := fieldLE r 20 4

/-- Whether two nets send from a common channel of one core (R226). -/
def shareSource (a b : List Byte) : Bool :=
  let ca := byteAt a 4 % 8
  let cb := byteAt b 4 % 8
  (a.take 4) == (b.take 4) && decide (ca ≤ cb + netWidth b ∧ cb ≤ ca + netWidth a)

/-- The first credited net that shares a source endpoint with another net (R226). -/
def sharedNet (nets : List (Nat × List Byte)) : Option Nat :=
  (nets.find? fun e => netCred e.2 && nets.any fun o => o.1 != e.1 && shareSource e.2 o.2).map (·.1)

/-- A net record with an endpoint that does not exist, or more channel pairs than a core has channels (R225). -/
def netBad (plots : List (Nat × List Byte)) (r : List Byte) : Bool :=
  let w := netWidth r
  !endOk plots (fieldLE r 0 2) (byteAt r 2) (byteAt r 3) || !endOk plots (fieldLE r 8 2) (byteAt r 10) (byteAt r 11) ||
  decide (7 < byteAt r 4 % 8 + w) || decide (7 < byteAt r 12 % 8 + w)

/-- An object record with a reserved format or encoding, a ROWSPLIT without the row list, data outside the section of `n` bytes, or a transpose space outside the
PLOTS section of `w` bytes, where the memory-image lists stand (R59, R223, R227). A sparse ENC with a format that R195 calls always dense is no fault that R234
names: here the record is taken as it stands (DESIGN CHOICE, log 158). -/
def objectBad (n w : Nat) (r : List Byte) : Bool :=
  let enc := bitsOf (byteAt r 8) 4 3
  decide (n < fieldLE r 16 8 + fieldLE r 24 8) || decide (w < fieldLE r 32 8) || byteAt r 8 % 16 == 15 || decide (4 < enc) || (enc != 4 && fieldLE r 10 2 != 0)

/-- A port record with a reserved hub, neither stream, or an endpoint that does not exist (R228). -/
def portBad (plots : List (Nat × List Byte)) (b : List Byte) : Bool :=
  (fieldLE b 0 2 == 0xFFFF && fieldLE b 8 2 == 0xFFFF) ||
  decide (4 < byteAt b 5 % 8) ||
  (fieldLE b 0 2 != 0xFFFF && !endOk plots (fieldLE b 0 2) (byteAt b 2) (byteAt b 3)) ||
  (fieldLE b 8 2 != 0xFFFF && !endOk plots (fieldLE b 8 2) (byteAt b 10) (byteAt b 11))

/-- A constraint record with a reserved kind, or a plot that does not exist (R230). -/
def constraintBad (plots : List (Nat × List Byte)) (b : List Byte) : Bool :=
  byteAt b 0 == 0 || decide (4 < byteAt b 0) || decide (plots.length ≤ fieldLE b 2 2) ||
  (byteAt b 0 != 1 && decide (plots.length ≤ fieldLE b 4 2))

/-- PHASES with a field out of range, or a marker that names no core (R229). -/
def phasesBad (plots : List (Nat × List Byte)) (b : List Byte) : Bool :=
  decide (b.length < 96) || decide (1024 < ((List.range 4).map (phaseRecLen b)).sum) || phaseRecLen b (byteAt b 0 % 4) == 0 ||
  !endOk plots (fieldLE b 2 2) (byteAt b 4) (byteAt b 5) ||
  (List.range 4).any fun i => decide (1024 < phaseRecLen b i) || decide (3 < byteAt b (34 + 16 * i)) || decide (8 < byteAt b (35 + 16 * i) % 16) ||
    decide (56 < byteAt b (39 + 16 * i))

/-- The index of the first record that fails a check. -/
def firstBad (f : List Byte → Bool) (l : List (Nat × List Byte)) : Option Nat := (l.find? fun e => f e.2).map (·.1)

/-- The plot records of an image. How many records stand before the core records is left open, within the section; one at least, since PHASES names a
plot (log 125). -/
def plotRecs (b : List Byte) : List (Nat × List Byte) := firstRecs (max 1 (Config.plotCount b)) 64 b
/-- The directory records of OBJECTS, likewise. -/
def objectRecs (b : List Byte) : List (Nat × List Byte) := firstRecs (Config.objectCount b) 64 b

/-- A limit of R238 that the sections exceed. -/
def sectionsOver (sect : Nat → List Byte) : Bool :=
  decide (4096 < (plotRecs (sect 1)).length) || decide (65536 < (sect 2).length / 48) || decide (16384 < (objectRecs (sect 3)).length) ||
  decide (512 < (sect 4).length / 32)

/-- The first record of R223 to R231 that holds a reserved value or a field out of range, with its index; the sections in the order of their types
(R234, R240). -/
def recordFault (sect : Nat → List Byte) : Option Nat :=
  let plots := plotRecs (sect 1)
  let nets := recsOf 48 (sect 2)
  let ports := recsOf 32 (sect 4)
  let names := plots.length + nets.length + ports.length + (objectRecs (sect 3)).length
  (firstBad (plotBad (sect 1).length (sect 5)) plots).orElse fun _ =>
  (firstBad (netBad plots) nets).orElse fun _ =>
  (sharedNet nets).orElse fun _ =>
  (firstBad (objectBad (sect 3).length (sect 1).length) (objectRecs (sect 3))).orElse fun _ =>
  (firstBad (portBad plots) ports).orElse fun _ =>
  (if phasesBad plots (sect 5) then some 0xFFFFFFFF else none).orElse fun _ =>
  (firstBad (constraintBad plots) (recsOf 16 (sect 6))).orElse fun _ =>
  if (sect 7).length < 32 * names + 4 then some 0xFFFFFFFF else none

/-! ## Configuration words (R41, R144, R145, R174, R177) -/

/-- Whether a task's words are within their fields and its regions and lines within their memories (R41). -/
def taskCfgOk (c : TaskCfg) : Bool :=
  decide (c.lbase < 512 ∧ c.lbound ≤ 512 ∧ c.lbase + c.lbound ≤ 512 ∧ c.cbase < 1024 ∧ c.cbound ≤ 1024 ∧ c.cbase + c.cbound ≤ 1024 ∧
    c.ibase < 8192 ∧ c.lbFirst < 16 ∧ c.lbCount ≤ 16 ∧ c.lbFirst + c.lbCount ≤ 16)

/-- The phases a router can reach from phase `p`: NEXT follows a phase with bounded REPS (R145, R146). -/
def phasesFrom (ph : List SeqPhase) : Nat → Nat → List Nat
  | 0, _ => []
  | n + 1, p => match ph[p]? with
    | none => [p]
    | some x => p :: (if x.reps = 0 then [] else phasesFrom ph n x.next)

/-- Whether a tile's sequencer words meet the three conditions of R145. -/
def seqOk (c : TileCfg) : Bool :=
  let ps := (phasesFrom c.phases 4 c.startPh).eraseDups
  let word (p : Nat) : SeqPhase := (c.phases[p]?).getD { base := 0, len := 0, next := 0, reps := 0 }
  ps.all (fun p => decide (p < 4 ∧ 1 ≤ (word p).len ∧ (word p).base + (word p).len ≤ 1024)) &&
  ps.all (fun p => ps.all fun q => p == q || decide ((word p).base + (word p).len ≤ (word q).base) ||
    decide ((word q).base + (word q).len ≤ (word p).base)) &&
  decide ((ps.map fun p => (word p).len).sum ≤ 1024) && decide (c.startCur < (word c.startPh).len)

/-- Whether an entry's fields are legal (R177). -/
def chanOk (c : ChanCfg) : Bool :=
  (hasCredits c || (c.cslot == 0 && c.cstride == 0)) &&
  (!c.en || (decide (c.tgt < 3 ∧ c.phase < 4) && (if c.cred then decide (1 ≤ c.depth ∧ c.depth ≤ 8) else c.depth == 0)))

/-- The cursors of a slot set in a phase (R177). -/
def slotSet (ph : List SeqPhase) (phase base stride : Nat) : List Nat :=
  match ph[phase]? with
  | none => []
  | some x => (List.range x.len).filter (inSlots base stride x.len)

/-- What an entry takes at the router's C port: whether the C input, the phase and the cursor (R177). -/
def chanUses (ph : List SeqPhase) (c : ChanCfg) : List (Bool × Nat × Nat) :=
  if !c.en then []
  else
    (if c.recv && c.tgt != 0 then [] else (slotSet ph c.phase c.dslot c.dstride).map fun k => (!c.recv, c.phase, k)) ++
    (if hasCredits c then (slotSet ph c.phase c.cslot c.cstride).map fun k => (c.recv, c.phase, k) else [])

/-- Whether a tile's channel table is legal: its entries, no slot taken twice, 16 words of queue (R177, R234). -/
def chansOk (c : TileCfg) : Bool :=
  c.chans.all chanOk && decide (c.chans.flatMap (chanUses c.phases)).Nodup &&
  decide (((c.chans.filter fun x => x.en && x.recv && x.tgt == 0).map (·.depth)).sum ≤ 16)

/-- Whether a line image lies in its memory (R224). -/
def lineOk (l : LineImage) : Bool :=
  match l.space with
  | .sram => decide (l.line < 512)
  | .slab => decide (l.line < 1024)

/-- Whether an entry drives an output: from an input, by a solera reduction or by steering (R144, R147). -/
def entryDrives (e : Nat) : Bool := (List.range 5).any fun o => srcOf e o != 0 || decide (2 ≤ opOf e o)

/-- Whether a tile's router belongs to the program outside the headlands: an entry drives an output (R147), or the core has an open channel, whose
slots are cursors of this router (R177). -/
def routerUsed (c : TileCfg) : Bool :=
  (c.entries.any fun e => entryDrives e.2.toNat) || (c.placed && c.chans.any (·.en))

/-- Whether a tile's configuration passes: in a headland only entries are written (R160, R234). -/
def tileContentOk (c : TileCfg) : Bool :=
  c.entries.all (fun e => decide (e.1 < 1024) && entryValid e.2.toNat) &&
  ((headlandOf c.at_).isSome || !routerUsed c || seqOk c) && decide (c.initTok.length ≤ 8) &&
  (!c.placed || (c.tasks.all taskCfgOk && chansOk c && c.mem.all lineOk))

/-- The plot of the first core record that fails R234, if any. -/
def contentFault (p : Placement) : Option Nat := (p.tiles.find? fun c => !tileContentOk c).map (·.plot)

end Sys2Proof.Machine
end

