-- ==== Sys2Proof/Machine/Sparse.lean ====
section
/-! DEFINITION. Sparse objects as Jarbor sees them: what a record stores, entry lists and band costs, transposes, row splits, and the rules of trained objects
and restricted loads (R195 to R219, R227). -/

namespace Sys2Proof.Machine

/-! ## Object records (R227) -/

def objRows (r : List Byte) : Nat := fieldLE r 0 4
def objCols (r : List Byte) : Nat := fieldLE r 4 4
def objFmt (r : List Byte) : Nat := byteAt r 8 % 16
def objEnc (r : List Byte) : Nat := bitsOf (byteAt r 8) 4 3
def objTrained (r : List Byte) : Bool := bitsOf (byteAt r 8) 7 1 == 1
def objSplit (r : List Byte) : Nat := fieldLE r 10 2

/-! ## Records, entry lists and costs (R198, R199, R201, R207) -/

/-- COUNT of column `s` of a row-list record; a count above 8 is taken as 8 (R201, R202). -/
def recCount (r : List Byte) (s : Nat) : Nat := min 8 (fieldLE r 0 4 / 16 ^ s % 16)

/-- The row indices that a row-list record names in column `s` (R201). -/
def recRows (r : List Byte) (s : Nat) : List Nat :=
  let o := ((List.range s).map (recCount r)).sum
  (List.range (recCount r s)).map fun i => fieldLE r 4 24 / 8 ^ (o + i) % 8

/-- Whether a record stores the element at slice `s`, position `q` of its entry (R196, R199, R201). -/
def recStores (enc : Nat) (r : List Byte) (s q : Nat) : Bool :=
  if enc = 4 then (recRows r s).contains q else fieldLE r 0 8 / 2 ^ (8 * s + q) % 2 == 1

/-- The record of an entry of an object: by band and entry. -/
def recAt (recs : List (List (List Byte))) (band entry : Nat) : List Byte := ((recs[band]?).bind (·[entry]?)).getD []

/-- Whether an object stores the element of a row and column (R196). -/
def stores (enc : Nat) (recs : List (List (List Byte))) (row col : Nat) : Bool := recStores enc (recAt recs (row / 8) (col / 8)) (col % 8) (row % 8)

/-- A mask: its rows, columns and stored elements, of an object or of its transpose. -/
structure Mask where
  rows : Nat
  cols : Nat
  st   : Nat → Nat → Bool

/-- The transposed mask (R209). -/
def Mask.transpose (m : Mask) : Mask := { rows := m.cols, cols := m.rows, st := fun r c => m.st c r }

/-- The mask of an object; a dense one stores every element. -/
def maskOf (r : List Byte) (recs : List (List (List Byte))) : Mask :=
  { rows := objRows r, cols := objCols r, st := fun i j => objEnc r == 0 || stores (objEnc r) recs i j }

/-- Whether a row stores an element in an entry of its band. -/
def Mask.rowIn (m : Mask) (row entry : Nat) : Bool := (List.range 8).any fun s => decide (8 * entry + s < m.cols) && m.st row (8 * entry + s)

/-- The rows of a band. -/
def Mask.bandRows (m : Mask) (band : Nat) : List Nat := (List.range 8).filterMap fun i => if 8 * band + i < m.rows then some (8 * band + i) else none

/-- The entry list of a row-list band: each entry in which one of its rows, but for those taken out, stores an element (R207). -/
def Mask.list (m : Mask) (gone : List Nat) (band : Nat) : List Nat :=
  (List.range ((m.cols + 7) / 8)).filter fun e => ((m.bandRows band).filter fun r => !gone.contains r).any fun r => m.rowIn r e

/-- A band's cost in product beats: 8 per listed entry; an N:M band lists every entry (R207). -/
def Mask.cost (m : Mask) (enc : Nat) (gone : List Nat) (band : Nat) : Nat :=
  8 * (if enc = 4 then (m.list gone band).length else (m.cols + 7) / 8)

/-! ## Row splits (R216, R217) -/

/-- A row's weight: the entries of its band's list in which it stores an element (R216). -/
def Mask.weight (m : Mask) (row : Nat) : Nat := ((m.list [] (row / 8)).filter (m.rowIn row)).length

/-- How many pieces a row of weight `w` splits into (R216). -/
def pieceCount (w split : Nat) : Nat := (w + split - 1) / split

/-- The sizes of the pieces, in ascending column order (R216). -/
def pieceSizes (w m : Nat) : List Nat := (List.range m).map fun i => w / m + (if i < w % m then 1 else 0)

/-- The rows that split, with their weights; ROWSPLIT = 0 disables splitting (R216). -/
def Mask.splitRows (m : Mask) (split : Nat) : List (Nat × Nat) :=
  if split = 0 then [] else ((List.range m.rows).map fun r => (r, m.weight r)).filter fun e => decide (split < e.2)

/-- The entries of a piece of a split row: a run of the row's entries (R216). -/
def Mask.piece (m : Mask) (row split i : Nat) : List Nat :=
  let l := (m.list [] (row / 8)).filter (m.rowIn row)
  let sz := pieceSizes l.length (pieceCount l.length split)
  (l.drop ((sz.take i).sum)).take ((sz[i]?).getD 0)

/-- The largest band cost before and after splitting, the helpers' bands among them (R207, R219). -/
def Mask.costs (m : Mask) (enc split : Nat) : Nat × Nat :=
  let bands := List.range ((m.rows + 7) / 8)
  let rs := if enc = 4 then m.splitRows split else []
  let pieces := rs.flatMap fun e => (pieceSizes e.2 (pieceCount e.2 split)).map (8 * ·)
  ((bands.map (m.cost enc [])).foldl max 0, (bands.map (m.cost enc (rs.map (·.1))) ++ pieces).foldl max 0)

/-- The row-list record of an entry of a mask, with a value block at byte VOFF: the rows of each column in ascending order, those taken out left out,
and only one row where one is kept (R201, R209, R217). -/
def Mask.record (m : Mask) (gone : List Nat) (only : Option Nat) (band entry voff : Nat) : List Byte :=
  let rowsOf (s : Nat) : List Nat := ((m.bandRows band).filter fun r =>
    !gone.contains r && (match only with | some q => r == q | none => true) && decide (8 * entry + s < m.cols) && m.st r (8 * entry + s)).map (· % 8)
  let cols := (List.range 8).map rowsOf
  leBytes 4 (packN 4 (cols.map (·.length))) ++ leBytes 24 (packN 3 cols.flatten) ++ leBytes 1 (voff % 64) ++ zeros 3

/-! ## N:M objects and restricted loads (R198, R213, R214) -/

/-- N and M of an N:M encoding (R198, R227). -/
def nmOf (enc : Nat) : Nat × Nat :=
  match enc with
  | 1 => (2, 4)
  | 2 => (1, 4)
  | _ => (4, 8)

/-- Whether a record's MASK is structured both ways: N stored elements in every aligned group of M along its rows and along its columns (R198). -/
def bothWays (enc : Nat) (r : List Byte) : Bool :=
  let (n, m) := nmOf enc
  let groups := List.range (8 / m)
  let count (f : Nat → Bool) (g : Nat) : Nat := ((List.range m).filter fun i => f (m * g + i)).length
  (List.range 8).all fun q => groups.all fun g => count (fun s => recStores enc r s q) g == n && count (fun s => recStores enc r q s) g == n

/-- Whether both scale bytes of a record are 2^0 (R214). -/
def unitScales (r : List Byte) : Bool := byteAt r 8 == 0x7F && byteAt r 9 == 0x7F

/-- Whether an instruction word is an MLDS of mode 5 under a format code (R72, R214). -/
def isMlds5 (fmt : Nat) (w : Word) : Bool :=
  match decodeCore { tile := tileOfNo 0, task := 0 } w with
  | some (.mlds _ _ _ m _ _ f _) => m.toNat == 5 && f.toNat == fmt
  | _ => false

/-- Whether a plot's restricted task images read the records of an object of a format with mode 5 under the MX code of the same element format (R214). -/
def variantReads (fmt : Nat) (l : List MemEntry) : Bool :=
  l.any fun e => match e.src with
    | .bytes b => (List.range (b.length / 4)).any fun i => isMlds5 (fmt + 7) (BitVec.ofNat 32 (fieldLE b (4 * i) 4))
    | .object _ _ => false

/-- Whether the records of a sparse object are all there (R196, R199, R201): one of 16 B for each entry of an N:M object, one of 32 B for each entry of the blocks
of 64 columns of a row-list object. -/
def recordsWhole (r : List Byte) (recs : List (List (List Byte))) : Bool :=
  let rl := objEnc r == 4
  let n := if rl then 8 * ((objCols r + 63) / 64) else (objCols r + 7) / 8
  if objEnc r = 0 then recs.isEmpty
  else recs.length == (objRows r + 7) / 8 && recs.all fun b => b.length == n && b.all fun e => e.length == (if rl then 32 else 16)

/-- The elements that an object stores, in all (R196). -/
def storedCount (r : List Byte) (recs : List (List (List Byte))) : Nat :=
  let enc := objEnc r
  if enc = 0 then objRows r * objCols r
  else (recs.flatten.map fun e => ((List.range 8).map fun c => ((List.range 8).filter fun q => recStores enc e c q).length).sum).sum

/-- Whether an object may be in a restricted load (R214, R215); `plots` tells whether a plot has a restricted variant that reads the format. -/
def restrictedOk (r : List Byte) (recs : List (List (List Byte))) (back : List Nat) (variant : Nat → Bool) : Bool :=
  let enc := objEnc r
  let all := recs.flatten
  enc != 4 && (enc == 0 || all.all (bothWays enc)) &&
  (!objTrained r || (decide (2 ≤ objFmt r ∧ objFmt r ≤ 5) && all.all unitScales && back.all variant))

/-- The records of object `i`, and the plots that read it in a backward pass. -/
def recsOfObj (rd : ImageReads) (i : Nat) : List (List (List Byte)) := (rd.records[i]?).getD []
def backOf (rd : ImageReads) (i : Nat) : List Nat := (rd.backward[i]?).getD []

/-- The pieces that a load must place of an object and, if it is trained, of its transpose: whether of the transpose, row, weight (R216). A restricted load
splits no row (R213). -/
def splitsOf (restricted : Bool) (rd : ImageReads) (i : Nat) (r : List Byte) : List (Bool × Nat × Nat) :=
  if restricted then []
  else
    let m := maskOf r (recsOfObj rd i)
    (if objEnc r = 4 then (m.splitRows (objSplit r)).map fun e => (false, e) else []) ++
    (if objTrained r then (m.transpose.splitRows (objSplit r)).map fun e => (true, e) else [])

/-- The plots whose bands an object's rows belong to: those that load it; those that read it in a backward pass for the rows of its transpose (R209, R216). -/
def bandPlots (plots : List (Nat × List Byte)) (rd : ImageReads) (i : Nat) (trans : Bool) : List Nat :=
  (plots.map (·.1)).filter fun q => if trans then (backOf rd i).contains q else ((rd.mems[q]?).getD []).any fun e => match e.src with
    | .object j _ => j == i
    | .bytes _ => false

/-- The helper cores that plots declare (R223). -/
def helpersOf (plots : List (Nat × List Byte)) (qs : List Nat) : Nat := ((plots.filter fun e => qs.contains e.1).map fun e => (plotDims e.2).2.2).sum

/-- How many pieces the rows of a split list make (R216). -/
def piecesIn (split : Nat) (l : List (Bool × Nat × Nat)) : Nat := (l.map fun e => pieceCount e.2.2 split).sum

/-- The first object whose rows, with those of the objects before it, need more helper cores than the only plot that holds them declares (R217). -/
def helperFault (restricted : Bool) (plots objs : List (Nat × List Byte)) (rd : ImageReads) : Option Nat :=
  let need (q : Nat) (e : Nat × List Byte) : Nat := ([false, true].map fun t =>
    if bandPlots plots rd e.1 t = [q] then piecesIn (objSplit e.2) ((splitsOf restricted rd e.1 e.2).filter (·.1 == t)) else 0).sum
  (plots.findSome? fun p => objs.findSome? fun e =>
    if 0 < need p.1 e ∧ (plotDims p.2).2.2 < ((objs.filter fun o => decide (o.1 ≤ e.1)).map (need p.1)).sum then some e.1 else none)

/-- Why Jarbor refuses an object, if it does (R210, R214, R217). R210 states no refusal of a trained object in another format than plain FP8, FP6 and INT8 or
MX FP8 and FP6: here it is accepted (DESIGN CHOICE, log 159). -/
def objectRefusal (restricted : Bool) (plots : List (Nat × List Byte)) (rd : ImageReads) (i : Nat) (r : List Byte) : Option Nat :=
  let fmt := objFmt r
  let l := splitsOf restricted rd i r
  let m (e : Bool × Nat × Nat) : Nat := pieceCount e.2.2 (objSplit r)
  if objTrained r && decide (9 ≤ fmt ∧ fmt ≤ 12) then some 0x10
  else if restricted && !restrictedOk r (recsOfObj rd i) (backOf rd i) (fun q => variantReads fmt ((rd.variants[q]?).getD [])) then some 0x11
  else if l.any (fun e => decide (16 < m e)) || [false, true].any (fun t =>
      decide (helpersOf plots (bandPlots plots rd i t) < piecesIn (objSplit r) (l.filter (·.1 == t)))) then some 0x12
  else none

/-- The first object that Jarbor refuses: reason and index (R210, R214, R217). -/
def sparseRefusal (restricted : Bool) (plots objs : List (Nat × List Byte)) (rd : ImageReads) : Option (Nat × Nat) :=
  match objs.findSome? fun e => (objectRefusal restricted plots rd e.1 e.2).map fun n => (n, e.1) with
  | some e => some e
  | none => (helperFault restricted plots objs rd).map fun i => (0x12, i)

/-- What the directory of OBJECTS alone shows Jarbor to refuse: a trained MX object, and in a restricted load a row-list object or a trained one that is neither FP8
nor FP6 (R210, R214). -/
def directoryRefusal (restricted : Bool) (objs : List (Nat × List Byte)) : Option (Nat × Nat) :=
  objs.findSome? fun e =>
    if objTrained e.2 && decide (9 ≤ objFmt e.2 ∧ objFmt e.2 ≤ 12) then some (0x10, e.1)
    else if restricted && (objEnc e.2 == 4 || (objTrained e.2 && !decide (2 ≤ objFmt e.2 ∧ objFmt e.2 ≤ 5))) then some (0x11, e.1)
    else none

end Sys2Proof.Machine
end

