-- ==== Sys2Proof/Machine/Jarbor.lean ====
section
/-! DEFINITION. What a placement of Jarbor must be: the resources it may use, its ties to the image, its routes and streams, the credit-loop rules, and the
narrow reserve (R121, R152, R160, R184 to R188, R216, R217, R223 to R243). The manual gives no algorithm for the search: a result comes with PLACEMENT_DONE, and
one that breaks these rules is no result of Jarbor's. -/

namespace Sys2Proof.Machine

/-! ## The live state (R232, R233, R254, R284) -/

/-- The beats of span ports that a port's streams use: its words and the credit words of its exit stream into the wafer, the others out of it (R160, R176). -/
def spanUses (b : PortBind) : List (Nat × Bool × Nat) :=
  let n := 64 * (b.slot / 128) + b.span
  let one (into : Bool) (l : List Nat) : List (Nat × Bool × Nat) := l.map fun k => (n, into, k % 64)
  (if b.hasIn then one true b.inAt ++ one false b.inCrAt else []) ++ (if b.hasOut then one false b.outAt ++ one true b.outCrAt else [])

/-- The live state for a placement of slot `k` (R232). An ON parcel that the service net does not reach counts as OFF (R284). A tile of the program's own footprint
that is to be repaired or retired goes on serving it (R129). -/
def liveOf (s : State) (k : Fin 8) : Live :=
  let held := s.stage.granules.flatten ++ s.reserved.flatMap fun r => r.copies.flatMap (·.1)
  let own (e : Nat × Tile) : List (Nat × DWord) := match prog? s k with
    | some g => (headDrives g (tileOfNo e.1)).foldl cutEntry e.2.router.table
    | none => e.2.router.table
  { ceil := s.pwr.ceil, rating := s.pwr.rating, mapped := s.boot.mapped, culls := s.boot.culls, xmap := s.boot.xmap,
    on := (List.finRange 12).filter fun p => s.parcels[p].st == .on && !unreach s (epochBit s) p.val,
    hot := (List.finRange 12).filter fun p => s.parcels[p].tmax != 0x8000 && decide (380 ≤ s.parcels[p].tmax),
    taken := (s.tiles.filter fun e => (ownersOf e.2).any (· != k)).map (·.1) ++ held.map tileNo,
    bad := (s.tiles.filter fun e => (e.2.retire || !e.2.toRepair.isEmpty) && !inFoot k e.2).map (·.1), bypass := s.snet.bypass,
    heads := (s.tiles.filter fun e => e.2.router.owner == 8).map fun e => (e.1, own e),
    slots := (List.finRange 8).flatMap fun j => if j = k then [] else match prog? s j with
      | some g => g.slots.map (·.1)
      | none => [],
    spans := (List.finRange 8).flatMap fun j => if j = k then [] else match prog? s j with
      | some g => g.place.ports.flatMap spanUses
      | none => [] }

/-- Whether a tile lies in the cluster of a bypassed service router (R254). -/
def Live.cut (v : Live) (t : TileAt) : Bool := v.bypass.any fun e => e.1 == t.row.val / 8 && e.2 == t.col.val / 8

/-- The KIND of the cull list's entry for a tile, if it has one: 0 culled, 1 retired (R129, R477). -/
def Live.cullOf (v : Live) (t : TileAt) : Option Nat :=
  (physOf v.mapped t.row.val t.col.val).bind fun pc =>
    (v.culls.find? fun e => e.1 == t.row.val && e.2.1 == pc && decide (e.2.2 < 2)).map (·.2.2)

/-- Whether Jarbor may lead routes through the router of a tile (R27, R129, R233): a retired core's router stays in use. R394 would let routes pass the router of
a core rated too slow (log 150). R147 speaks of routers in use at tiles whose slab is reserved or a staging slab, and R233 uses no such tile, core and router alike:
here R233 is taken (DESIGN CHOICE, log 160). -/
def Live.routerOk (v : Live) (t : TileAt) : Bool :=
  (match physOf v.mapped t.row.val t.col.val with
   | none => false
   | some pc => match find? v.rating (ratingKey t.row.val pc) with
     | some x => decide (x ≤ v.ceil)
     | none => true) &&
  v.cullOf t != some 0 && v.on.contains (parcelOf t) && (headlandOf t).isNone && !v.taken.contains (tileNo t) && !v.cut t

/-- Whether Jarbor may place a core on a tile (R129, R233). -/
def Live.usable (v : Live) (t : TileAt) : Bool := v.routerOk t && v.cullOf t != some 1 && !v.bad.contains (tileNo t)

/-- The table of a headland router without the program's own drives (R160). -/
def Live.headTable (v : Live) (t : TileAt) : List (Nat × DWord) := lookupD [] v.heads (tileNo t)

/-- Whether a headland router is in service: in no row gap, in an ON parcel, in no bypassed cluster (R29, R30, R254). -/
def Live.headUp (v : Live) (t : TileAt) : Bool := (physOf v.mapped t.row.val t.col.val).isSome && v.on.contains (parcelOf t) && !v.cut t

/-- The outputs that an entry drives (R144, R147). -/
def drivenBy (e : Nat) : List Nat := (List.range 5).filter fun o => srcOf e o != 0 || decide (2 ≤ opOf e o)

/-- Whether drives may stand in an entry of the headland schedule: on outputs that it leaves free, and legal together with it (R144, R160). -/
def freePair (have_ new : Nat) : Bool :=
  (drivenBy new).all (fun o => !(drivenBy have_).contains o) && (solMask have_ == 0 || solMask new == 0) && (ctlSrc have_ == 0 || ctlSrc new == 0) &&
  (datSrc have_ == 0 || datSrc new == 0) && entryValid (have_ ||| new)

/-- Whether a program's drives fit a headland router (R27, R160). -/
def Live.headOk (v : Live) (c : TileCfg) : Bool :=
  v.headUp c.at_ && c.entries.all fun e => decide (e.1 < 64) && freePair (lookupD 0 (v.headTable c.at_) e.1).toNat e.2.toNat

/-- The crossing link that an output of a tile feeds, as the crossing map numbers it (R151, R477). -/
def crossingOf (t : TileAt) (o : Nat) : Option Nat :=
  match neighbour t o with
  | none => none
  | some u =>
    if parcelOf u = parcelOf t then none
    else if t.row = u.row then some (768 * (max t.col.val u.col.val / 256 - 1) + t.row.val)
    else some (2304 + 1024 * (max t.row.val u.row.val / 256 - 1) + t.col.val)

/-- Whether a tile's entries drive a defective crossing (R152). -/
def Live.defect (v : Live) (c : TileCfg) : Bool :=
  c.entries.any fun e => (drivenBy e.2.toNat).any fun o => match crossingOf c.at_ o with
    | some n => v.xmap.contains n
    | none => false

/-- Whether a port's span port is in service (R29, R159). -/
def Live.spanUp (v : Live) (b : PortBind) : Bool :=
  v.headUp (tileOfNo (match b.slot / 128 with
    | 0 => headCore 0 (8 * b.span)
    | 1 => headCore 1 b.span
    | 2 => headCore 2 (8 * b.span + 7)
    | _ => headCore 3 (448 + b.span)))

/-- Whether everything that a placement chose is usable: tiles, pairs of headland routers, crossings, stream slots, span ports and the beats of them, which no
two streams share (R29, R152, R160, R176, R233, R237, R239). -/
def Live.fits (v : Live) (p : Placement) : Bool :=
  decide (p.tiles.map fun c => tileNo c.at_).Nodup &&
  p.tiles.all (fun c => (if (headlandOf c.at_).isSome then !c.placed && v.headOk c else if c.placed then v.usable c.at_ else v.routerOk c.at_) && !v.defect c) &&
  decide (p.ports.map (·.slot)).Nodup &&
  p.ports.all (fun b => decide (b.slot < 512 ∧ b.span < 64) && !v.slots.contains b.slot && v.spanUp b) &&
  decide (p.ports.flatMap spanUses).Nodup && (p.ports.flatMap spanUses).all fun u => !v.spans.contains u

/-- The cores of a plot's rectangle of `r` by `c` cores. -/
def rect (q : PlotPlace) (r c : Nat) : List TileAt :=
  (List.range r).flatMap fun i => (List.range c).map fun j => tileOfNo (1024 * (q.row + i) + (q.col + j))

/-- Whether a parcel has room for a rectangle beside a placement's tiles (R233). -/
def Live.room (v : Live) (p : Placement) (q : Fin 12) (r c : Nat) : Bool :=
  let used := p.tiles.map fun c => tileNo c.at_
  (List.range (257 - r)).any fun i => (List.range (257 - c)).any fun j =>
    (rect { row := 256 * (q.val / 4) + i, col := 256 * (q.val % 4) + j, phi := 0, helpers := [], relays := [] } r c).all fun t =>
      v.usable t && !used.contains (tileNo t)

/-! ## Ties to the image (R223 to R230, R235) -/

/-- The records of an image, from its sections by type. -/
def imgOf (sect : Nat → List Byte) : Img :=
  { plots := plotRecs (sect 1), nets := recsOf 48 (sect 2), objs := objectRecs (sect 3), ports := recsOf 32 (sect 4), phases := sect 5,
    cons := recsOf 16 (sect 6), names := sect 7, data := sect 3 }

/-- What the engine keeps of an image: all but the object data (R132). -/
def Img.kept (m : Img) : Img := { m with data := [] }

/-- The configuration of a tile in a placement. -/
def cfgAt? (p : Placement) (t : TileAt) : Option TileCfg := p.tiles.find? fun c => c.at_ == t

/-- The tile of a plot's core, by its row and column in the plot; a helper's row is ROWS + its index (R225). -/
def coreTile (p : Placement) (plots : List (Nat × List Byte)) (plot row col : Nat) : Option TileAt :=
  match p.plots[plot]?, plots[plot]? with
  | some q, some e =>
    let d := plotDims e.2
    if row < d.1 then some (tileOfNo (1024 * (q.row + row) + (q.col + col))) else q.helpers[row - d.1]?
  | _, _ => none

/-- The shift of a router's cursors against its plot's own frame: the phase offset and START.CUR (R224, R226). -/
def shiftOf (q : PlotPlace) (c : TileCfg) (len : Nat) : Nat := (q.phi + c.startCur) % max 1 len

/-- A cursor of the plot's frame that a router's cursor stands for. -/
def frameCursor (q : PlotPlace) (c : TileCfg) (len k : Nat) : Nat := (k + len - shiftOf q c len) % max 1 len

/-- Whether a router's entries of a phase hold the plot's own, repeated from its period to the phase length (R224): each output that the plot drives, and what the
plot feeds to its queues and its solera adder. -/
def phaseHolds (q : PlotPlace) (rec : CoreRec) (c : TileCfg) (ph period : Nat) : Bool :=
  match c.phases[ph]?, rec.phases[ph]? with
  | some w, some r =>
    period == 0 || (List.range w.len).all fun k =>
      let want := ((find? rec.entries (r.base + frameCursor q c w.len k % period)).getD 0).toNat
      let have_ := ((find? c.entries (w.base + k)).getD 0).toNat
      (drivenBy want).all (fun o => srcOf have_ o == srcOf want o && opOf have_ o == opOf want o && rtOf have_ o == rtOf want o) &&
      (ctlSrc want == 0 || ctlSrc have_ == ctlSrc want) && (datSrc want == 0 || datSrc have_ == datSrc want) &&
      (solMask want == 0 || (solMask have_ == solMask want && solType have_ == solType want))
  | _, _ => period == 0

/-- Whether a channel entry is the image's, its slots shifted with the plot's frame (R226). -/
def chanTied (q : PlotPlace) (c : TileCfg) (want have_ : ChanCfg) : Bool :=
  let len := ((c.phases[want.phase]?).map (·.len)).getD 0
  let same (b1 s1 b2 s2 : Nat) : Bool := (List.range len).all fun k => inSlots b1 s1 len k == inSlots b2 s2 len (frameCursor q c len k)
  { have_ with dslot := want.dslot, dstride := want.dstride, cslot := want.cslot, cstride := want.cstride } == want && (!want.en ||
    ((want.tgt != 0 || same have_.dslot have_.dstride want.dslot want.dstride) &&
     (!hasCredits want || same have_.cslot have_.cstride want.cslot want.cstride)))

/-- Whether a core's words are those of its record (R224). -/
def coreTied (q : PlotPlace) (plot : List Byte) (rec : CoreRec) (c : TileCfg) : Bool :=
  c.placed && c.tasks == rec.tasks && c.pattern == rec.pattern && c.mown == rec.mown && c.startPh == rec.startPh &&
  c.chans.length == rec.chans.length && (rec.chans.zip c.chans).all (fun e => chanTied q c e.1 e.2) &&
  (List.range 4).all fun ph => phaseHolds q rec c ph (fieldLE plot (4 + 2 * ph) 2)

/-- Whether a router outside the headlands runs the program's phases (R229). -/
def phasesTied (ph : List PhaseCfg) (c : TileCfg) : Bool :=
  (headlandOf c.at_).isSome || !routerUsed c || (List.range 4).all fun i => match ph[i]?, c.phases[i]? with
    | some a, some b => a.len == 0 || (b.len == a.len && b.next == a.next && b.reps == a.reps)
    | _, _ => false

/-- Whether a plot's cores stand where its place says, with the words of its records (R223, R224, R242). -/
def plotTied (m : Img) (p : Placement) (e : Nat × List Byte) : Bool :=
  match p.plots[e.1]?, p.reads.cores[e.1]? with
  | some q, some recs =>
    let d := plotDims e.2
    let n := d.1 * d.2.1
    let at_ (i : Nat) : Option TileAt := if i < n then (rect q d.1 d.2.1)[i]? else q.helpers[i - n]?
    decide (q.row + d.1 ≤ 768 ∧ q.col + d.2.1 ≤ 1024) && decide (q.phi < max 1 (phaseRecLen m.phases (byteAt m.phases 0 % 4))) &&
    q.helpers.length == d.2.2 && recs.length == n + d.2.2 &&
    (List.range (n + d.2.2)).all fun i => match (at_ i).bind (cfgAt? p), recs[i]? with
      | some c, some r => coreTied q e.2 r c && c.plot == e.1 && c.prow == (if i < n then i / d.2.1 else d.1 + (i - n)) &&
        (decide (n ≤ i) || c.pcol == i % d.2.1)
      | _, _ => false
  | _, _ => false

/-- Whether every placed core is one of a plot's or a relay core (R235, R237). -/
def coresTied (plots : List (Nat × List Byte)) (p : Placement) : Bool :=
  let relays := p.plots.flatMap (·.relays)
  p.tiles.all fun c => !c.placed || relays.contains c.at_ || (match plots[c.plot]? with
    | some e => coreTile p plots c.plot c.prow c.pcol == some c.at_ && decide (c.prow < (plotDims e.2).1 + (plotDims e.2).2.2)
    | none => false)

/-- The 64 bytes of line `i` of a memory-image entry (R224). -/
def entryLine (objs : List (Nat × List Byte)) (data : List Byte) (e : MemEntry) (i : Nat) : Line :=
  BitVec.ofNat 512 (ofLE (match e.src with
    | .bytes b => (b.drop (64 * i)).take 64
    | .object j off => match objs[j]? with
      | some o => (data.drop (fieldLE o.2 16 8 + off + 64 * i)).take (min 64 (fieldLE o.2 24 8 - (off + 64 * i)))
      | none => []))

/-- The memory lines that a plot's lists give a core; a restricted load takes the variants of its task images after them (R214, R224). -/
def linesOf (restricted : Bool) (objs : List (Nat × List Byte)) (data : List Byte) (rd : ImageReads) (plot core : Nat) : List LineImage :=
  let l := ((rd.mems[plot]?).getD []) ++ (if restricted then (rd.variants[plot]?).getD [] else [])
  (l.filter fun e => e.core == core).flatMap fun e =>
    (List.range e.lines).map fun i => { space := e.space, line := e.line + i, bytes := entryLine objs data e i }

/-- Whether a plot's cores load just the lines of its lists, but for the home and helper cores of split rows (R217, R224). -/
def linesTied (restricted : Bool) (m : Img) (p : Placement) (e : Nat × List Byte) : Bool :=
  let d := plotDims e.2
  let n := d.1 * d.2.1
  (List.range (n + d.2.2)).all fun i =>
    match (coreTile p m.plots e.1 (if i < n then i / d.2.1 else d.1 + (i - n)) (i % max 1 d.2.1)).bind (cfgAt? p) with
    | some c => p.splits.any (fun x => !x.trans && (x.home == c.at_ || x.helpers.contains c.at_)) || c.mem == linesOf restricted m.objs m.data p.reads e.1 i
    | none => false

/-- The parcels in which a plot's cores lie. -/
def plotParcels (p : Placement) (plots : List (Nat × List Byte)) (i : Nat) : List (Fin 12) :=
  match p.plots[i]?, plots[i]? with
  | some q, some e => ((rect q (plotDims e.2).1 (plotDims e.2).2.1 ++ q.helpers).map parcelOf).eraseDups
  | _, _ => []

/-- Trellis hops between two tiles. -/
def hopsBetween (a b : TileAt) : Nat :=
  (max a.row.val b.row.val - min a.row.val b.row.val) + (max a.col.val b.col.val - min a.col.val b.col.val)

/-- The cores of a plot. -/
def plotCores (p : Placement) (plots : List (Nat × List Byte)) (i : Nat) : List TileAt :=
  match p.plots[i]?, plots[i]? with
  | some q, some e => rect q (plotDims e.2).1 (plotDims e.2).2.1 ++ q.helpers
  | _, _ => []

/-- Whether a placement meets a constraint record (R230). -/
def constraintMet (p : Placement) (plots : List (Nat × List Byte)) (b : List Byte) : Bool :=
  let pa := plotParcels p plots (fieldLE b 2 2)
  let pb := plotParcels p plots (fieldLE b 4 2)
  match byteAt b 0 with
  | 2 => decide ((pa ++ pb).eraseDups.length ≤ 1)
  | 3 => (plotCores p plots (fieldLE b 2 2)).any fun s => (plotCores p plots (fieldLE b 4 2)).any fun t => decide (hopsBetween s t ≤ fieldLE b 6 2)
  | 4 => pa.all fun q => !pb.contains q
  | _ => true

/-- The first constraint that a placement breaks: a record, or the rule for a plot without a SPAN record, which lies in one parcel; with the index of the record or
of the plot (R230, R240). -/
def constraintFault (m : Img) (p : Placement) : Option Nat :=
  ((m.cons.find? fun e => !constraintMet p m.plots e.2).map (·.1)).orElse fun _ =>
  (m.plots.find? fun e => !m.cons.any (fun c => byteAt c.2 0 == 1 && fieldLE c.2 2 2 == e.1) && decide (1 < (plotParcels p m.plots e.1).length)).map (·.1)

/-- Whether a port's binding is the image's (R228, R235). -/
def portTied (e : Nat × List Byte) (b : PortBind) : Bool :=
  let hub := byteAt e.2 5 % 8
  b.hasIn == (fieldLE e.2 0 2 != 0xFFFF) && b.hasOut == (fieldLE e.2 8 2 != 0xFFFF) && b.hubField == hub && (hub == 0 || b.slot / 128 == hub - 1) &&
  (b.inAt ++ b.inCrAt ++ b.outAt ++ b.outCrAt).all fun k => decide (k < 64)

/-- The depth of the channel that ends a port's stream (R177, R228): from byte `o` of its record. -/
def portDepth (m : Img) (p : Placement) (b : List Byte) (o : Nat) : Option Nat :=
  ((coreTile p m.plots (fieldLE b o 2) (byteAt b (o + 2)) (byteAt b (o + 3))).bind (cfgAt? p)).bind fun c =>
    (c.chans[byteAt b (o + 4) % 8]?).map (·.depth)

/-- Whether a port's credited streams have the depths of their channels (R176, R228). -/
def depthsTied (m : Img) (p : Placement) (e : Nat × List Byte) (b : PortBind) : Bool :=
  (!b.hasIn || portDepth m p e.2 0 == some b.inDepth) && (!b.hasOut || portDepth m p e.2 8 == some b.outDepth)

/-- A phase of PHASES (R229). -/
def phaseIn (ph : List Byte) (i : Nat) : PhaseCfg :=
  { len := phaseRecLen ph i, next := byteAt ph (34 + 16 * i), opPref := byteAt ph (35 + 16 * i) % 16, reps := fieldLE ph (36 + 16 * i) 3,
    htol := byteAt ph (39 + 16 * i) }

/-- Whether a placement runs the phases and the marker of its image (R229). -/
def markerTied (m : Img) (p : Placement) : Bool :=
  let ph := m.phases
  p.phases == (List.range 4).map (phaseIn ph) && p.start == byteAt ph 0 % 4 && p.mkTask.val == byteAt ph 1 % 4 &&
  coreTile p m.plots (fieldLE ph 2 2) (byteAt ph 4) (byteAt ph 5) == some p.mkTile && p.tiles.all (phasesTied p.phases)

/-- The reserved transpose space of an object (R227): its offset in the memory-image list; 0 for none. -/
def objTransOff (r : List Byte) : Nat := fieldLE r 32 8

/-- Whether ranges, each with its start and length, do not overlap. -/
def apart (l : List (Nat × Nat)) : Bool :=
  let l := l.mergeSort fun a b => decide (a.1 ≤ b.1)
  (l.zip (l.drop 1)).all fun e => decide (e.1.1 + e.1.2 ≤ e.2.1)

/-- Where the memory lists put bytes of an object: tile, memory, first byte there, offset in the object, length (R224, R227). -/
def objSpots (m : Img) (p : Placement) (i len : Nat) : List (TileAt × MemSpace × Nat × Nat × Nat) :=
  m.plots.flatMap fun e => ((p.reads.mems[e.1]?).getD []).filterMap fun l => match l.src with
    | .bytes _ => none
    | .object j off =>
      let d := plotDims e.2
      let n := d.1 * d.2.1
      if j ≠ i then none
      else (coreTile p m.plots e.1 (if l.core < n then l.core / max 1 d.2.1 else d.1 + (l.core - n)) (l.core % max 1 d.2.1)).map fun t =>
        (t, l.space, 64 * l.line, off, min (64 * l.lines) (len - off))

/-- Whether the copies of an object are the bytes that the memory lists load, each of them, where they load the whole object; the bytes of a row-list object with
split rows stand in part in helper cores (R217, R227, R309). -/
def copiesTied (m : Img) (p : Placement) (i : Nat) (o : ObjPlace) : Bool :=
  let spots := objSpots m p i o.len
  let ps := o.copies.flatMap (runsFrom 0)
  let within (q : Piece) (e : TileAt × MemSpace × Nat × Nat × Nat) : Bool :=
    q.tile == e.1 && q.mem == e.2.1 && decide (e.2.2.1 ≤ q.at_ ∧ q.at_ + q.len ≤ e.2.2.1 + e.2.2.2.2) && q.off + e.2.2.1 == q.at_ + e.2.2.2.1
  p.splits.any (fun x => x.obj == i && !x.trans) ||
  (ps.all (fun q => spots.any (within q)) &&
   (decide ((spots.map (·.2.2.2.2)).sum < o.len) || spots.all fun e => ((ps.filter fun q => within q e).map (·.len)).sum == e.2.2.2.2))

/-- Whether an object's transpose is what R209 builds: none in a restricted load (R213), of an object that is not trained, or without reserved space; else, in cores
of the plots that read it in a backward pass, one record for each entry of its bands' blocks, those of a split row's pieces on their helpers (R201, R216), and
value runs that hold each stored element once. The bits from which an element comes follow Plouno's LAYOUT, which the engine carries unread (R85, R227). -/
def transTied (restricted : Bool) (m : Img) (p : Placement) (i : Nat) (r : List Byte) (o : ObjPlace) : Bool :=
  if restricted || !objTrained r || objTransOff r == 0 then o.trans.isEmpty && o.transRecs.isEmpty
  else
    let k := (maskOf r (recsOfObj p.reads i)).transpose
    let xs := p.splits.filter fun x => x.obj == i && x.trans
    let cores := (backOf p.reads i).flatMap (plotCores p m.plots)
    let helper (t : TileAt) : Bool := xs.any fun x => x.helpers.contains t
    let names := ((o.transRecs.filter fun e => !helper e.1).map fun e => (e.2.2.2.1, e.2.2.2.2.1)).mergeSort fun a b => decide (a.1 < b.1 ∨ a.1 = b.1 ∧ a.2 ≤ b.2)
    names == (List.range ((k.rows + 7) / 8)).flatMap (fun b => (List.range (8 * ((k.cols + 63) / 64))).map fun e => (b, e)) &&
    xs.all (fun x => x.helpers.zipIdx.all fun h =>
      ((o.transRecs.filter fun e => e.1 == h.1).map fun e => (e.2.2.2.1, e.2.2.2.2.1)) == (k.piece x.row (objSplit r) h.2).map fun e => (x.row / 8, e)) &&
    o.transRecs.all (fun e => cores.contains e.1) && o.trans.all (fun e => cores.contains e.1) &&
    (o.trans.map (·.2.2.2.2)).sum == storedCount r (recsOfObj p.reads i) * ((fmtOf (objFmt r)).elim 0 (·.width)) &&
    apart (o.trans.map fun e => (e.2.2.2.1, e.2.2.2.2)) && o.trans.all (fun e => decide (e.2.2.2.1 + e.2.2.2.2 ≤ 8 * o.len)) &&
    cores.all fun t => [MemSpace.sram, .slab].all fun sp =>
      apart (((o.trans.filter fun e => e.1 == t && e.2.1 == sp).map fun e => (e.2.2.1, e.2.2.2.2)) ++
             ((o.transRecs.filter fun e => e.1 == t && e.2.1 == sp).map fun e => (8 * e.2.2.1, 256)))

/-- Whether an object is placed as its directory record says, its records whole (R196, R209, R227). -/
def objTied (restricted : Bool) (m : Img) (p : Placement) (e : (Nat × List Byte) × ObjPlace) : Bool :=
  let i := e.1.1
  let r := e.1.2
  let o := e.2
  o.fmt == objFmt r && o.enc == objEnc r && o.trained == objTrained r && o.elems == objRows r * objCols r && o.len == fieldLE r 24 8 &&
  recordsWhole r (recsOfObj p.reads i) && (backOf p.reads i).all (fun q => decide (q < m.plots.length)) && copiesTied m p i o && transTied restricted m p i r o

/-- The bytes of a line image that a core loads: `n` of them from byte `a` of a memory, within one line. -/
def loaded (c : TileCfg) (sp : MemSpace) (a n : Nat) : Option (List Byte) :=
  (c.mem.find? fun l => l.space == sp && l.line == a / 64).map fun l => leBytes n (l.bytes.toNat / 256 ^ (a % 64))

/-- Whether the cores of a split row load the records that R217 gives them: the home band those of its list without the split rows, each helper those of its piece
with only that row. A transpose's are built (R209). -/
def pieceTied (m : Img) (p : Placement) (x : RowSplit) : Bool :=
  let r := ((m.objs[x.obj]?).map (·.2)).getD []
  let k := maskOf r (recsOfObj p.reads x.obj)
  let band := x.row / 8
  let gone := ((k.splitRows (objSplit r)).map (·.1)).filter fun q => q / 8 == band
  let holds (t : TileAt) (sp : MemSpace) (a : Nat) (b : List Byte) : Bool := match cfgAt? p t with
    | some c => loaded c sp a 32 == some b
    | none => false
  x.trans || (x.homeAt.map (·.1) == k.list gone band && x.homeAt.all (fun e => holds x.home e.2.1 e.2.2.1 (k.record gone none band e.1 e.2.2.2)) &&
    x.pieceAt.length == x.helpers.length && (x.helpers.zip x.pieceAt).zipIdx.all fun h =>
      let es := k.piece x.row (objSplit r) h.2
      h.1.2.length == es.length && (es.zip h.1.2).all fun e => holds h.1.1 e.2.1 e.2.2.1 (k.record [] (some x.row) band e.1 e.2.2.2))

/-- Whether a placement's splits are those that R216 asks for: each piece on a helper core that the plot of its home band declares, each helper once, with its
records (R216, R217). -/
def splitsTied (restricted : Bool) (m : Img) (p : Placement) : Bool :=
  let want := m.objs.flatMap fun e => (splitsOf restricted p.reads e.1 e.2).map fun x => (e.1, x.1, x.2.1, pieceCount x.2.2 (objSplit e.2))
  decide (p.splits.map (fun x => (x.obj, x.trans, x.row, x.helpers.length)) = want) &&
  decide (p.splits.flatMap fun x => x.helpers.map tileNo).Nodup && p.splits.all fun x => pieceTied m p x && (match cfgAt? p x.home with
    | some c => (bandPlots m.plots p.reads x.obj x.trans).contains c.plot && (match p.plots[c.plot]? with
      | some q => x.helpers.all fun t => q.helpers.contains t
      | none => false)
    | none => false)

/-! ## Routes (R138 to R144, R225, R226, R235) -/

/-- The entry of a tile's router that a placement sets for beat `b` of a phase (R145, R146, R160). -/
def entryOf (p : Placement) (ph b : Nat) (t : TileAt) : Nat :=
  match cfgAt? p t with
  | none => 0
  | some c =>
    let i := if (headlandOf t).isSome then b % 64 else match c.phases[ph]? with
      | some w => w.base + (b + c.startCur) % max 1 w.len
      | none => 1024
    ((find? c.entries i).getD 0).toNat

/-- Where a word comes to: 0 the C output, 1 and 2 the control and data queue, 3 a solera input, 4 a hub; the tile, the beat, the links and crossings passed. -/
structure RouteEnd where
  kind : Nat
  at_  : TileAt
  beat : Nat
  h    : Nat
  x    : Nat
deriving DecidableEq, Repr

/-- Follows a word that stands on an input of a tile in a beat, through PASS and COPY outputs, to everything it reaches (R138, R140, R143, R148). -/
def follow (p : Placement) (ph : Nat) : Nat → TileAt → Nat → Nat → Nat → Nat → List RouteEnd
  | 0, _, _, _, _, _ => []
  | f + 1, t, port, b, h, x =>
    let e := entryOf p ph b t
    let here (kind : Nat) : RouteEnd := { kind := kind, at_ := t, beat := b, h := h, x := x }
    ((List.range 5).filter fun o => decide (opOf e o < 2) && srcOf e o == port + 1).flatMap (fun o =>
      if o = 4 then [here 0]
      else match neighbour t o with
        | none => if (spanOf t o).isSome then [here 4] else []
        | some u =>
          let cr := if parcelOf u = parcelOf t then 0 else 1
          follow p ph f u ((o + 2) % 4) (b + 1 + 4 * cr) (h + 1) (x + cr)) ++
    (if ctlSrc e = port + 1 then [here 1] else []) ++ (if datSrc e = port + 1 then [here 2] else []) ++
    (if (portsOf (solMask e)).contains port then [here 3] else [])

/-- The longest route that is followed, in links. -/
def routeMax : Nat := 4096

/-- The beats of a phase at which a tile's router stands at the cursors of a slot set. -/
def slotBeats (c : TileCfg) (ph base stride : Nat) : List Nat :=
  match c.phases[ph]? with
  | none => []
  | some w => (slotSet c.phases ph base stride).map fun k => (k + w.len - c.startCur % max 1 w.len) % max 1 w.len

/-- Whether a route ends at a channel of a tile: at a data slot of its C output, or at the queue that the entry names (R177, R180). -/
def endsAt (c : TileCfg) (ch : ChanCfg) (r : RouteEnd) : Bool :=
  r.at_ == c.at_ && (if ch.tgt = 0 then
    r.kind == 0 && (match c.phases[ch.phase]? with
      | some w => inSlots ch.dslot ch.dstride w.len ((r.beat + c.startCur) % max 1 w.len)
      | none => false)
    else r.kind == ch.tgt)

/-- The endpoints of channel pair `j` of a net: the tiles and channel entries. -/
def netEnds (m : Img) (p : Placement) (r : List Byte) (j : Nat) : Option ((TileCfg × ChanCfg) × (TileCfg × ChanCfg)) :=
  let side (o : Nat) : Option (TileCfg × ChanCfg) :=
    ((coreTile p m.plots (fieldLE r o 2) (byteAt r (o + 2)) (byteAt r (o + 3))).bind (cfgAt? p)).bind fun c =>
      (c.chans[byteAt r (o + 4) % 8 + j]?).map fun e => (c, e)
  match side 0, side 8 with
  | some a, some b => some (a, b)
  | _, _ => none

/-- The length of a phase at a tile's router. -/
def lenOf (c : TileCfg) (ph : Nat) : Nat := ((c.phases[ph]?).map (·.len)).getD 0

/-- What the words reach that stand on a tile's C input in some beats of a phase, a list for each. -/
def sentFrom (p : Placement) (ph : Nat) (t : TileAt) (l : List Nat) : List (List RouteEnd) := l.map fun k => follow p ph routeMax t 4 k 0 0

/-- Whether a credit word comes to a credit slot of a channel (R177, R182). -/
def creditAt (c : TileCfg) (ch : ChanCfg) (r : RouteEnd) : Bool :=
  r.at_ == c.at_ && r.kind == 0 && inSlots ch.cslot ch.cstride (lenOf c ch.phase) ((r.beat + c.startCur) % max 1 (lenOf c ch.phase))

/-- The links and crossings of the first of some routes. -/
def firstLen (l : List (List RouteEnd)) : Option (Nat × Nat) := (l.findSome? (·.head?)).map fun r => (r.h, r.x)

/-- Whether every word of a stream has a route of `n` links and crossings. -/
def alike (n : Nat × Nat) (l : List (List RouteEnd)) : Bool := l.all fun e => e.any fun r => r.h == n.1 && r.x == n.2

/-- A route over relay cores, which take words in a receive channel and send them later (R235): the links, the crossings and the links beyond the straight way of all
its legs. Every word of the sender comes to the first relay, and of each relay some word comes to the next, the last to the receiver; which word is which only the
relays' code shows (log 126). -/
def legs (p : Placement) (ph : Nat) (b : TileCfg × ChanCfg) : List TileAt → TileAt → Bool → List Nat → Option (Nat × Nat × Nat)
  | [], t, whole, l =>
    let ws := (sentFrom p ph t l).map (·.filter (endsAt b.1 b.2))
    (firstLen ws).bind fun n => if whole && !alike n ws then none else some (n.1, n.2, n.1 - hopsBetween t b.1.at_)
  | u :: rest, t, whole, l => (cfgAt? p u).bind fun c =>
    let takes (r : RouteEnd) : Bool := c.chans.any fun e => e.en && e.recv && e.phase == ph && endsAt c e r
    let ws := (sentFrom p ph t l).map (·.filter takes)
    (firstLen ws).bind fun n => if whole && !alike n ws then none
      else (legs p ph b rest u false ((c.chans.filter fun e => e.en && !e.recv && e.phase == ph).flatMap fun e => slotBeats c ph e.dslot e.dstride)).map
        fun r => (n.1 + r.1, n.2 + r.2.1, n.1 - hopsBetween t u + r.2.2)

/-- A plot's period in a phase; the phase's own length where it is idle (R223). -/
def plotPeriod (m : Img) (plot ph len : Nat) : Nat :=
  let n := ((m.plots[plot]?).map fun e => fieldLE e.2 (4 + 2 * ph) 2).getD 0
  if n = 0 then len else n

/-- Whether a channel has data slots for a rate in words per period of its plot (R225; DEDUCED, log 161). -/
def rateMet (m : Img) (c : TileCfg × ChanCfg) (rate : Nat) : Bool :=
  let len := lenOf c.1 c.2.phase
  decide (rate * len ≤ (slotBeats c.1 c.2.phase c.2.dslot c.2.dstride).length * plotPeriod m c.1.plot c.2.phase len)

/-- Whether a net's channel pairs are what its record says and carry its rate, and every word of it comes to the receiver over the links, crossings and relays
reported, at most 32 links more than the straight way: the routed latency, in beats from the SEND's issue to that of the RECV, is the one reported, to which a
relay adds at least a beat (R225, R226, R235). -/
def netTied (m : Img) (p : Placement) (e : Nat × List Byte) : Bool :=
  match p.nets[e.1]? with
  | none => false
  | some n =>
    (List.range (netWidth e.2 + 1)).all fun j => match netEnds m p e.2 j with
      | none => false
      | some (a, b) =>
        a.2.en && b.2.en && !a.2.recv && b.2.recv && a.2.cred == netCred e.2 && b.2.cred == netCred e.2 && netIn e.2 a.2.phase && rateMet m a (netRate e.2) &&
        (match legs p a.2.phase b n.relays a.1.at_ true (slotBeats a.1 a.2.phase a.2.dslot a.2.dstride) with
         | none => false
         | some l => l.1 == n.h && l.2.1 == n.x && decide (l.2.2 ≤ 32) &&
           (if n.relays.isEmpty then n.lat == n.h + 4 * n.x else decide (n.h + 4 * n.x + n.relays.length ≤ n.lat)))

/-- The tile and port that a span port of a hub attaches to (R159). -/
def spanTile (h n : Nat) : TileAt × Nat :=
  match h with
  | 0 => (tileOfNo (headCore 0 (8 * n)), 3)
  | 1 => (tileOfNo (headCore 1 n), 0)
  | 2 => (tileOfNo (headCore 2 (8 * n + 7)), 1)
  | _ => (tileOfNo (headCore 3 (448 + n)), 2)

/-- The endpoint of a port's stream: from byte `o` of its record (R228). -/
def portEnd (m : Img) (p : Placement) (b : List Byte) (o : Nat) : Option (TileCfg × ChanCfg) :=
  ((coreTile p m.plots (fieldLE b o 2) (byteAt b (o + 2)) (byteAt b (o + 3))).bind (cfgAt? p)).bind fun c =>
    (c.chans[byteAt b (o + 4) % 8]?).map fun e => (c, e)

/-- Whether a net's latency lies in its window (R225). -/
def netInWindow (p : Placement) (e : Nat × List Byte) : Bool :=
  match p.nets[e.1]? with
  | none => false
  | some n => decide (netLmin e.2 ≤ n.lat ∧ n.lat ≤ netLmax e.2)

/-! ## Credit loops (R185 to R188) -/

/-- The largest gap between consecutive slots, the wrap of the period included (R186). -/
def gapOf (l : List Nat) (period : Nat) : Nat :=
  let l := l.mergeSort
  match l with
  | [] => period
  | a :: _ => ((l.zip (l.drop 1 ++ [a + period])).map fun e => e.2 - e.1).foldl max 0

/-- The credit loop of a credited stream (R185, R186): D, h, x, L, σs, σr, σc. -/
structure Loop where
  d  : Nat
  h  : Nat
  x  : Nat
  ss : Nat
  sr : Nat
  sc : Nat
deriving DecidableEq, Repr

/-- The round trip (R185). -/
def Loop.l (c : Loop) : Nat := 2 * c.h + 8 + 8 * c.x
/-- θ × 2^31, rounded down (R186, R245). -/
def Loop.theta (c : Loop) : Nat := min (2 ^ 31 / max 1 (max c.ss (max c.sr c.sc))) (2 ^ 31 * c.d / max 1 (c.l + c.ss + c.sr + c.sc - 3))
/-- The stream's drain bound (R188). -/
def Loop.drain (c : Loop) : Nat := c.d * c.sr + c.l

/-- The scheduled pops of a channel, in the plot's frame (R186). -/
def popsOf (p : Placement) (plots : List (Nat × List Byte)) (plot row col ch : Nat) : List Nat :=
  match p.reads.cores[plot]?, plots[plot]? with
  | some l, some e =>
    let d := plotDims e.2
    ((l[if row < d.1 then row * d.2.1 + col else d.1 * d.2.1 + (row - d.1)]?).bind (·.pops[ch]?)).getD []
  | _, _ => []

/-- The cursors of a phase at which a router's entry has a STEER output, each with its outputs (R170). -/
def steerBeats (c : TileCfg) (ph : Nat) : List (Nat × List Nat) :=
  match c.phases[ph]? with
  | none => []
  | some w => (List.range w.len).filterMap fun k =>
    let e := ((find? c.entries (w.base + k)).getD 0).toNat
    let os := (List.range 5).filter fun o => opOf e o == 3
    if os.isEmpty then none else some (k, os)

/-- The cursors of a phase at which words on receive channel `i` of a tile are taken: the scheduled pops of its code, repeated from the plot's period, or for a steering
queue the beats in which the unit may fire (R181, R186). -/
def popCursors (m : Img) (p : Placement) (c : TileCfg) (i : Nat) (ch : ChanCfg) : List Nat :=
  if ch.tgt ≠ 0 then (steerBeats c ch.phase).map (·.1)
  else match p.plots[c.plot]? with
    | none => []
    | some q =>
      let len := lenOf c ch.phase
      let per := max 1 (plotPeriod m c.plot ch.phase len)
      (List.range len).filter fun k => (popsOf p m.plots c.plot c.prow c.pcol i).any fun n => n % per == frameCursor q c len k % per

/-- A stream as it is placed (R176): of a net by its index, or of a port by its index and whether it is the exit stream; whether it is credited and its receiver
returns credits, everything its words reach, the routes to the receiver and of the credit words back to the sender, and its credit loop. -/
structure PlacedStream where
  idx   : Nat
  port  : Option Bool
  cred  : Bool
  ret   : Bool
  meets : List RouteEnd
  fwd   : List (List RouteEnd)
  back  : List (List RouteEnd)
  loop  : Loop

/-- The stream of channel pair `j` of a net (R225). -/
def pairStream (m : Img) (p : Placement) (e : Nat × List Byte) (j : Nat) : Option PlacedStream :=
  match netEnds m p e.2 j, p.nets[e.1]? with
  | some (a, b), some n =>
    let sends := slotBeats a.1 a.2.phase a.2.dslot a.2.dstride
    let sent := sentFrom p a.2.phase a.1.at_ sends
    some { idx := e.1, port := none, cred := netCred e.2, ret := b.2.cred && b.2.cret && n.relays.isEmpty, meets := sent.flatten,
           fwd := sent.map (·.filter (endsAt b.1 b.2)),
           back := (sentFrom p b.2.phase b.1.at_ (slotBeats b.1 b.2.phase b.2.cslot b.2.cstride)).map (·.filter (creditAt a.1 a.2)),
           loop := { d := a.2.depth, h := n.h, x := n.x, ss := gapOf sends (lenOf a.1 a.2.phase),
                     sr := gapOf (popCursors m p b.1 (byteAt e.2 12 % 8 + j) b.2) (lenOf b.1 b.2.phase),
                     sc := gapOf (slotBeats a.1 a.2.phase a.2.cslot a.2.cstride) (lenOf a.1 a.2.phase) } }
  | _, _ => none

/-- The beats of a phase that are beats `l` of the headland schedule's 64 (R160). -/
def spanBeats (len : Nat) (l : List Nat) : List Nat := (List.range len).filter fun k => l.contains (k % 64)

/-- The entry stream of a port: the hub sends in the port's beats and takes the credit words back (R176, R228). -/
def entryStream (m : Img) (p : Placement) (e : Nat × List Byte) (b : PortBind) : Option PlacedStream :=
  if !b.hasIn then none
  else (portEnd m p e.2 0).map fun a =>
    let t := spanTile (b.slot / 128) b.span
    let sent := (spanBeats (lenOf a.1 a.2.phase) b.inAt).map fun k => follow p a.2.phase routeMax t.1 t.2 k 0 0
    let fwd := sent.map (·.filter (endsAt a.1 a.2))
    let n := (firstLen fwd).getD (0, 0)
    { idx := e.1, port := some false, cred := true, ret := a.2.cret, meets := sent.flatten, fwd := fwd,
      back := (sentFrom p a.2.phase a.1.at_ (slotBeats a.1 a.2.phase a.2.cslot a.2.cstride)).map
        (·.filter fun r => r.kind == 4 && r.at_ == t.1 && b.inCrAt.contains (r.beat % 64)),
      loop := { d := b.inDepth, h := n.1, x := n.2, ss := gapOf b.inAt 64,
                sr := gapOf (popCursors m p a.1 (byteAt e.2 4 % 8) a.2) (lenOf a.1 a.2.phase), sc := gapOf b.inCrAt 64 } }

/-- The exit stream of a port: the hub takes the words in the port's beats and sends the credit words (R176, R228). -/
def exitStream (m : Img) (p : Placement) (e : Nat × List Byte) (b : PortBind) : Option PlacedStream :=
  if !b.hasOut then none
  else (portEnd m p e.2 8).map fun a =>
    let t := spanTile (b.slot / 128) b.span
    let sends := slotBeats a.1 a.2.phase a.2.dslot a.2.dstride
    let sent := sentFrom p a.2.phase a.1.at_ sends
    let fwd := sent.map (·.filter fun r => r.kind == 4 && r.at_ == t.1 && b.outAt.contains (r.beat % 64))
    let n := (firstLen fwd).getD (0, 0)
    { idx := e.1, port := some true, cred := true, ret := true, meets := sent.flatten, fwd := fwd,
      back := (spanBeats (lenOf a.1 a.2.phase) b.outCrAt).map fun k => (follow p a.2.phase routeMax t.1 t.2 k 0 0).filter (creditAt a.1 a.2),
      loop := { d := b.outDepth, h := n.1, x := n.2, ss := gapOf sends (lenOf a.1 a.2.phase), sr := gapOf b.outAt 64, sc := gapOf b.outCrAt 64 } }

/-- The streams of a program's nets, a channel pair each, and of its ports (R176). -/
def netStreams (m : Img) (p : Placement) : List PlacedStream := m.nets.flatMap fun e => (List.range (netWidth e.2 + 1)).filterMap (pairStream m p e)
def portStreams (m : Img) (p : Placement) : List PlacedStream :=
  (m.ports.zip p.ports).flatMap fun e => (entryStream m p e.1 e.2).toList ++ (exitStream m p e.1 e.2).toList

/-- Whether the credit words of a stream come back to its sender over as many links and crossings as its words pass (R176, R185). -/
def PlacedStream.returns (x : PlacedStream) : Bool := !x.cred || !x.ret || (!x.back.isEmpty && alike (x.loop.h, x.loop.x) x.back)

/-- Whether a port's streams reach from hub to core and back, and their beats carry the port's rates (R228, R235; the rates DEDUCED, log 161). -/
def portRouted (m : Img) (p : Placement) (e : Nat × List Byte) (b : PortBind) : Bool :=
  let per (a : TileCfg × ChanCfg) : Nat := plotPeriod m a.1.plot a.2.phase (lenOf a.1 a.2.phase)
  (!b.hasIn || (match portEnd m p e.2 0, entryStream m p e b with
    | some a, some x => a.2.en && a.2.recv && a.2.cred && !x.fwd.isEmpty && alike (x.loop.h, x.loop.x) x.fwd && x.returns &&
      decide (fieldLE e.2 6 2 * 64 ≤ b.inAt.length * per a)
    | _, _ => false)) &&
  (!b.hasOut || (match portEnd m p e.2 8, exitStream m p e b with
    | some a, some x => a.2.en && !a.2.recv && a.2.cred && !x.fwd.isEmpty && alike (x.loop.h, x.loop.x) x.fwd && x.returns &&
      decide (fieldLE e.2 14 2 * 64 ≤ b.outAt.length * per a)
    | _, _ => false))

/-- The credited streams of a program (R188). -/
def loopsOf (m : Img) (p : Placement) : List PlacedStream := (netStreams m p ++ portStreams m p).filter (·.cred)

/-- The program's drain bound and the largest L (R188, R190). -/
def drainOf (m : Img) (p : Placement) : Nat := ((loopsOf m p).map (·.loop.drain)).foldl max 0
def lmaxOf (m : Img) (p : Placement) : Nat := ((loopsOf m p).map (·.loop.l)).foldl max 0

/-- Whether what hangs on a stream waits for it in a circle (R187 item 1): dependencies go from the task that sends to the task that receives, or to the
steering unit that takes the word (numbered 4), and from a unit to what its routes reach; a queue with initial tokens breaks the circle. What is left when
dependencies on nothing are taken away again and again is a circle. -/
def trim : Nat → List ((Nat × Nat) × (Nat × Nat)) → List ((Nat × Nat) × (Nat × Nat))
  | 0, l => l
  | n + 1, l => trim n (l.filter fun e => l.any fun o => o.2 == e.1)

/-- What a steered route reaches from output `o` of a router at cursor `k` (R172). -/
def steerEnds (p : Placement) (c : TileCfg) (ph : Nat) (e : Nat × Nat) : List RouteEnd :=
  match c.phases[ph]? with
  | none => []
  | some w =>
    let b := (e.1 + w.len - c.startCur % max 1 w.len) % max 1 w.len
    if e.2 = 4 then [{ kind := 0, at_ := c.at_, beat := b, h := 0, x := 0 }]
    else match neighbour c.at_ e.2 with
      | none => if (spanOf c.at_ e.2).isSome then [{ kind := 4, at_ := c.at_, beat := b, h := 0, x := 0 }] else []
      | some u =>
        let cr := if parcelOf u = parcelOf c.at_ then 0 else 1
        follow p ph routeMax u ((e.2 + 2) % 4) (b + 1 + 4 * cr) 1 cr

/-- The steered routes of a tile in a phase, by cursor and output, with what they reach. -/
def steerRoutes (p : Placement) (c : TileCfg) (ph : Nat) : List (List RouteEnd) :=
  ((steerBeats c ph).flatMap fun e => e.2.map fun o => (e.1, o)).map (steerEnds p c ph)

/-- The receive channel whose data slot a route end meets, if any (R180). -/
def endChan (p : Placement) (ph : Nat) (r : RouteEnd) : Option (TileCfg × Nat × ChanCfg) :=
  (cfgAt? p r.at_).bind fun c => ((List.range c.chans.length).findSome? fun i => (c.chans[i]?).bind fun ch =>
    if ch.en && ch.recv && ch.phase == ph && endsAt c ch r then some (c, i, ch) else none)

/-- Whether a steered route ends in a credited receive queue that returns no credits, another steering queue, or a hub (R187 item 3). -/
def steerEndOk (p : Placement) (ph : Nat) (r : RouteEnd) : Bool :=
  match r.kind with
  | 0 => (match endChan p ph r with
    | some (_, _, ch) => ch.cred && !ch.cret && ch.tgt == 0
    | none => false)
  | 3 => false
  | _ => true

/-- The task of a core that uses a channel, as its code shows. -/
def userOf (p : Placement) (plots : List (Nat × List Byte)) (c : TileCfg) (ch : Nat) : Nat :=
  match p.reads.cores[c.plot]?, plots[c.plot]? with
  | some l, some e =>
    let d := plotDims e.2
    ((l[if c.prow < d.1 then c.prow * d.2.1 + c.pcol else d.1 * d.2.1 + (c.prow - d.1)]?).bind (·.users[ch]?)).elim 0 (·.val)
  | _, _ => 0

/-- The dependencies of R187 item 1, each from a task or unit of a tile to another. -/
def dependencies (m : Img) (p : Placement) : List ((Nat × Nat) × (Nat × Nat)) :=
  let plots := m.plots
  let node (c : TileCfg) (ch : Nat) : Nat × Nat := (tileNo c.at_, userOf p plots c ch)
  let ofNet (e : Nat × List Byte) : List ((Nat × Nat) × (Nat × Nat)) := (List.range (netWidth e.2 + 1)).flatMap fun j => match netEnds m p e.2 j with
    | some (a, b) =>
      if b.2.tgt = 0 then (if netCred e.2 then [(node a.1 (byteAt e.2 4 % 8 + j), node b.1 (byteAt e.2 12 % 8 + j))] else [])
      else if b.2.tgt = 1 ∧ b.1.initTok ≠ [] then []
      else [(node a.1 (byteAt e.2 4 % 8 + j), (tileNo b.1.at_, 4))]
    | none => []
  let ofUnit (c : TileCfg) : List ((Nat × Nat) × (Nat × Nat)) := (List.range 4).flatMap fun ph => (steerRoutes p c ph).flatten.filterMap fun r =>
    match r.kind with
    | 0 => (endChan p ph r).map fun x => ((tileNo c.at_, 4), node x.1 x.2.1)
    | 1 => if ((cfgAt? p r.at_).map (·.initTok)).getD [] = [] then some ((tileNo c.at_, 4), (tileNo r.at_, 4)) else none
    | 2 => some ((tileNo c.at_, 4), (tileNo r.at_, 4))
    | _ => none
  m.nets.flatMap ofNet ++ p.tiles.flatMap ofUnit

/-- Passes of a phase after which a queue that gains a word in each has more words than any queue's depth. -/
def passes : Nat := 20

/-- The most words that the queues of a steering unit hold over many passes of a phase (R187 item 2): each entry that names a source pushes, and each
steering beat fires when both queues hold a word. -/
def steerFill (c : TileCfg) (w : SeqPhase) : Nat × Nat × Nat × Nat :=
  ((List.range (passes * w.len)).map fun k => ((find? c.entries (w.base + k % max 1 w.len)).getD 0).toNat).foldl (fun q e =>
    let a := q.1 + (if ctlSrc e ≠ 0 then 1 else 0)
    let b := q.2.1 + (if datSrc e ≠ 0 then 1 else 0)
    let fires : Bool := (List.range 5).any (fun o => opOf e o == 3) && decide (0 < a ∧ 0 < b)
    let a := if fires then a - 1 else a
    let b := if fires then b - 1 else b
    (a, b, max q.2.2.1 a, max q.2.2.2 b)) (c.initTok.length, 0, 0, 0)

/-- Whether a tile's steering queue can overflow: the one of a timed stream holds more than 8 words (R187 item 2); credits bound the other. -/
def steerOver (c : TileCfg) : Bool :=
  let credited (tgt : Nat) : Bool := c.chans.any fun e => e.en && e.recv && e.tgt == tgt && e.cred
  c.phases.any fun w =>
    let f := steerFill c w
    (!credited 1 && decide (8 < f.2.2.1)) || (!credited 2 && decide (8 < f.2.2.2))

/-- The most words that a queue holds over many passes of a phase of `len` beats: one comes in at each of the arrivals, one goes at each of the pops (R187 item 4). -/
def queueFill (arrivals pops : List Nat) (len : Nat) : Nat :=
  ((List.range (passes * len)).foldl (fun q k =>
    let a := q.1 + (arrivals.filter (· == k % max 1 len)).length
    (a - (pops.filter (· == k % max 1 len)).length, max q.2 a)) (0, 0)).2

/-- Whether a queue at the end of a tile's steered routes can hold more words than its depth (R187 item 4). -/
def steerEndOver (m : Img) (p : Placement) (c : TileCfg) : Bool :=
  (List.range 4).any fun ph =>
    let rs := (steerRoutes p c ph).flatten
    rs.any fun r => match r.kind with
      | 0 => (match endChan p ph r with
        | some (d, i, ch) =>
          let len := ((d.phases[ph]?).map (·.len)).getD 0
          let at_ := (rs.filter fun o => o.kind == 0 && o.at_ == r.at_).map fun o => (o.beat + d.startCur) % max 1 len
          decide (ch.depth < queueFill at_ (popCursors m p d i ch) len)
        | none => false)
      | 4 => false
      | 3 => false
      | _ => (match cfgAt? p r.at_ with
        | some d =>
          let len := ((d.phases[ph]?).map (·.len)).getD 0
          let at_ := (rs.filter fun o => o.kind == r.kind && o.at_ == r.at_).map fun o => (o.beat + d.startCur) % max 1 len
          decide (8 < queueFill at_ ((steerBeats d ph).map (·.1)) len)
        | none => false)

/-- Whether a stream is credited and feeds a solera input (R150, R187 item 5). -/
def PlacedStream.soleraFed (x : PlacedStream) : Bool := x.cred && x.meets.any fun r => r.kind == 3

/-- The first of R187's conditions that a program meets: reason and index. -/
def loopRefusal (m : Img) (p : Placement) : Option (Nat × Nat) :=
  let deps := dependencies m p
  let ends := p.tiles.flatMap fun c => (List.range 4).flatMap fun ph => (steerRoutes p c ph).flatten.map fun r => (c.plot, ph, r)
  if !(trim deps.length deps).isEmpty then some (0x0C, noIndex)
  else match p.tiles.find? steerOver with
    | some c => some (0x0D, c.plot)
    | none => match ends.find? fun e => decide (e.2.2.kind ≠ 3) && !steerEndOk p e.2.1 e.2.2 with
      | some e => some (0x0E, e.1)
      | none => match p.tiles.find? (steerEndOver m p) with
        | some c => some (0x0D, c.plot)
        | none => match ends.find? fun e => e.2.2.kind == 3 with
          | some e => some (0x0F, e.1)
          | none => ((netStreams m p ++ portStreams m p).find? (·.soleraFed)).map fun e => (0x0F, e.idx)

/-! ## The joins of split rows (R218) -/

/-- The solera adders that a word on an input of a tile feeds, with their beats, and on from their outputs those that the sum feeds. -/
def joins (p : Placement) (ph : Nat) : Nat → TileAt → Nat → Nat → List (TileAt × Nat)
  | 0, _, _, _ => []
  | f + 1, t, port, b => ((follow p ph routeMax t port b 0 0).filter fun r => r.kind == 3).flatMap fun r =>
    (r.at_, r.beat) :: ((List.range 4).filter fun o => opOf (entryOf p ph r.beat r.at_) o == 2).flatMap fun o => match neighbour r.at_ o with
      | some u => joins p ph f u ((o + 2) % 4) (r.beat + 1 + (if parcelOf u = parcelOf r.at_ then 0 else 4))
      | none => []

/-- Whether a timed stream of each helper of a split row comes, through solera adds, to the router of the home band in a beat in which the home core's own word is
added there (R218). -/
def splitJoined (p : Placement) (x : RowSplit) : Bool :=
  x.helpers.all fun t => match cfgAt? p t with
    | none => false
    | some c => c.chans.any fun e => e.en && !e.recv && !e.cred && (slotBeats c e.phase e.dslot e.dstride).any fun k =>
      (joins p e.phase 64 c.at_ 4 k).any fun j => j.1 == x.home && (portsOf (solMask (entryOf p e.phase j.2 j.1))).contains 4

/-! ## Refusals and results (R121, R234 to R243) -/

/-- Whether an entry of a plot's core at a row and column of its rectangle drives a link that leaves the plot; a helper drives none (R224). -/
def leaves (d : Nat × Nat × Nat) (i : Nat) (r : CoreRec) : Bool :=
  let row := i / max 1 d.2.1
  let col := i % max 1 d.2.1
  let out (o : Nat) : Bool := match o with
    | 0 => row == 0
    | 1 => decide (d.2.1 ≤ col + 1)
    | 2 => decide (d.1 ≤ row + 1)
    | 3 => col == 0
    | _ => false
  r.entries.any fun e => (drivenBy e.2.toNat).any fun o => o != 4 && (decide (d.1 * d.2.1 ≤ i) || out o)

/-- The first plot with a core record that drives a link leaving it (R224, R234). -/
def leavingPlot (plots : List (Nat × List Byte)) (rd : ImageReads) : Option Nat :=
  (plots.find? fun e => match rd.cores[e.1]? with
    | some l => (List.range l.length).any fun i => (l[i]?).any (leaves (plotDims e.2) i)
    | none => false).map (·.1)

/-- The plot of the first core whose schedule breaks the narrow reserve (R121). -/
def reserveFault (p : Placement) : Option Nat :=
  (p.tiles.find? fun c => c.placed && (decide (c.freeWide < 2) || decide (c.freeSlots < 1))).map (·.plot)

/-- The first plot with a segment whose worst path exceeds its declared length (R68, R234). -/
def longSegment (plots : List (Nat × List Byte)) (rd : ImageReads) : Option Nat :=
  (plots.find? fun e => ((rd.cores[e.1]?).getD []).any fun r => r.segs.any fun g => decide (g.1 < g.2)).map (·.1)

/-- Why Jarbor refuses what a placement shows of its image: reason and index (R121, R187, R210, R214, R217, R234, R240). -/
def placeRefusal (restricted : Bool) (m : Img) (p : Placement) : Option (Nat × Nat) :=
  match contentFault p with
  | some i => some (4, i)
  | none => match (leavingPlot m.plots p.reads).orElse fun _ => longSegment m.plots p.reads with
    | some i => some (4, i)
    | none => match sparseRefusal restricted m.plots m.objs p.reads with
      | some e => some e
      | none => match loopRefusal m p with
        | some e => some e
        | none => match constraintFault m p with
          | some i => some (0x0A, i)
          | none => match m.nets.find? fun e => !netInWindow p e with
            | some e => some (0x08, e.1)
            | none => (reserveFault p).map fun i => (0x0B, i)

/-- Whether a program's drives in headlands repeat with period 64 through every phase, as the headland schedule does (R160): its phases are whole multiples of 64. -/
def headPeriodic (p : Placement) : Bool :=
  p.tiles.all (fun c => (headlandOf c.at_).isNone || c.entries.isEmpty) || p.phases.all fun x => x.len % 64 == 0

/-- Whether the figures of the report that come with a placement are ones its fields can hold, and its steering terms name steering units of the program (R244, R245,
R250). -/
def figuresOk (p : Placement) : Bool :=
  decide (p.util < 65536 ∧ p.bMin ≤ p.bMax ∧ p.bMax < 2 ^ 32 ∧ p.bIter < 2 ^ 64 ∧ p.firstIter < 2 ^ 64 ∧ p.latency < 2 ^ 64 ∧ p.shares.length ≤ 12) &&
  p.steered == !p.terms.isEmpty && p.shares.all (fun e => decide (e.1 ≤ 65535 ∧ e.2 ≤ 65535)) && p.terms.all fun t =>
    decide (t.counter < 5 ∧ t.lag < 65536 ∧ -2147483648 ≤ t.coeff ∧ t.coeff < 2147483648) && (match cfgAt? p t.tile with
      | some c => (List.range 4).any fun ph => !(steerBeats c ph).isEmpty
      | none => false)

/-- Whether a placement is one of its image: plots, cores, nets, ports, phases and marker, and the figures that follow from them (R160, R185, R188, R223 to R229,
R235). -/
def tied (m : Img) (p : Placement) : Bool :=
  p.plots.length == m.plots.length && m.plots.all (plotTied m p) && coresTied m.plots p &&
  p.nets.length == m.nets.length && m.nets.all (netTied m p) &&
  p.ports.length == m.ports.length && (m.ports.zip p.ports).all (fun e => portTied e.1 e.2 && depthsTied m p e.1 e.2 && portRouted m p e.1 e.2) &&
  (netStreams m p).all (·.returns) && markerTied m p && headPeriodic p && figuresOk p && p.drain == drainOf m p && p.lmax == lmaxOf m p

/-- Whether a load's placement takes the image's objects: memory lines, objects and splits (R216, R217, R224, R227). -/
def objectsTied (restricted : Bool) (m : Img) (p : Placement) : Bool :=
  m.plots.all (linesTied restricted m p) && p.objects.length == m.objs.length && (m.objs.zip p.objects).all (objTied restricted m p) &&
  splitsTied restricted m p && p.splits.all (splitJoined p)

/-- Whether a plot keeps its origin (R242, R306). -/
def stays (old p : Placement) (i : Nat) : Bool :=
  match old.plots[i]?, p.plots[i]? with
  | some a, some b => a.row == b.row && a.col == b.col
  | _, _ => true

/-- Whether a placement puts a plot into a hot parcel while a parcel that is not hot has room (R233). -/
def hotPlaced (v : Live) (m : Img) (old : Option Placement) (p : Placement) : Bool :=
  m.plots.any fun e => (plotParcels p m.plots e.1).any (v.hot.contains ·) && !old.any (fun o => stays o p e.1) &&
    v.on.any fun q => !v.hot.contains q && v.room p q (plotDims e.2).1 (plotDims e.2).2.1

/-- Whether a placement keeps phase lengths, iteration marker and beats per iteration (R242). -/
def sameTimes (old p : Placement) : Bool :=
  let at_ (x : Placement) : Option (Nat × Nat × Nat) := (cfgAt? x x.mkTile).map fun c => (c.plot, c.prow, c.pcol)
  p.phases == old.phases && p.start == old.start && p.mkTask == old.mkTask && at_ p == at_ old && p.bIter == old.bIter

/-- Where a placed core of an old placement stands in a new one. -/
def movedTo (old p : Placement) (t : TileAt) : Option TileAt :=
  (old.tiles.find? fun c => c.placed && c.at_ == t).bind fun c =>
    (p.tiles.find? fun e => e.placed && e.plot == c.plot && e.prow == c.prow && e.pcol == c.pcol).map (·.at_)

/-- Whether an object's bytes and its transpose move with their cores, unchanged (R212, R242). -/
def objMoves (old p : Placement) (a b : ObjPlace) : Bool :=
  let goes (t : TileAt) : Option TileAt := movedTo old p t
  (a.fmt, a.enc, a.trained, a.elems, a.len) == (b.fmt, b.enc, b.trained, b.elems, b.len) &&
  a.copies.map (·.map fun e => (goes e.1, e.2)) == b.copies.map (·.map fun e => (some e.1, e.2)) &&
  a.trans.map (fun e => (goes e.1, e.2)) == b.trans.map (fun e => (some e.1, e.2)) &&
  a.transRecs.map (fun e => (goes e.1, e.2)) == b.transRecs.map (fun e => (some e.1, e.2))

/-- Whether a split row's home and helpers move with it. -/
def splitMoves (old p : Placement) (a b : RowSplit) : Bool :=
  (a.obj, a.trans, a.row, a.homeAt, a.pieceAt) == (b.obj, b.trans, b.row, b.homeAt, b.pieceAt) && movedTo old p a.home == some b.home &&
  a.helpers.map (movedTo old p) == b.helpers.map some

/-- Whether a re-placement keeps what R242 keeps: phase lengths and periods, marker and beats per iteration, objects and splits; and moves only plots with a core or
router in the parcel to be left. -/
def replaces (q : Fin 12) (old p : Placement) : Bool :=
  p.objects.length == old.objects.length && (old.objects.zip p.objects).all (fun e => objMoves old p e.1 e.2) &&
  p.splits.length == old.splits.length && (old.splits.zip p.splits).all (fun e => splitMoves old p e.1 e.2) && p.splits.all (splitJoined p) &&
  sameTimes old p && p.reads == old.reads && p.steered == old.steered && p.boundsOnly == old.boundsOnly && p.plots.length == old.plots.length &&
  (List.range old.plots.length).all fun i => stays old p i || old.tiles.any fun c => c.plot == i && parcelOf c.at_ == q

/-- Whether the plots of two images have the same periods (R242). -/
def samePeriods (a b : List (Nat × List Byte)) : Bool :=
  (a.zip b).all fun e => (e.1.2.drop 4).take 8 == (e.2.2.drop 4).take 8

/-- Whether a reconfiguration moves only the plots that it names and those whose dimensions change (R306); one that names plots keeps what R242 keeps. -/
def reconfigures (oldPlots newPlots : List (Nat × List Byte)) (named : List Nat) (old p : Placement) : Bool :=
  (named.isEmpty || (sameTimes old p && samePeriods oldPlots newPlots)) && newPlots.all fun e => stays old p e.1 || named.contains e.1 || (match oldPlots[e.1]? with
    | some o => (plotDims o.2).1 != (plotDims e.2).1 || (plotDims o.2).2.1 != (plotDims e.2).2.1
    | none => true)

end Sys2Proof.Machine
end

