-- ==== Sys2Proof/Machine/Program.lean ====
section
/-! DEFINITION. Programs: images and their checks, placements, loading, epoch barriers, reports and counters (R64, R100, R189 to R194, R209,
R212, R220 to R247, R305 to R307), and press tables (R373 to R375). -/

namespace Sys2Proof.Machine

/-- Runs a descriptor that the Vintner carries out: it waits while MGMT is not OPEN (R450). -/
def runMgmt (o : Nat) (d : DescRef) (act : Desc → State → State) (s : State) : Res :=
  if isOpen s mgmtCode then runDesc o d act s else .next s

/-! ## Images (R220 to R222, R228 to R230, R234, R238, R240) -/

def imageMax : Nat := 48 * 2 ^ 30
/-- DETAIL of PLACEMENT_FAILED (R240). -/
def placeDetail (reason index : Nat) : Nat := reason + 2 ^ 16 * index

/-- A section directory entry: type, offset, length (R221). -/
def sectAt (b : List Byte) (i : Nat) : Nat × Nat × Nat :=
  let o := 128 + 32 * i
  (fieldLE b o 4, fieldLE b (o + 8) 8, fieldLE b (o + 16) 8)

def sects (b : List Byte) : List (Nat × Nat × Nat) := (List.range 7).map (sectAt b)

/-- The bytes of a section. -/
def sectBytes (b : List Byte) (ty : Nat) : List Byte :=
  match (sects b).find? fun e => e.1 == ty with
  | some e => (b.drop e.2.1).take e.2.2
  | none => []

/-- Whether the section directory is one of R221. -/
def directoryOk (b : List Byte) (size : Nat) : Bool :=
  let l := sects b
  (List.range 7).all (fun t => (l.filter fun e => e.1 == t + 1).length == 1) &&
  l.all (fun e => e.2.1 % 64 == 0 && decide (e.2.1 + e.2.2 ≤ size)) &&
  (List.range 7).all (fun i => (List.range i).all fun j =>
    let x := sectAt b i
    let y := sectAt b j
    decide (x.2.1 + x.2.2 ≤ y.2.1) || decide (y.2.1 + y.2.2 ≤ x.2.1) || x.2.2 == 0 || y.2.2 == 0)

/-- The digest of R220. -/
def imageDigest (b : List Byte) : List Byte := sha384 (b.drop 128)

/-- The checks of R222 that need the image's bytes alone, with reason and index (R240). The words of the core records, whose bytes the manual does
not lay out, come with the placement and are checked there. -/
def imageFault (s : State) (b : List Byte) : Option (Nat × Nat) :=
  let size := fieldLE b 8 8
  let ver := match s.sec.fw with
    | some f => (Config.cuveMinor f.ver).toNat
    | none => 0
  if size < 352 ∨ imageMax < size then some (3, noIndex)
  else if b.take 4 ≠ [0x43, 0x55, 0x56, 0x45] ∨ fieldLE b 4 2 ≠ 1 ∨ ver < fieldLE b 6 2 then some (1, noIndex)
  else if fieldLE b 16 4 ≠ 7 ∨ ¬ directoryOk b size then some (1, noIndex)
  else if (b.drop 24).take 48 ≠ imageDigest b then some (2, noIndex)
  else if sectionsOver (sectBytes b) then some (3, noIndex)
  else (recordFault (sectBytes b)).map fun i => (4, i)

/-! ## Reports and counters (R244 to R247, R250, R305 to R307) -/

/-- A table of the report: KIND, RECSIZE, the records' fields (R245). -/
abbrev Table := Nat × Nat × List (List Byte)

/-- The parcels of a plot as a mask. -/
def parcelMask (l : List (Fin 12)) : Nat := (l.map fun q => 2 ^ q.val).sum

/-- A signed number in 4 bytes. -/
def leInt (n : Int) : List Byte := leBytes 4 (BitVec.ofInt 32 n).toNat

/-- Tables 1 to 6 (R188, R245): phases, plots, nets where the template selects them, credit loops, ports and steering terms. The hub of table 5 has the numbers that
R228 gives the hubs, 1 to 4; R245 states no coding (DESIGN CHOICE, log 156). -/
def streamTables (m : Img) (p : Placement) (sel : Nat) : List Table :=
  let phases := (List.range 4).filterMap fun i => (p.phases[i]?).bind fun x => if x.len = 0 then none else
    some (leBytes 1 i ++ leBytes 1 x.next ++ leBytes 2 x.len ++ leBytes 4 x.reps ++ leBytes 1 x.opPref ++ leBytes 1 x.htol)
  let plots := p.plots.zipIdx.map fun e => leBytes 2 e.2 ++ leBytes 2 (parcelMask (plotParcels p m.plots e.2)) ++ leBytes 2 e.1.row ++ leBytes 2 e.1.col ++
    leBytes 2 e.1.phi ++ leBytes 2 e.1.helpers.length ++ leBytes 2 e.1.relays.length
  let nets := (m.nets.zip p.nets).map fun e =>
    let straight := match netEnds m p e.1.2 0 with
      | some (a, b) => hopsBetween a.1.at_ b.1.at_
      | none => 0
    leBytes 4 e.1.1 ++ leBytes 2 e.2.h ++ leBytes 2 e.2.x ++ leBytes 2 (e.2.h - straight) ++ leBytes 1 e.2.relays.length ++ leBytes 4 e.2.lat ++
    leBytes 4 (e.2.lat - netLmin e.1.2) ++ leBytes 4 (netLmax e.1.2 - e.2.lat)
  let loops := (loopsOf m p).map fun e =>
    let c := e.loop
    let net := match e.port with
      | none => e.idx
      | some out => (Config.portLoopNet e.idx out).toNat
    leBytes 4 net ++ leBytes 1 c.d ++ leBytes 2 c.h ++ leBytes 2 c.x ++ leBytes 2 c.l ++ leBytes 2 c.ss ++ leBytes 2 c.sr ++ leBytes 2 c.sc ++
    leBytes 4 c.theta ++ leBytes 4 c.drain
  let ports := p.ports.zipIdx.map fun e => leBytes 2 e.2 ++ leBytes 2 e.1.slot ++ leBytes 1 (e.1.slot / 128 + 1) ++ leBytes 1 e.1.span
  let terms := p.terms.map fun t => leBytes 2 t.tile.row.val ++ leBytes 2 t.tile.col.val ++ leBytes 1 t.counter ++ leBytes 2 t.lag ++ leInt t.coeff
  [(1, 16, phases), (2, 16, plots)] ++ (if sel % 2 = 1 then [(3, 24, nets)] else []) ++ [(4, 32, loops), (5, 8, ports), (6, 16, terms)]

/-- Bytes of an object's transpose (R209, R219). -/
def transBytes (o : ObjPlace) : Nat := ((o.trans.map fun e => e.2.2.2.2).sum + 7) / 8 + 32 * o.transRecs.length

/-- Whether an object meets R214. -/
def meets214 (p : Placement) (e : Nat × List Byte) : Bool :=
  restrictedOk e.2 (recsOfObj p.reads e.1) (backOf p.reads e.1) fun q => variantReads (objFmt e.2) ((p.reads.variants[q]?).getD [])

/-- Tables 7 to 11 (R219, R231, R245, R252): rail currents, sparse objects, split pieces, names (their kinds by section type, log 127), and parcel use where
the template selects it. -/
def useTables (restricted : Bool) (volts : Nat → Nat → Nat) (m : Img) (p : Placement) (sel : Nat) : List Table :=
  let rails := (List.range 12).flatMap fun q => (List.range 8).map fun op =>
    let c := Config.railCurrent p q op (volts q op)
    leBytes 1 q ++ leBytes 1 op ++ leBytes 4 c.1.toNat ++ leBytes 4 c.2.1.toNat ++ leBytes 4 c.2.2.toNat
  let sparse := (m.objs.filter fun e => objEnc e.2 != 0).map fun e =>
    let cost := (maskOf e.2 (recsOfObj p.reads e.1)).costs (objEnc e.2) (if restricted then 0 else objSplit e.2)
    leBytes 4 e.1 ++ leBytes 1 (objEnc e.2) ++ leBytes 1 (if meets214 p e then 1 else 0) ++ leBytes 4 cost.1 ++ leBytes 4 cost.2 ++
    leBytes 8 (((p.objects[e.1]?).map transBytes).getD 0)
  let pieces := p.splits.flatMap fun x =>
    let r := ((m.objs[x.obj]?).map (·.2)).getD []
    let k := maskOf r (recsOfObj p.reads x.obj)
    let w := (if x.trans then k.transpose else k).weight x.row
    x.helpers.zipIdx.map fun h => leBytes 4 x.obj ++ leBytes 4 x.row ++ leBytes 2 w ++ leBytes 1 x.helpers.length ++ leBytes 1 h.2 ++
      leBytes 2 (((pieceSizes w x.helpers.length)[h.2]?).getD 0) ++ leBytes 2 h.1.row.val ++ leBytes 2 h.1.col.val
  let lens := [(1, m.plots.length), (2, m.nets.length), (4, m.ports.length), (3, m.objs.length)]
  let names := ((lens.flatMap fun e => (List.range e.2).map fun i => (e.1, i)).zipIdx).map fun e =>
    leBytes 1 e.1.1 ++ leBytes 4 e.1.2 ++ padTo 32 ((m.names.drop (32 * e.2)).take 32)
  let use := (List.range 12).map fun q =>
    let sh := (p.shares[q]?).getD (0, 0)
    leBytes 1 q ++ leBytes 4 (p.tiles.filter fun c => c.placed && (parcelOf c.at_).val == q).length ++ leBytes 2 sh.1 ++ leBytes 2 sh.2
  [(7, 16, rails), (8, 24, sparse), (9, 24, pieces), (10, 40, names)] ++ (if sel / 2 % 2 = 1 then [(11, 12, use)] else [])

/-- The template's selection word: the last of REPORT's, after its names (R231). -/
def selection (m : Img) : Nat := fieldLE m.names (32 * (m.plots.length + m.nets.length + m.ports.length + m.objs.length)) 4

/-- Tables with their directory, from offset `off` on (R244, R245). -/
def tableDir (off : Nat) : List Table → List Byte
  | [] => []
  | (k, n, l) :: t => leBytes 2 k ++ zeros 2 ++ leBytes 4 l.length ++ leBytes 4 off ++ leBytes 4 n ++ tableDir (off + n * l.length) t

/-- The static report of a program as its placement and state give it (R244, R245). -/
def reportOf (s : State) (k : Fin 8) (g : Prog) (m : Img) : List Byte :=
  let p := g.place
  let sel := selection m
  let volts (q op : Nat) : Nat := railMv s.parcels[fin12 q] op
  let ts := streamTables m p sel ++ useTables g.restricted volts m p sel
  let body := ts.flatMap fun e => e.2.2.flatMap (padTo e.2.1)
  let off := 128 + 16 * ts.length
  let ver := match s.sec.fw with
    | some f => (Config.jarborVer f.ver).toNat
    | none => 0
  [0x43, 0x52, 0x50, 0x54] ++ leBytes 2 1 ++ leBytes 1 k.val ++
  leBytes 1 ((if p.steered then 1 else 0) + (if p.boundsOnly then 2 else 0) + (if g.restricted then 4 else 0)) ++
  leBytes 4 g.repSeq ++ leBytes 4 (off + body.length) ++ padTo 48 g.digest ++ leBytes 4 ver ++ leBytes 1 g.jceil ++ zeros 3 ++
  leBytes 8 p.bIter ++ leBytes 8 p.firstIter ++ leBytes 8 p.latency ++ leBytes 4 p.drain ++
  leBytes 4 (p.tiles.filter (·.placed)).length ++ leBytes 4 (p.tiles.filter fun c => (headlandOf c.at_).isNone && routerUsed c).length ++
  leBytes 2 p.util ++ leBytes 2 ts.length ++ leBytes 4 p.bMin ++ leBytes 4 p.bMax ++ leBytes 8 g.restartB ++ tableDir off ts ++ body

/-- The report as it is written to a buffer: TRUNCATED set where the buffer is shorter (R244, R246). -/
def reportBytes (g : Prog) (cut : Bool) : List Byte :=
  if cut then g.report.take 7 ++ leBytes 1 (byteAt g.report 7 + 8) ++ g.report.drop 8 else g.report

/-- The current report of a program is made; of its image the engine keeps all but the object data (R132, R244, R246). -/
def makeReport (k : Fin 8) (s : State) : State := updProg k (fun g => { g with report := reportOf s k g g.img, img := g.img.kept }) s

/-- A new report replaces the old one, with REPORT_SEQ one higher (R242). -/
def renewReport (k : Fin 8) (s : State) : State := makeReport k (updProg k (fun g => { g with repSeq := g.repSeq + 1 }) s)

/-- The placement that a program's next rewrite starts from: what a barrier in progress is to write, else what stands. -/
def standing (g : Prog) : Placement := (g.bar.bind (·.place)).getD g.place

/-- Writes bytes to a descriptor's buffer, as many as fit (R246, R307). -/
def toBuf (x : Desc) (b : List Byte) (s : State) : State := toHost x.ref (BitVec.ofNat 64 (fld x 32 8)) (b.take (fld x 40 4)) s

/-- Writes the current report to a descriptor's buffer; with it the DETAIL of R306. -/
def writeReport (x : Desc) (g : Prog) (s : State) : Nat × State :=
  let n := g.report.length
  let cut := decide (fld x 40 4 < n)
  (n % 2 ^ 32 + (if cut then 2 ^ 32 else 0), toBuf x (reportBytes g cut) s)

/-- PROG_REPORT (R246, R306). -/
def execProgReport (d : DescRef) (s : State) : Res :=
  runMgmt 0x13 d (fun x s => onSlot x (fun _ g s =>
    let r := writeReport x g s
    doneDesc x.ref r.1 r.2) s) s

/-- The program's WIN_INEXACT count: what restarts added and the cores' counters now (R92, R247). -/
def winInexact (s : State) (k : Fin 8) (g : Prog) : Nat :=
  min (2 ^ 64 - 1) (g.winInex + ((s.tiles.filter fun e => e.2.placed && e.2.pslot == k).map fun e => e.2.inexact).sum)

/-- A steering term's latched counts: now, and at the first marker ITER after the latest restart (R250, R307). -/
def termCounts (s : State) (e : SteerTerm × Nat) : List Byte :=
  let v := (find? (tileAt s e.1.tile).router.latched e.2).getD (0, 0)
  leBytes 8 v.1 ++ leBytes 8 v.2

/-- The counter block (R307). -/
def counterBlock (s : State) (k : Fin 8) (g : Prog) : List Byte :=
  leBytes 8 g.iters ++ leBytes 8 g.beatsRun ++ leBytes 8 g.baseIt ++ leBytes 8 g.baseBt ++ leBytes 8 g.holds ++ leBytes 8 g.excess ++
  leBytes 8 g.discards ++ leBytes 8 (winInexact s k g) ++ g.place.terms.zipIdx.flatMap (termCounts s)

/-- PROG_COUNTERS (R306, R307). -/
def execProgCounters (d : DescRef) (s : State) : Res :=
  runMgmt 0x14 d (fun x s => onSlot x (fun k g s =>
    let b := counterBlock s k g
    doneDesc x.ref (min b.length (fld x 40 4)) (toBuf x b s)) s) s

/-! ## Writing a program's configuration (R41, R64, R100, R130, R145, R160, R174, R177, R191, R224, R241) -/

/-- Line `j` of a task's loop-buffer lines, as the Vintner fills it (R64). -/
def codeLine (mem : List Host.Cell) (c : TaskCfg) (j : Nat) : CodeLine :=
  let a := 4 * c.ibase + 64 * j
  if a + 64 ≤ 64 * c.lbound then { tag := some (16 * j), words := BitVec.ofNat 512 (readLE mem (64 * c.lbase + a) 64) }
  else { tag := none, words := 0 }

/-- Fills every task's loop-buffer lines. A line in the ranges of two tasks is filled with the code of the lower-numbered one (R64; log 138). -/
def fillCode (x : Tile) : Tile :=
  let at_ (i : Fin 16) : CodeLine :=
    match x.cfg.toList.find? fun c => decide (c.lbFirst ≤ i.val ∧ i.val < c.lbFirst + c.lbCount) with
    | some c => codeLine x.sram c (i.val - c.lbFirst)
    | none => { tag := none, words := 0 }
  { x with code := Vector.ofFn at_ }

/-- A channel at a start: full credit, empty queue (R179, R191). -/
def freshChan (c : Chan) : Chan :=
  { c with credit := if c.cfg.en && c.cfg.cred && !c.cfg.recv then c.cfg.depth else 0, queue := [], pend := 0, cparity := false }

/-- What a start or restart resets at a tile (R39, R87, R174, R191, R542); `ep` is the domain's epoch. -/
def startTile (k : Fin 8) (ep : Bool) (x : Tile) : Tile :=
  let x := if x.placed && x.pslot == k then fillCode
      { x with tasks := Vector.replicate 4 Task.start, lanes := Vector.replicate 64 Lane.start, stage := Vector.replicate 8 Staged.none,
               stageReady := Vector.replicate 8 0, mmaBusy := 0, mmaDone := 0, inexact := 0, chans := x.chans.map freshChan, acts := [],
               wide := [], slots := [] }
    else x
  if x.router.owner = k.val then
    let q (d : Quad) : TWord := { data := d, v := true, ep := ep, bad := 0 }
    { x with router := { x.router with ctlQ := x.router.initTok.map q, datQ := [], counts := Vector.replicate 5 0, latched := [] } }
  else x

/-- The router of a tile as a placement configures it, at phase `p` and program cursor `c`, with `n` periods done; its own cursor is shifted by the
plot's offset (R145, R224). -/
def withRouter (k : Fin 8) (c : TileCfg) (p cur n : Nat) (r : Router) : Router :=
  let phases := Vector.ofFn fun i : Fin 4 => (c.phases[i.val]?).getD { base := 0, len := 0, next := 0, reps := 0 }
  let len := match c.phases[p]? with
    | some x => max 1 x.len
    | none => 1
  { r with table := c.entries.foldl (fun t e => put e.1 e.2 t) [], badEnt := [], phases := phases, startPh := c.startPh,
           startCur := c.startCur, en := c.routerEn, owner := k.val, p := p, k := (cur + c.startCur) % len, done := n, ran := none,
           initTok := c.initTok }

/-- Writes the image lines of a tile (R224). -/
def withLines (c : TileCfg) (x : Tile) : Tile :=
  c.mem.foldl (fun x l => eccWrite l.space (64 * l.line) 64 (setMem x l.space (writeLine (memOf x l.space) l.line l.bytes))) x

/-- The core words and channel table of a placed tile (R41, R177). -/
def withCore (k : Fin 8) (c : TileCfg) (x : Tile) : Tile :=
  { x with placed := true, pslot := k, plot := c.plot, prow := c.prow, pcol := c.pcol, pattern := c.pattern, mown := c.mown,
           cfg := Vector.ofFn fun i : Fin 4 => (c.tasks[i.val]?).getD TaskCfg.none,
           chans := Vector.ofFn fun i : Fin 8 => match c.chans[i.val]? with
             | some e => { Chan.none with cfg := e }
             | none => Chan.none }

/-- A tile's router part: a headland router gets the program's drives in its free pairs, another one belongs to the program if any entry drives or its
core has an open channel (R147, R160, R177). -/
def placeRouter (k : Fin 8) (c : TileCfg) (p cur n : Nat) (x : Tile) : Tile :=
  if (headlandOf c.at_).isSome then { x with router := { x.router with table := c.entries.foldl orEntry x.router.table } }
  else if !routerUsed c then x
  else { x with router := withRouter k c p cur n x.router }

/-- A new core of a program: zero memory, image lines, seed (R100, R130). -/
def newCore (k : Fin 8) (c : TileCfg) (pseed : Word) (x : Tile) : Tile :=
  withLines c { withCore k c (bareTile x) with rng := seedOf pseed c.plot c.prow c.pcol }

/-- The value of bits of an object's bytes as the first copy holds them. -/
def objBits (s : State) (o : ObjPlace) (bit n : Nat) : Nat :=
  let b0 := bit / 8
  let b1 := (bit + n + 7) / 8
  ofLE (objRead o b0 (b1 - b0) s).1 / 2 ^ (bit - 8 * b0) % 2 ^ n

/-- Builds one run of a transpose (R209); the words that it reads are checked (R124, R126). -/
def buildRun (o : ObjPlace) (s : State) (e : TileAt × MemSpace × Nat × Nat × Nat) : State :=
  let (t, m, at_, bit, n) := e
  let k := (at_ % 8 + n + 7) / 8
  let s := eccRead .vintner t m (at_ / 8) k (checkRuns .vintner o (bit / 8) ((bit + n + 7) / 8 - bit / 8) s)
  let old := ofLE (readBytes (memOf (tileAt s t) m) (at_ / 8) k)
  pokeTile t m (at_ / 8) (leBytes k (spliceBits old (at_ % 8) n (objBits s o bit n))) s

/-- Builds one record of a transpose: the row list of an entry of the transposed mask; on a helper core only the split row of its piece, and in the band itself the
rows that are not split (R201, R209, R217). -/
def buildRec (k : Mask) (xs : List RowSplit) (s : State) (e : TileAt × MemSpace × Nat × Nat × Nat × Nat) : State :=
  let (t, sp, at_, band, entry, voff) := e
  match xs.find? fun x => x.helpers.contains t with
  | some x => pokeTile t sp at_ (k.record [] (some x.row) band entry voff) s
  | none => pokeTile t sp at_ (k.record (xs.map (·.row)) none band entry voff) s

/-- Builds the transposes of the trained objects, unless the load is restricted (R209, R213): their values, and the records that the source's masks give.
The build takes no time (log 128). -/
def buildTrans (m : Img) (p : Placement) (restricted : Bool) (s : State) : State :=
  if restricted then s
  else (p.objects.zipIdx.filter (·.1.trained)).foldl (fun s e =>
    let k := (maskOf (((m.objs[e.2]?).map (·.2)).getD []) (recsOfObj p.reads e.2)).transpose
    let xs := p.splits.filter fun x => x.obj == e.2 && x.trans
    e.1.transRecs.foldl (buildRec k xs) (e.1.trans.foldl (buildRun e.1) s)) s

/-- The stream slots of a placement's ports; a port that had a slot keeps what it holds (R315, R319). The credited streams between hub and router
begin with full credit and empty queues (R179, R191). -/
def slotsFor (old : List (Nat × Slot)) (p : Placement) : List (Nat × Slot) :=
  let one (i : Nat) (b : PortBind) : Nat × Slot :=
    match old.find? fun e => e.2.port == i with
    | some e => (b.slot, { e.2 with inCred := b.inDepth, outQ := [], outPend := 0 })
    | none => (b.slot, { port := i, landing := [], units := [], egress := [], old := 0, skip := 0, lcap := 262144, ecap := 65536,
                         inCred := b.inDepth, outQ := [], outPend := 0 })
  (List.range p.ports.length).filterMap fun i => (p.ports[i]?).map (one i)

/-! ## Placements (R232 to R240) -/

/-- Whether a placement may run now: an evacuation, a load whose image has come, or a reconfiguration that has reached its rewrite step (R190, R239). -/
def placeReady (s : State) (p : Placing) : Bool :=
  p.evac.isSome || (p.ready && (p.fresh || (match prog? s p.slot with
    | some g => (match g.bar with
      | some b => b.step == .halted && b.desc == p.desc && b.wants
      | none => false)
    | none => false)))

/-- The placement that runs: an evacuation before loads and reconfigurations; of those the one that has started, else the first in order of acceptance
(R239). -/
def curPlacing (s : State) : Option Placing :=
  match s.placing.find? fun p => p.evac.isSome with
  | some p => some p
  | none => match s.placing.find? fun p => p.live.isSome && placeReady s p with
    | some p => some p
    | none => s.placing.find? (placeReady s)

/-- The bytes that a program's image copy holds (R132). -/
def imageBytes (s : State) (k : Fin 8) : Nat :=
  match s.reserved.find? (·.area == .image k) with
  | some r => ((r.copies.head?).map fun c => 65536 * c.1.length).getD 0
  | none => 0

/-- Starts the placement that is due, if it has not started (R232, R238, R239): the live state is read, and its bound counts from now; the evacuation of one
parcel has one bound for all its programs, and works from the image copies of the reserved areas (R132). An evacuation abandons a load's or reconfiguration's placement, which starts again after it. -/
def placeNext (s : State) : State :=
  match curPlacing s with
  | none => s
  | some p =>
    if p.live.isSome then s
    else
      let same (x : Placing) : Bool := p.evac.isSome && x.evac == p.evac
      let from_ := if p.timed then p.at_ else s.time
      let s := if p.evac.isSome then readArea (.image p.slot) (imageBytes s p.slot) s else s
      { s with placing := s.placing.map fun x =>
          if x = p then { x with live := some (liveOf s p.slot), at_ := from_, timed := true }
          else if same x then { x with at_ := from_, timed := true }
          else if p.evac.isSome && x.evac.isNone then { x with live := none, timed := false }
          else x }

/-- Takes a placement off the list. -/
def endPlacing (p : Placing) (s : State) : State := placeNext { s with placing := s.placing.erase p }

/-- The bound of a placement's search (R238). -/
def searchBound (p : Placing) : Nat := if p.evac.isSome then ms 2000 else ms 20000

/-- Whether a descriptor asks for a restricted load (R213, R305). -/
def restricts (x : Desc) : Bool := opcOf x == 0x10 && bitsOf (fld x 48 1) 3 1 == 1

/-- Whether a placement is a restricted load's. -/
def restrictedLoad (s : State) (p : Placing) : Bool := ((p.desc.bind (descOf s)).map restricts).getD false

/-- The image that a placement works from: the descriptor's, or for an evacuation what the engine keeps of the program's (R132, R242). -/
def imgFor (s : State) (p : Placing) : Img :=
  match p.evac, prog? s p.slot with
  | some _, some g => g.img
  | _, _ => imgOf (sectBytes p.image)

/-- What a placement works from (R236). -/
def jarborIn (s : State) (p : Placing) (v : Live) : JarborIn :=
  { img := imgFor s p, slot := p.slot, digest := if p.evac.isSome then ((prog? s p.slot).map (·.digest)).getD [] else (p.image.drop 24).take 48, seed := BitVec.ofNat 32 (((p.desc.bind (descOf s)).map fun x => fld x 44 4).getD 0), replay := restrictedLoad s p,
    plots := p.plots, evac := p.evac, old := (prog? s p.slot).map standing,
    ver := match s.sec.fw with
      | some f => Config.jarborVer f.ver
      | none => 0,
    live := v }

/-- Whether a placement is one that Jarbor may come to: on usable resources, tied to the image, and for a resident program keeping what it must (R233 to R237,
R242, R306). -/
def possible (s : State) (p : Placing) (v : Live) (pl : Placement) : Bool :=
  let m := imgFor s p
  let old := (prog? s p.slot).map standing
  v.fits pl && !hotPlaced v m old pl && tied m pl && (match p.evac, prog? s p.slot with
    | some q, some g => replaces q (standing g) pl
    | some _, none => true
    | none, some g => objectsTied false m pl && reconfigures g.img.plots m.plots p.plots (standing g) pl
    | none, none => objectsTied (restrictedLoad s p) m pl)

/-- Whether a refusal may be Jarbor's own: a reason of R240 that ends a search, with an index of the kind of thing that it concerns. The other reasons come from the
image's bytes, the slot, the directory of OBJECTS or the bound. -/
def refusalFits (restricted : Bool) (m : Img) (reason i : Nat) : Bool :=
  let of (n : Nat) : Bool := i == noIndex || decide (i < n)
  let sparse := m.objs.any fun e => objEnc e.2 != 0 || objTrained e.2
  match reason with
  | 4 => of (max (max m.plots.length m.nets.length) (max m.objs.length (max m.ports.length m.cons.length)))
  | 6 | 0xB => of m.plots.length
  | 7 => decide (0 < m.nets.length + m.ports.length) && of (max m.nets.length m.ports.length)
  | 8 => !m.nets.isEmpty && of m.nets.length
  | 9 => !m.ports.isEmpty && of m.ports.length
  | 0xA => of (max m.cons.length m.plots.length)
  | 0xC | 0xD | 0xE | 0xF => of (max m.plots.length (max m.nets.length m.ports.length))
  | 0x11 => restricted && sparse && of m.objs.length
  | 0x12 => !restricted && (m.objs.any fun e => objSplit e.2 != 0) && of m.objs.length
  | _ => false

/-- What the records of an image alone show Jarbor to refuse: an object, or a net whose window is empty (R210, R214, R225). -/
def recordRefusal (restricted : Bool) (m : Img) : Option (Nat × Nat) :=
  (directoryRefusal restricted m.objs).orElse fun _ => (m.nets.find? fun e => decide (netLmax e.2 < netLmin e.2)).map fun e => (8, e.1)

/-- Jarbor's decision that a result stands for: the refusal that the image's records need, a placement, the refusal that a placement shows its image to need, a
refusal of the search; none, if Jarbor cannot come to it (R234, R235). Of several grounds the manual does not say which a refusal names (DESIGN CHOICE, log 163). -/
def decision (s : State) (p : Placing) (v : Live) (r : PlaceResult) : Option PlaceResult :=
  let m := imgFor s p
  let seen := recordRefusal (restrictedLoad s p) m
  match r with
  | .refused n i =>
    if n = 4 ∨ seen = none then (if refusalFits (restrictedLoad s p) m n i.toNat then some r else none)
    else seen.map fun e => .refused e.1 (BitVec.ofNat 32 e.2)
  | .placed pl => match placeRefusal (restrictedLoad s p) (imgFor s p) pl with
    | some e => some (.refused e.1 (BitVec.ofNat 32 e.2))
    | none => if possible s p v pl then some r else none

/-- Whether everything a placement chose is still usable (R239). -/
def placeUsable (s : State) (k : Fin 8) (p : Placement) : Bool := (liveOf s k).fits p

/-- The next WRB that is a multiple of 64 (R190, R241). -/
def nextStart (s : State) : Nat := (s.beats.wrb + 64) / 64 * 64

/-- Free slabs in number order. -/
def freeSlabs (s : State) (avoid : List (Fin 12)) : List TileAt :=
  ((List.range 786432).map tileOfNo).filter fun t => slabFree s t && !avoid.contains (parcelOf t)

/-- Draws the two copies of a reserved area of `n` slabs each, in different parcels (R132, R133), and writes its contents; an area for which too few slabs are
free is counted. What the lees record and the log hold follows with `mirror`; the tables have no stated layout (log 129). -/
def reserveArea (a : Area) (n : Nat) (b : List Byte) (s : State) : State :=
  let c1 := (freeSlabs s []).take n
  let c2 := (freeSlabs s (c1.map parcelOf)).take n
  if c1.length < n ∨ c2.length < n then { s with boot := { s.boot with noRsv := s.boot.noRsv + 1 } }
  else
    let fill (s : State) (l : List TileAt) : State :=
      ((List.range n).zip l).foldl (fun s e => updTile e.2 (fun x => { zeroMem .slab x with slab := writeBytes [] 0 ((b.drop (65536 * e.1)).take 65536) }) s) s
    { fill (fill s c1) c2 with reserved := s.reserved ++ [{ area := a, copies := [(c1, true), (c2, true)] }] }

/-- The bytes of an image that its copy keeps: every section but OBJECTS, with the header and the directory that say where they stand (R132; log 129). -/
def imageKept (b : List Byte) : List Byte :=
  b.take 352 ++ ((sects b).filter fun e => e.1 != 3).flatMap fun e => (b.drop e.2.1).take e.2.2

/-- The resident image copy of a program slot is written anew (R132). -/
def keepImage (k : Fin 8) (image : List Byte) (s : State) : State :=
  let kept := imageKept image
  let old := (s.reserved.filter fun r => r.area == .image k).flatMap fun r => r.copies.flatMap (·.1)
  let s := old.foldl (fun s t => updTile t (zeroMem .slab) s) { s with reserved := s.reserved.filter fun r => r.area != .image k }
  reserveArea (.image k) ((kept.length + 65535) / 65536) kept s

/-- The SQs that have fetched a descriptor naming a slot from its load on (R79). -/
def sqsFrom (s : State) (k : Fin 8) (d : DescRef) : List (Fin 64) :=
  ((s.hostif.descs.dropWhile fun x => x.ref != d).filter fun x => slotOf x == some k).map (·.ref.sq) |>.eraseDups

/-- A program as it starts (R241, R247). -/
def newProg (s : State) (k : Fin 8) (x : Desc) (image : List Byte) (p : Placement) : Prog :=
  { digest := (image.drop 24).take 48, place := p, running := true, start := nextStart s, epoch := false, phase := p.start, phaseK := 0,
    phaseN := 0, iters := 0, beatsRun := 0, firstM := none, baseIt := 0, baseBt := 0, restartM := true, holds := 0, winHolds := 0,
    excess := 0, discards := 0, winInex := 0, restartB := 0, repSeq := 0, restricted := bitsOf (fld x 48 1) 3 1 == 1, jceil := s.pwr.ceil,
    seed := BitVec.ofNat 32 (fld x 44 4), bar := none, waiting := [], sqs := sqsFrom s k x.ref, press := [], slots := slotsFor [] p,
    haltAt := none, stuck := false, load := some x.ref, img := imgOf (sectBytes image), report := [] }

/-- Writes a program, to start at a WRB that is a multiple of 64, and its image copies (R132, R209, R241). -/
def startProg (k : Fin 8) (x : Desc) (image : List Byte) (p : Placement) (s : State) : State :=
  let g := newProg s k x image p
  let s := p.tiles.foldl (fun s c => checkCode c.at_ (updTile c.at_ (fun y =>
    startTile k false (placeRouter k c c.startPh 0 0 (if c.placed then newCore k c g.seed y else y))) s)) s
  let s := buildTrans g.img p g.restricted s
  let s := setProg k (some g) { s with watches := s.watches.filter fun w => w.1 != k.val }
  let s := updDom (progCode k.val) (fun d => { d with st := .opened, held := false, pend := false, since := s.time }) s
  evaluate (keepImage k image (redivideAll (makeReport k s)))

/-- A loaded program has started: the report is written, then the load's completion (R241, R246). -/
def loadStarted (s : State) (k : Fin 8) : State :=
  match prog? s k with
  | none => s
  | some g => match g.load with
    | none => s
    | some d =>
      if s.beats.wrb < g.start || !isOpen s mgmtCode then s
      else
        let s := updProg k (fun g => { g with load := none }) s
        match descOf s d with
        | none => s
        | some x =>
          if x.outc.isSome then s
          else
            let r := writeReport x g s
            doneDesc d r.1 r.2

/-- One beat passes and with it the cycles of the service net (log 1), waiting requests go, loads whose program has started complete (R241), the copies of the reserved areas follow (R132, R455), and a
placement that is due starts (R232, R239). -/
def tick (s : State) : State :=
  let s := releaseAll (blockXfers <| mirror ((List.finRange 8).foldl loadStarted (netPass (clockBeat s))))
  if isOpen s mgmtCode then placeNext s else s

/-- Ends a load or reconfiguration with PLACEMENT_FAILED (R240). -/
def failPlace (d : DescRef) (reason index : Nat) (s : State) : State := decideDesc d stPlacement (placeDetail reason index) s

/-- A load's placement ends (R235, R240). -/
def loadPlaced (p : Placing) (d : DescRef) (r : PlaceResult) (s : State) : State :=
  match descOf s d, r with
  | none, _ => endPlacing p s
  | some _, .refused reason index => failPlace d reason index.toNat (endPlacing p s)
  | some x, .placed pl =>
    if (prog? s p.slot).isSome then failPlace d 5 noIndex (endPlacing p s)
    else startProg p.slot x p.image pl (endPlacing p s)

/-! ## Loading (R305, R306) -/

/-- IMG_LEN outside the limits of R222, or a host read of the image (R305); the placement has its place in the order of acceptance from now on (R239). -/
def readImage (x : Desc) (k : Fin 8) (s : State) : State :=
  let n := fld x 24 8
  if n < 352 ∨ imageMax < n then failPlace x.ref 3 noIndex s
  else
    let p : Placing := { desc := some x.ref, slot := k, evac := none, image := [], at_ := s.time, fresh := opcOf x == 0x10, ready := false, live := none,
                         timed := false, plots := [] }
    askHost x.ref .image (BitVec.ofNat 64 (fld x 16 8)) n { s with placing := s.placing ++ [p] }

/-- Whether a program slot is occupied: resident, closing, or being loaded (R240). -/
def slotBusy (s : State) (k : Fin 8) : Bool := (prog? s k).isSome || s.placing.any fun p => p.slot == k

/-- PROG_LOAD (R306, R441): it waits for a close of its slot to end. -/
def execProgLoad (d : DescRef) (s : State) : Res :=
  let closing : Bool := match descOf s d with
    | some x => (match slotOf x with
      | some k => (dom s (progCode k.val)).st == .closing || (dom s (progCode k.val)).st == .closed
      | none => false)
    | none => false
  if closing then .next s
  else runMgmt 0x10 d (fun x s => match slotOf x with
    | some k => if slotBusy s k then failPlace d 5 noIndex s else readImage x k s
    | none => s) s

/-- A descriptor's placement is given up. -/
def dropPlacing (d : DescRef) (s : State) : State := placeNext { s with placing := s.placing.filter fun p => p.desc != some d }

/-- The image of a load or reconfiguration has come (R222, R305). -/
def imageIn (x : Desc) (b : List Byte) (s : State) : State :=
  if fieldLE b 8 8 ≠ b.length ∧ 352 ≤ fieldLE b 8 8 ∧ fieldLE b 8 8 ≤ imageMax then badField x.ref 24 (dropPlacing x.ref s)
  else match imageFault s b with
    | some e => failPlace x.ref e.1 e.2 (dropPlacing x.ref s)
    | none => placeNext { s with placing := s.placing.map fun p => if p.desc = some x.ref then { p with image := b, ready := true } else p }

/-- The list of plots that a reconfiguration re-places has come (R306). -/
def plotsIn (x : Desc) (b : List Byte) (s : State) : State :=
  { s with placing := s.placing.map fun p =>
      if p.desc = some x.ref then { p with plots := (List.range (b.length / 2)).map fun i => fieldLE b (2 * i) 2 } else p }

/-! ## Epoch barriers (R189 to R194, R242, R306) -/

/-- Begins a barrier: the stop beat, and the halt beat after flush and drain (R190 steps 1 to 4). A program already halted is in its rewrite
step at once (R194), and its epoch, which flipped when it halted, does not flip again (DESIGN CHOICE, log 162). -/
def beginBarrier (k : Fin 8) (kind : BarKind) (d : Option DescRef) (evac : List (Fin 12)) (place : Option Placement) (s : State) : State :=
  updProg k (fun g =>
    let sb := roundUp (progBeat s g + 128) (basePeriod g)
    let t := sb + flushBeats g + drainBeats g
    let b : Barrier := { kind := kind, desc := d, step := .accepted, s := sb, t := t, disc := 0, late := 0, lmax := g.place.lmax, again := 0,
                         evac := evac, place := place, wants := kind == .reconfig }
    if g.running then { g with bar := some b, haltAt := some t }
    else { g with bar := some { b with step := .halted, t := g.haltAt.getD (progBeat s g) } }) s

/-- The kind of barrier a descriptor asks for. -/
def barKind (x : Desc) : BarKind := if opcOf x = 0x12 then .remove else .reconfig

/-- Accepts a reconfiguration or removal: its barrier begins, or waits for the one in progress (R190, R194). -/
def acceptBarrier (x : Desc) (k : Fin 8) (s : State) : State :=
  match prog? s k with
  | none => decideDesc x.ref stNoProgram 0 s
  | some g =>
    if g.bar.isSome then updProg k (fun g => { g with waiting := g.waiting ++ [x.ref] }) s
    else beginBarrier k (barKind x) (some x.ref) [] none s

/-- The next waiting reconfiguration or removal begins. -/
def nextBarrier (k : Fin 8) (s : State) : State :=
  match prog? s k with
  | none => s
  | some g => match g.waiting with
    | [] => s
    | d :: t =>
      let s := updProg k (fun g => { g with waiting := t }) s
      match descOf s d with
      | some x => acceptBarrier x k s
      | none => s

/-- PROG_RECONFIG (R305, R306): reads the list of plots and the image. -/
def execProgReconfig (d : DescRef) (s : State) : Res :=
  runMgmt 0x11 d (fun x s => onSlot x (fun k _ s =>
    let n := fld x 52 4
    if 4096 < n then overField x.ref 52 s
    else
      let s := if n = 0 then s else askHost x.ref .plots (BitVec.ofNat 64 (fld x 56 8)) (2 * n) s
      readImage x k s) s) s

/-- The reads of a reconfiguration are all in: its barrier is accepted (R190). -/
def reconfigIn (x : Desc) (k : Fin 8) (s : State) : State :=
  let reading := s.hostif.reads.any fun r => r.desc == x.ref
  let listed := s.placing.any fun p => p.desc == some x.ref && p.ready
  if x.outc.isSome || reading || !listed then s else acceptBarrier x k s

/-- PROG_REMOVE (R306). -/
def execProgRemove (d : DescRef) (s : State) : Res :=
  runMgmt 0x12 d (fun x s => onSlot x (fun k _ s => acceptBarrier x k s) s) s

/-- BARRIER_STOP (R190 step 1): the ingress queues release no more tokens. -/
def execBarrierStop (ps : Fin 8) (s : State) : Res :=
  match prog? s ps with
  | none => .next s
  | some g => match g.bar with
    | none => .next s
    | some b =>
      if b.step = .accepted ∧ b.s ≤ progBeat s g then .next (updProg ps (fun g => { g with bar := some { b with step := .stopped } }) s)
      else .next s

/-- A removed program's slot is free (R306). -/
def removed (ps : Fin 8) (b : Barrier) (n : Nat) (s : State) : State :=
  let rest := match prog? s ps with
    | some g => g.waiting
    | none => []
  let s := releaseProg ps { s with placing := s.placing.filter fun p => p.slot != ps }
  let s := domTo (progCode ps.val) .off s
  let s := match b.desc with
    | some d => doneDesc d (sat32 n) s
    | none => s
  startColls (rest.foldl (fun s d => decideDesc d stNoProgram 0 s) s)

/-- BARRIER_HALT (R190 step 4, R384): at T, and for a reconfiguration or removal once no collective of the slot runs, what is left is counted and discarded, routers go off, the
epoch flips; a removal ends here. -/
def execBarrierHalt (ps : Fin 8) (s : State) : Res :=
  match prog? s ps with
  | none => .next s
  | some g => match g.bar with
    | none => .next s
    | some b =>
      let early := b.step != .stopped || decide (progBeat s g < b.t)
      if (early && !(b.kind == .remove && !g.running)) || !isOpen s mgmtCode || (barHolds b && s.colls.any (fun c => c.live && c.slot == ps)) then .next s
      else
        let n := haltWords ps s
        let s := haltTiles ps s
        if b.kind = .remove then .next (removed ps b n s)
        else .next (placeNext (evaluate (updProg ps (fun g => { g with
          running := false, epoch := !g.epoch, haltAt := some b.t, bar := some { b with step := .halted, disc := n } }) s)))

/-- The tile of a plot's core in an old placement (R242). -/
def oldTile (p : Placement) (c : TileCfg) : Option TileAt :=
  (p.tiles.find? fun e => e.placed && e.plot == c.plot && e.prow == c.prow && e.pcol == c.pcol).map (·.at_)

/-- A core in the rewrite step: memories and generator come from where it was, new images overwrite them (R100, R191, R242). -/
def movedCore (s : State) (k : Fin 8) (g : Prog) (lines : Bool) (c : TileCfg) (x : Tile) : Tile :=
  match oldTile g.place c with
  | none => newCore k c g.seed x
  | some t =>
    let o := tileAt s t
    let y := { withCore k c (bareTile x) with
      sram := o.sram, slab := o.slab, rng := o.rng }
    let y := if t = c.at_ then { y with ecc := o.ecc, mended := o.mended } else y
    if lines then withLines c y else y

/-- The tiles from which a re-placement copies a core away (R242). -/
def leaving (g : Prog) (p : Placement) : List TileAt :=
  (p.tiles.filterMap fun c => if c.placed then (oldTile g.place c).filter (· ≠ c.at_) else none)

/-- The rewrite of a program at a barrier (R190 step 5): its old tiles are freed, the new placement written. Routers go on from the
position at which they halted where the new phase is long enough, else from the start of the start phase (log 142). -/
def rewrite (k : Fin 8) (g : Prog) (p : Placement) (lines : Bool) (s : State) : State :=
  let s := (leaving g p).foldl (fun s t => eccRead .vintner t .slab 0 65536 (eccRead .vintner t .sram 0 32768 s)) s
  let old := s
  let s := headRemove g s
  let s := { s with tiles := s.tiles.map fun e => (e.1, freeTile k e.2) }
  let ok : Bool := match p.phases[g.phase]? with
    | some x => decide (g.phaseK < x.len)
    | none => false
  let at_ : Nat × Nat × Nat := if ok then (g.phase, g.phaseK, g.phaseN) else (p.start, 0, 0)
  let s := p.tiles.foldl (fun s c => checkCode c.at_ (updTile c.at_ (fun y =>
    startTile k g.epoch (placeRouter k c at_.1 at_.2.1 at_.2.2 (if c.placed then movedCore old k g lines c y else y))) s)) s
  let s := ((footTiles old k).filter fun t => !inFoot k (tileAt s t)).foldl (fun s t => deferredWork t s) s
  let s := if lines then buildTrans g.img p g.restricted s else s
  updProg k (fun g => { g with place := p, phase := at_.1, phaseK := at_.2.1, phaseN := at_.2.2, slots := slotsFor g.slots p }) s

/-- Adds the WIN_INEXACT counts of a program's cores into its own counter, before a start resets them (R92, R191). -/
def foldInexact (k : Fin 8) (s : State) : State := updProg k (fun g => { g with winInex := winInexact s k g }) s

/-- Words that stood on the links of a halted domain meet its routers in the same program beat as if it had not stopped (R163, R190). -/
def thawLinks (k : Fin 8) (g : Prog) (b : Barrier) (s : State) : State :=
  let halt := g.start + b.t
  { s with links := s.links.map fun l =>
      if (tileAt s l.dst).router.owner = k.val ∧ halt ≤ l.beat then { l with beat := l.beat + (s.beats.wrb - halt) } else l }

/-- Whether a barrier's rewrite brings the image of a reconfiguration (R190), and not an evacuation alone. -/
def newImage (s : State) (b : Barrier) : Bool :=
  match b.desc with
  | some d => (match descOf s d with
    | some x => opcOf x == 0x11
    | none => false)
  | none => false

/-- BARRIER_RESTART (R190 step 6, R191): at a WRB that is a multiple of 64, once no placement of the slot is awaited and, where cores move, no access of a collective to
them is under way (R384). A domain that stays halted since
its reconfiguration failed is rewritten by an evacuation and runs only after a later reconfiguration (R194). -/
def execBarrierRestart (ps : Fin 8) (s : State) : Res :=
  match prog? s ps with
  | none => .next s
  | some g => match g.bar with
    | none => .next s
    | some b => match b.place with
      | none => .next s
      | some p =>
        if b.step ≠ .halted || b.wants || s.placing.any (fun x => x.slot == ps && x.evac.isSome) || !isOpen s mgmtCode || s.beats.wrb % 64 != 0 ||
          (!b.evac.isEmpty && collAccess s ps) then .next s
        else
          let image := newImage s b
          let s := rewrite ps g p image (thawLinks ps g b (foldInexact ps s))
          if g.stuck && !image then .next (goColls (nextBarrier ps (redivideAll (renewReport ps (updProg ps (fun g => { g with bar := none }) s)))))
          else
            let s := updProg ps (fun g => { g with
              running := true, haltAt := none, stuck := false, start := s.beats.wrb - b.t, restartB := b.t,
              restartM := true, bar := some { b with step := .restarted, again := s.beats.wrb, place := none, late := 0 } }) s
            .next (goColls (evaluate (redivideAll (renewReport ps s))))

/-- BARRIER_COMPLETE (R190 step 7, R192, R246): the report, then the completion; the next waiting barrier begins. -/
def execBarrierComplete (ps : Fin 8) (s : State) : Res :=
  match prog? s ps with
  | none => .next s
  | some g => match g.bar with
    | none => .next s
    | some b =>
      if b.step ≠ .restarted ∨ s.beats.wrb < b.again + b.lmax then .next s
      else
        let s := updProg ps (fun g => { g with bar := none }) s
        let s := match b.desc with
          | none => s
          | some d => match descOf s d with
            | none => s
            | some x => doneDesc d (sat32 b.disc + 2 ^ 32 * sat32 b.late) (writeReport x g s).2
        .next (startColls (nextBarrier ps s))

/-- A program whose re-placement is impossible is stopped (R243). -/
def stopProg (k : Fin 8) (reason : Nat) (s : State) : State :=
  recFence { slotRec s 0x1E 2 k with info := reason } [k] 8 { s with placing := s.placing.filter fun p => p.slot != k }

/-- An evacuation's placement ends: it joins the barrier in progress up to its restart, or begins one (R194, R242, R243). -/
def evacPlaced (p : Placing) (q : Fin 12) (r : PlaceResult) (s : State) : State :=
  match prog? s p.slot, r with
  | none, _ => endPlacing p s
  | some _, .refused reason _ => stopProg p.slot reason (endPlacing p s)
  | some g, .placed pl =>
    let s := updProg p.slot (fun g => { g with jceil := (p.live.map (·.ceil)).getD g.jceil }) s
    match g.bar with
    | none => beginBarrier p.slot (.evacuate q) none [q] (some pl) (endPlacing p s)
    | some b =>
      if b.kind = .remove then endPlacing p s
      else if b.step = .restarted then s
      else updProg p.slot (fun g => { g with bar := some { b with evac := b.evac ++ [q], place := some pl } }) (endPlacing p s)

/-- A reconfiguration's placement ends in its rewrite step: without one, the domain stays halted with its state reset, moved by the evacuation that joined
the barrier (R194). -/
def reconfigPlaced (p : Placing) (d : DescRef) (r : PlaceResult) (s : State) : State :=
  match prog? s p.slot with
  | none => endPlacing p s
  | some g => match g.bar with
    | none => endPlacing p s
    | some b => match r with
      | .placed pl =>
        updProg p.slot (fun g => { g with
          digest := (p.image.drop 24).take 48, img := imgOf (sectBytes p.image), restricted := false, jceil := (p.live.map (·.ceil)).getD g.jceil,
          bar := some { b with place := some pl, wants := false } }) (keepImage p.slot p.image (endPlacing p s))
      | .refused reason index =>
        let s := foldInexact p.slot (failPlace d reason index.toNat (endPlacing p s))
        let s := match b.place with
          | some pl => renewReport p.slot (rewrite p.slot g pl false s)
          | none => (footTiles s p.slot).foldl (fun s t => checkCode t s) { s with tiles := s.tiles.map fun e => (e.1, startTile p.slot g.epoch e.2) }
        nextBarrier p.slot (updProg p.slot (fun g => { g with bar := none, stuck := true }) s)

/-- The end of the placement that runs. -/
def placeEnd (r : PlaceResult) (s : State) : State :=
  match curPlacing s with
  | none => s
  | some p => match p.evac, p.desc with
    | some q, _ => evacPlaced p q r s
    | none, some d => if p.fresh then loadPlaced p d r s else reconfigPlaced p d r s
    | none, none => endPlacing p s

/-- Commits a decision, once every resource it chose has been checked again; if one is no longer usable the placement starts again within its bound (R239). -/
def commit (p : Placing) (r : PlaceResult) (s : State) : State :=
  match r with
  | .refused _ _ => placeEnd r s
  | .placed pl =>
    if placeUsable s p.slot pl then placeEnd r s
    else { s with placing := s.placing.map fun x => if x = p then { x with live := some (liveOf s p.slot) } else x }

/-- A decision is kept: for the same input Jarbor comes to no other (R236). -/
def remember (k : JarborIn) (r : PlaceResult) (s : State) : Option State :=
  match s.memo.find? fun e => e.1 == k with
  | some e => if e.2 = r then some s else none
  | none => some { s with memo := s.memo ++ [(k, r)] }

/-- What the end of the running placement with a result does; past its bound it ends with SEARCH_LIMIT (R234 to R240). -/
def placementEnds (r : PlaceResult) (s : State) : State :=
  match curPlacing s with
  | none => s
  | some p => match p.live with
    | none => s
    | some v =>
      if p.at_ + searchBound p ≤ s.time then placeEnd (.refused 0x13 0xFFFFFFFF) s
      else match decision s p v r with
        | none => s
        | some r => match remember (jarborIn s p v) r s with
          | none => s
          | some s => commit p r s

/-- PLACEMENT_DONE (R234 to R243): Jarbor runs on the Vintner. A result that Jarbor cannot come to changes nothing. -/
def execPlacementDone (r : PlaceResult) (s : State) : Res := .next (if isOpen s mgmtCode then placementEnds r (placeNext s) else s)

/-- SEARCH_LIMIT (R238): 20 s for a load or reconfiguration, 2 s for an evacuation. -/
def execSearchLimit (s : State) : Res :=
  let s' := placeNext s
  match curPlacing s' with
  | none => .next s
  | some p => .next (if isOpen s mgmtCode ∧ p.at_ + searchBound p ≤ s.time then placeEnd (.refused 0x13 0xFFFFFFFF) s' else if isOpen s mgmtCode then s' else s)

/-! ## Press tables (R373 to R375) -/

/-- The fields of PRESS_TABLE (R373). -/
def pressChecks (x : Desc) : List Check :=
  [bad (decide (4095 < fld x 24 2)) 24, bad (fld x 26 2 == 0) 26, tooBig (decide (4096 < fld x 24 2 + fld x 26 2)) 26]

/-- PRESS_TABLE (R373). -/
def execPressTable (d : DescRef) (s : State) : Res :=
  runMgmt 0x33 d (fun x s => checks x.ref (pressChecks x) (onSlot x fun _ _ s =>
    askHost x.ref .pressTbl (BitVec.ofNat 64 (fld x 16 8)) (64 * fld x 26 2) s) s) s

/-- A press record from its 64 bytes (R374). -/
def pressOf (b : List Byte) : PressRec :=
  { k := (List.range 10).map fun i => BitVec.ofNat 32 (fieldLE b (4 * i) 4), trust := byteAt b 40 % 2 == 1, master := fieldLE b 44 4,
    state := fieldLE b 48 4, work := fieldLE b 52 4, rnd := byteAt b 56 % 4 }

/-- Whether a press record keeps R374 and R375. -/
def pressOk (g : Prog) (r : PressRec) : Bool :=
  let fp (i : Nat) : Bool := match objAt g i with
    | some o => o.fmt == 0 && o.enc == 0
    | none => false
  r.rnd != 3 && (!r.trust || leVal (decodeVal fp32 (kOf r 9)) (decodeVal fp32 (kOf r 10)) || eqVal (decodeVal fp32 (kOf r 9)) (decodeVal fp32 (kOf r 10))) && fp r.master && fp r.state &&
  (match objAt g r.work with
   | some o => decide (o.fmt ≤ 5) && (o.enc == 0 || o.trained)
   | none => false)

/-- The records of a press table have come: all are written, or none (R373). The manual states no DETAIL on OK. -/
def pressIn (d : DescRef) (b : List Byte) (s : State) : State :=
  match descOf s d with
  | none => s
  | some x => onSlot x (fun k g s =>
      let l := (List.range (fld x 26 2)).map fun i => (fld x 24 2 + i, pressOf ((b.drop (64 * i)).take 64))
      match l.find? fun e => !pressOk g e.2 with
      | some e => decideDesc d stBad (16 + 2 ^ 32 * e.1) s
      | none =>
        let f := freeDWord s
        doneDesc d f.1 (updProg k (fun g => { g with press := l.foldl (fun t e => put e.1 e.2 t) g.press }) f.2)) s

end Sys2Proof.Machine
end

