-- ==== Sys2Proof/Machine/HostData.lean ====
section
/-! DEFINITION. The descriptors that move data between host memory and a program: STREAM_XFER, MEM_READ, MEM_WRITE, OBJ_READ and OBJ_WRITE
(R302, R308, R309, R316 to R319). -/

namespace Sys2Proof.Machine

/-! ## STREAM_XFER (R317 to R319) -/

/-- The operands of STREAM_XFER that the port decides on (R317). -/
def xferChecks (x : Desc) (g : Prog) : List Check :=
  let b := bindOf g (xferPort x)
  let noIn : Bool := match b with
    | some p => !p.hasIn
    | none => false
  let noOut : Bool := match b with
    | some p => !p.hasOut
    | none => false
  [tooBig (decide (16777216 < xferIn x)) 32, bad (xferIn x % 16 != 0 || (noIn && xferIn x != 0)) 32,
   tooBig (decide (16777216 < xferOut x)) 36, bad (xferOut x % 16 != 0 || (noOut && xferOut x != 0)) 36, bad b.isNone 42]

/-- Takes a STREAM_XFER into its slot (R318); its buffers may hold errors (R421). -/
def xferStart (x : Desc) (s : State) : State :=
  onSlot x (fun k g s => checks x.ref (xferChecks x g) (fun s =>
    match bindOf g (xferPort x) with
    | none => s
    | some p => match slotAt s k p.slot with
      | none => s
      | some sl => match slotBlocked s p sl with
        | some e => decideDesc x.ref e.1 e.2 s
        | none =>
          let u : SUnit := { desc := x.ref, host := true, len := xferIn x, asked := 0, read := 0, rel := 0 }
          let s := if xferIn x = 0 then s else updSlot k p.slot (fun y => { y with units := y.units ++ [u] }) s
          let s := meetMarks (p.slot / 128) [.buffer, .unit] id (failDesc x.ref stUncorr 0) s
          finishXfer x.ref (pumpOut k p.slot (fillSlot k p.slot s))) s) s

/-- Whether an earlier fetched STREAM_XFER of the same port has not started (R302). -/
def xferBehind (s : State) (x : Desc) : Bool :=
  (s.hostif.descs.takeWhile fun y => y.ref != x.ref).any fun y =>
    opcOf y == 0x20 && slotOf y == slotOf x && xferPort y == xferPort x && !y.started && y.outc.isNone

/-- STREAM_XFER (R318): taken in fetch order per port. -/
def execStreamXfer (d : DescRef) (s : State) : Res :=
  match descOf s d with
  | none => .next s
  | some x => if xferBehind s x then .next s else runDesc 0x20 d xferStart s

/-! ## Memory and objects (R308, R309) -/

def memSpace (x : Desc) : MemSpace := if fld x 32 1 % 4 = 1 then .slab else .sram
def spaceSize (m : MemSpace) : Nat := match m with
  | .sram => 32768
  | .slab => 65536
def spaceUnit (m : MemSpace) : Nat := match m with
  | .sram => 8
  | .slab => 64

/-- The core a memory descriptor names (R308). -/
def memCore (x : Desc) (g : Prog) : Option TileAt :=
  (g.place.tiles.find? fun c => c.placed && c.plot == fld x 28 2 && c.prow == fld x 30 1 && c.pcol == fld x 31 1).map (·.at_)

/-- The operands of MEM_READ and MEM_WRITE (R308, R309). -/
def memChecks (x : Desc) (g : Prog) : List Check :=
  let m := memSpace x
  let n := fld x 24 4
  let cs := g.place.tiles.filter fun c => c.placed && c.plot == fld x 28 2
  [bad (decide (n < 8) || n % spaceUnit m != 0) 24, tooBig (decide (65536 < n) || decide (spaceSize m < fld x 36 4 + n)) 24,
   bad cs.isEmpty 28, bad (cs.all fun c => c.prow != fld x 30 1) 30, bad (memCore x g).isNone 31,
   bad (decide (2 ≤ fld x 32 1 % 4)) 32, bad (fld x 36 4 % spaceUnit m != 0) 36]

/-- Goes on with the core a memory descriptor names. -/
def onCore (x : Desc) (act : Fin 8 → TileAt → State → State) (s : State) : State :=
  onSlot x (fun k g s => checks x.ref (memChecks x g) (fun s => match memCore x g with
    | some t => act k t s
    | none => s) s) s

/-- MEM_READ (R308, R309). -/
def execMemRead (d : DescRef) (s : State) : Res :=
  runDesc 0x18 d (fun x s => onCore x (fun k t s =>
    injectAll x.ref (netRead ringUnit (.desc x.ref) (some k) t (memSpace x) (fld x 36 4) (fld x 24 4) 0) s) s) s

/-- MEM_WRITE (R308, R309): the data is read from host memory first. -/
def execMemWrite (d : DescRef) (s : State) : Res :=
  runDesc 0x19 d (fun x s => onCore x (fun _ _ s => askHost x.ref .memData (BitVec.ofNat 64 (fld x 16 8)) (fld x 24 4) s) s) s

/-- The data of a MEM_WRITE has come. -/
def memIn (x : Desc) (b : List Byte) (s : State) : State :=
  onCore x (fun k t s => injectAll x.ref (netWrite ringUnit (.desc x.ref) (some k) t (memSpace x) (fld x 36 4) b) s) s

/-- The operands of OBJ_READ and OBJ_WRITE (R308, R309). -/
def objChecks (x : Desc) (g : Prog) : List Check :=
  let n := fld x 24 4
  let o := objAt g (fld x 48 4)
  [bad (n == 0) 24, tooBig (decide (16777216 < n) || (match o with
    | some o => decide (o.len < fld x 40 8 + n)
    | none => false)) 24, bad o.isNone 48]

/-- Goes on with the object a descriptor names. -/
def onObj (x : Desc) (act : Fin 8 → ObjPlace → State → State) (s : State) : State :=
  onSlot x (fun k g s => checks x.ref (objChecks x g) (fun s => match objAt g (fld x 48 4) with
    | some o => act k o s
    | none => s) s) s

/-- OBJ_READ (R308, R309): one READ for each run of the first copy. -/
def execObjRead (d : DescRef) (s : State) : Res :=
  runDesc 0x1A d (fun x s => onObj x (fun k o s =>
    injectAll x.ref (netObjRead ringUnit (fun _ => .desc x.ref) k o (fld x 40 8) (fld x 24 4)) s) s) s

/-- OBJ_WRITE (R308, R309): the data is read from host memory first. -/
def execObjWrite (d : DescRef) (s : State) : Res :=
  runDesc 0x1B d (fun x s => onObj x (fun _ _ s => askHost x.ref .objData (BitVec.ofNat 64 (fld x 16 8)) (fld x 24 4) s) s) s

/-- The data of an OBJ_WRITE has come: every copy of the range, and the transpose (R211, R309); what the words hold afterwards is written word by word. -/
def objIn (x : Desc) (b : List Byte) (s : State) : State :=
  onObj x (fun k o s =>
    injectAll x.ref (netObjWrite ringUnit (.desc x.ref) k o (fld x 40 8) b) s) s

end Sys2Proof.Machine
end

