-- ==== Sys2Proof/Machine/DomainRows.lean ====
section
/-! DEFINITION. The commands of the reset domains: the halt and the reset of a fence, DOMAIN_CTL, progress watches, the log, the lees record, and
the suspect-unit policy's setting (R426, R435 to R449, R456 to R460). -/

namespace Sys2Proof.Machine

/-! ## The halt (R447 to R449, R457) -/

/-- Whether a closing program has reached its halt beat; a coolant flow stop holds the halt (R449, R468). -/
def haltReached (s : State) (g : Prog) : Bool :=
  s.pwr.flow.isNone && (match g.haltAt with
    | some h => decide (h ≤ progBeat s g)
    | none => true)

/-- Whether another program halts together with a domain and captures first: the RSEQ of its cause is lower (R457). -/
def capturesFirst (s : State) (c : Nat) : Bool :=
  (List.finRange 8).any fun k =>
    let d := dom s (progCode k.val)
    progCode k.val != c && d.st == .closing && d.leesReq && decide (d.rseq < (dom s c).rseq) && (match prog? s k with
      | some g => haltReached s g
      | none => false)

/-- The halt of a program's fence: what is left is counted and discarded, and the lees record is captured (R449, R457). -/
def haltProg (k : Fin 8) (g : Prog) (s : State) : State :=
  let c := progCode k.val
  let n := haltWords k s
  let pb := progBeat s g
  let s := if n = 0 then s else logRec { slotRec s 0x1D 1 k with info := n % 2 ^ 32 } s
  let s := (g.slots.map (·.1)).foldl (fun s i => slotReset k i true s) s
  let first := capturesFirst s c
  let s := if first then haltTiles k s else captureLees c pb (haltTiles k s)
  domTo c .closed (updProg k (fun g => { g with running := false }) s)

/-- FENCE_HALT (R447, R449): the flush and the drain of a closing domain have ended. -/
def execFenceHalt (d : BitVec 16) (s : State) : Res :=
  let c := d.toNat
  if (dom s c).st ≠ .closing then .next s
  else match c / 256 with
    | 7 => match prog? s (fin8 c) with
      | some g => if haltReached s g then .next (haltProg (fin8 c) g s) else .next s
      | none => .next (domTo c .closed s)
    | 3 => .next (domTo c .closed (captureLees c 0 s))
    | 4 => .next (domTo c .closed (captureLees c 0 s))
    | 2 => .next (domTo c .closed s)
    | 1 => .next (updDom c (fun d => { d with st := .closed }) s)
    | _ => .next s

/-! ## The reset (R435 to R438, R447, R448) -/

/-- A hub domain is in service: its ports are served, its slots take input, and collectives may begin (R327, R448, R465). -/
def hubOpened (h : Nat) (s : State) : State :=
  startColls (eachSlot fillSlot (fun n => n / 128 == h) (servePorts s))

/-- A domain opens (R435). -/
def openDom (c : Nat) (s : State) : State :=
  let s := updDom c (fun d => { d with st := .opened, pend := false, reopen := false, held := false, since := s.time }) s
  let s := if c / 256 = 3 then hubOpened (c % 256) s else if c / 256 = 4 then servePort s (fin24 (c % 256)) else s
  answer c s

/-- The record of a domain that fails its initialisation (R438); the manual names no source for it, so its SRC is a free value. -/
def initRec (c : Nat) (s : State) : ErrRec × State :=
  let src := (Config.freeWord s.free).toNat % 256
  let e := if c / 256 = 3 then hubRec s src 2 (c % 256) 2 else portRec s src 2 (c % 256)
  (e, { s with free := s.free + 1 })

/-- A domain that fails its initialisation is OFF; HUB-W's failure is FATAL (R424, R438, R440). -/
def failDom (c : Nat) (s : State) : State :=
  if c = hubCode 0 then fatal 2 s
  else
    let r := initRec c s
    let q := nextRseq r.2
    let s := logRec r.1 r.2
    answer c (updDom c (fun d => { d with st := .off, pend := false, reopen := false, readmit := decide (c / 256 = 3), cause := 4, rseq := q, since := s.time }) s)

/-- A hub or edge domain is initialised in OPENING (R437, R438). -/
def tryOpen (c : Nat) (ok : Bool) (s : State) : State := if ok then openDom c s else failDom c s

/-- DOMAIN_RESET (R447): a closed domain goes OFF, and opens again if the action or the cause calls for it; a domain in OPENING ends its
initialisation. -/
def execDomainReset (d : BitVec 16) (ok : Bool) (s : State) : Res :=
  let c := d.toNat
  let x := dom s c
  let kind := c / 256
  if x.st = .opening ∧ (kind = 3 ∨ kind = 4) ∧ x.readmit = false then .next (tryOpen c ok s)
  else if x.st ≠ .closed ∨ x.held then .next s
  else match kind with
    | 7 => .next (answer c (domTo c .off (releaseProg (fin8 c) s)))
    | 3 =>
      let s := answer c (domTo c .off s)
      .next (if (x.pend || x.reopen) && !x.readmit then tryOpen c ok (domTo c .opening s) else s)
    | 4 =>
      let s := answer c (domTo c .off s)
      .next (if x.pend || x.reopen then tryOpen c ok (domTo c .opening s) else s)
    | 2 => .next (if s.hostif.link && !s.hostif.perst then hostifOpen s else s)
    | 5 => .next (answer c (domTo c .off s))
    | 6 => .next (answer c (domTo c .off s))
    | _ => .next s

/-! ## DOMAIN_CTL (R439 to R442) -/

def ctlDom (x : Desc) : Nat := fld x 16 2
def ctlLees (x : Desc) : Bool := fld x 19 1 % 2 == 1
def noRseq : Nat := 0xFFFFFFFF

/-- Adds a DOMAIN_CTL to those that wait for a domain, with whether it is a pending reopen accepted in CLOSING, and answers it if it can (R441). -/
def ask (x : Desc) (c : Nat) (reopening : Bool) (s : State) : State :=
  answer c (updDom c (fun d => { d with askers := d.askers ++ [(x.ref, reopening)] }) s)

/-- A pending reopen (R437). -/
def pendReopen (x : Desc) (c : Nat) (s : State) : State :=
  ask x c ((dom s c).st == .closing) (updDom c (fun d => { d with pend := true }) s)

/-- ENABLE of a hub or edge domain (R437, R440). -/
def ctlEnable (x : Desc) (c : Nat) (s : State) : State :=
  let d := dom s c
  match d.st with
  | .off => if d.readmit then badField x.ref 18 s else ask x c false (domTo c .opening s)
  | .opening => ask x c false s
  | .opened => ask x c false s
  | .closing => pendReopen x c s
  | .closed => pendReopen x c s

/-- Fences a hub or edge domain at the host's request (R440, R447). -/
def ctlFence (x : Desc) (c : Nat) (reopen : Bool) (s : State) : State :=
  let s := if c / 256 = 3 then fenceHub (c % 256) 1 noRseq (ctlLees x) s else fenceEdge (fin24 (c % 256)) 1 noRseq (ctlLees x) s
  ask x c false (updDom c (fun d => { d with reopen := reopen }) s)

/-- RESET of a hub or edge domain: OFF it acts as ENABLE, closing it joins the close and pends a reopen (R437, R440). -/
def ctlResetUnit (x : Desc) (c : Nat) (s : State) : State :=
  match (dom s c).st with
  | .opened => ctlFence x c true s
  | _ => ctlEnable x c s

/-- DISABLE of a hub or edge domain: closing or closed, it joins the close in progress (R440). -/
def ctlDisableUnit (x : Desc) (c : Nat) (s : State) : State :=
  match (dom s c).st with
  | .opened => ctlFence x c false s
  | .opening => ask x c false (domTo c .off s)
  | _ => ask x c false s

/-- RESET or DISABLE of a program slot: fence and remove (R440). -/
def ctlProg (x : Desc) (c : Nat) (s : State) : State :=
  if (prog? s (fin8 c)).isNone ∧ (dom s c).st ≠ .closing ∧ (dom s c).st ≠ .closed then decideDesc x.ref stNoProgram 0 s
  else ask x c false (fenceProg (fin8 c) 1 noRseq (ctlLees x) s)

/-- RESET of HOSTIF: its own completion first, with the state word of OPEN (R442). -/
def ctlHostif (x : Desc) (s : State) : State :=
  let s := updDesc x.ref (fun y => { y with took := true }) s
  decideDesc x.ref stOk (stateWord { dom s hostifCode with st := .opened }) s

/-- RESET of MGMT (R450). -/
def ctlMgmt (x : Desc) (s : State) : State :=
  let closing := (dom s mgmtCode).st == .closing
  ask x mgmtCode closing (mgmtClose 1 noRseq s)

/-- DISABLE of a parcel: an immediate stop with cause 7 (R440); a test in progress ends. -/
def ctlStop (x : Desc) (p : Fin 12) (s : State) : State :=
  let c := parcelCode p.val
  if s.parcels[p].st = .off then ask x c false s
  else
    let mine (r : Readmit) : Bool := r.kind == 1 && r.index == p.val
    let rs := s.boot.readmits.filter mine
    let s := { s with boot := { s.boot with readmits := s.boot.readmits.filter fun r => !mine r } }
    let s := rs.foldl (fun s r => doneDesc r.desc (16 * r.stage + 2 ^ 16 * r.culled) s) s
    let s := headLoss p (takeParcel p 7 noRseq false s)
    ask x c false (updDom c (fun d => { d with cause := 1 }) s)

/-- EVACUATE (R407): with the host's request as its cause. -/
def ctlEvac (x : Desc) (p : Fin 12) (s : State) : State := ask x (parcelCode p.val) false (startEvac p 1 s)

/-- Runs a DOMAIN_CTL of one action, its domain code checked (R439). -/
def ctlRow (mine : Nat → Bool) (d : DescRef) (act : Desc → Nat → State → State) (s : State) : Res :=
  match descOf s d with
  | none => .next s
  | some x =>
    if mine (ctlAction x) then
      runDesc 0x42 d (fun x s => if codeOk (ctlDom x) then act x (ctlDom x) s else badField x.ref 16 s) s
    else .next s

/-- QUERY (R441); a reserved ACTION is refused here. -/
def execQuery (d : DescRef) (s : State) : Res :=
  ctlRow (fun a => a == 0 || decide (5 ≤ a)) d (fun x c s =>
    if ctlAction x ≠ 0 then badField x.ref 18 s
    else
      let s := updDesc x.ref (fun y => { y with took := true }) s
      decideDesc x.ref stOk (stateWord (dom s c)) s) s

/-- RESET (R440). -/
def execReset (d : DescRef) (s : State) : Res :=
  ctlRow (· == 1) d (fun x c s => match c / 256 with
    | 1 => ctlMgmt x s
    | 2 => ctlHostif x s
    | 3 => ctlResetUnit x c s
    | 4 => ctlResetUnit x c s
    | 7 => ctlProg x c s
    | _ => badField x.ref 18 s) s

/-- DISABLE (R440). -/
def execDisable (d : DescRef) (s : State) : Res :=
  ctlRow (· == 2) d (fun x c s => match c / 256 with
    | 3 => ctlDisableUnit x c s
    | 4 => ctlDisableUnit x c s
    | 5 => ctlStop x (fin12 (c % 256)) s
    | 7 => ctlProg x c s
    | _ => badField x.ref 18 s) s

/-- ENABLE (R437, R440). -/
def execEnable (d : DescRef) (s : State) : Res :=
  ctlRow (· == 3) d (fun x c s => match c / 256 with
    | 3 => ctlEnable x c s
    | 4 => ctlEnable x c s
    | _ => badField x.ref 18 s) s

/-- EVACUATE (R407, R440): a parcel under test or in retention is evacuated once it is ON. -/
def execEvacuate (d : DescRef) (s : State) : Res :=
  let waits : Bool := match descOf s d with
    | some x => ctlDom x / 256 == 5 && codeOk (ctlDom x) &&
        (s.parcels[fin12 (ctlDom x % 256)].st == .testing || s.parcels[fin12 (ctlDom x % 256)].st == .retained)
    | none => false
  if waits then .next s
  else ctlRow (· == 4) d (fun x c s => if c / 256 = 5 then ctlEvac x (fin12 (c % 256)) s else badField x.ref 18 s) s

/-! ## Progress watches (R443 to R446) -/

/-- What a watch looks at: ITERATIONS, or the SQ's head (R444). -/
def watchSeen (s : State) (key : Nat) : Nat :=
  if key < 256 then (match prog? s (fin8 key) with
    | some g => g.iters
    | none => 0)
  else (sqOf s (fin64 key)).head

/-- Arms, re-arms or disarms a watch; DETAIL holds the previous window (R443). -/
def armWatch (x : Desc) (s : State) : State :=
  let key := watchKey x
  let win := fld x 20 4
  let old := match find? s.watches key with
    | some w => w.win
    | none => 0
  let rest := s.watches.filter fun w => w.1 != key
  let s := { s with watches := if win = 0 then rest else put key { win := win, counted := 0, seen := watchSeen s key } rest }
  doneDesc x.ref old s

/-- The operands of WATCH_SET (R443). -/
def watchChecks (x : Desc) : List Check :=
  let kind := fld x 16 1
  [bad (kind != 1 && kind != 2) 16, bad (decide (if kind = 1 then 8 ≤ fld x 17 1 else 64 ≤ fld x 17 1)) 17, tooBig (decide (60000 < fld x 20 4)) 20]

/-- WATCH_SET (R443); a program watch's slot must hold a program that is not closing (R311, R447). -/
def execWatchSet (d : DescRef) (s : State) : Res :=
  runDesc 0x43 d (fun x s => checks x.ref (watchChecks x) (fun s =>
    if fld x 16 1 = 2 then armWatch x s
    else
      let c := progCode (fld x 17 1)
      if (dom s c).st = .closing ∨ (dom s c).st = .closed then decideDesc x.ref stFenced (fencedDetail c false false) s
      else if (prog? s (fin8 (fld x 17 1))).isNone then decideDesc x.ref stNoProgram 0 s
      else armWatch x s) s) s

/-- The window of a watch has passed; it starts anew. -/
def watchDue (s : State) (key : Nat) : Bool :=
  match find? s.watches key with
  | some w => decide (ms w.win ≤ w.counted)
  | none => false
def watchAgain (key : Nat) (s : State) : State :=
  { s with watches := s.watches.map fun e => if e.1 = key then (e.1, { e.2 with counted := 0 }) else e }

/-- PROGRAM_WATCH_EXPIRY (R445). -/
def execProgramWatchExpiry (ps : Fin 8) (s : State) : Res :=
  if watchDue s ps.val && (prog? s ps).isSome then
    .next (watchAgain ps.val (recFence { slotRec s 0x1F 2 ps with info := 1 + 256 * ps.val } [ps] 2 s))
  else .next s

/-- The host interface resets for a watch (R445, R446). -/
def hostifReset (rseq : Nat) (s : State) : State :=
  if isOpen s hostifCode then updDom hostifCode (fun d => { d with rseq := rseq }) (hostifClose 2 s) else s

/-- The hub whose unit executes an edge descriptor without a program slot (R445). -/
def hubOfDesc (s : State) (x : Desc) : Option Nat :=
  if opcOf x = 0x30 ∨ opcOf x = 0x31 then
    match s.edge.chans.find? fun e => e.2.tx.any (fun m => m.desc == some x.ref) || e.2.rx.any (fun r => r.desc == some x.ref) with
    | some e => e.2.port.map hubOf
    | none => none
  else none

/-- The domain a watch takes out of service for a descriptor: its slot, else its hub, else HOSTIF (R445). -/
def smallest (s : State) (x : Desc) : Nat :=
  match slotOf x with
  | some k => progCode k.val
  | none => match hubOfDesc s x with
    | some h => hubCode h
    | none => hostifCode

/-- Resets a domain for a watch, with the record that names it (R445, R446). -/
def watchReset (c rseq : Nat) (s : State) : State :=
  if c / 256 = 7 then fenceProg (fin8 c) 2 rseq true s
  else if c / 256 = 3 then
    (if isOpen s c then updDom c (fun d => { d with reopen := true }) (fenceHub (c % 256) 2 rseq true s) else s)
  else if c = mgmtCode then mgmtClose 2 rseq s
  else hostifReset rseq s

/-- SQ_WATCH_EXPIRY (R445); a placement for the descriptor that ends is abandoned with it. -/
def execSqWatchExpiry (p : Fin 64) (s : State) : Res :=
  if watchDue s (256 + p.val) && decide (0 < sqReady (sqOf s p)) then
    let s := watchAgain (256 + p.val) s
    let x := s.hostif.descs.find? fun x => x.ref.sq == p
    let c := match x with
      | some x => smallest s x
      | none => hostifCode
    let r := nextRseq s
    let s := logFor { linkRec s 0x1F 2 with info := 2 + 256 * p.val } [c] s
    let s := match x with
      | some x => abortEdge x.ref (decideDesc x.ref stTimeout 0 { s with placing := s.placing.filter fun p => p.desc != some x.ref })
      | none => s
    .next (watchReset c r s)
  else .next s

/-- HEARTBEAT_WATCH (R446): a hub unit's, the Vintner's or the power controller's heartbeat has been missing for 1 ms. -/
def execHeartbeatWatch (u : BitVec 24) (s : State) : Res :=
  let c := unitDom (epHub u) (epUnit u)
  if epKind u = 2 && epOk u && isOpen s c then
    let r := nextRseq s
    let s := logFor { hubRec s 0x1F 2 (epHub u) (epUnit u) with info := 3 + 256 * (u.toNat % 128) } [c] s
    .next (watchReset c r s)
  else .next s

/-! ## The log, the lees record and the policy (R426, R455, R456, R460) -/

/-- Places back from the next RSEQ. -/
def behind (s : State) (r : Nat) : Nat := (s.log.next + 2 ^ 32 - r % 2 ^ 32) % 2 ^ 32

/-- The records that a fetch from `r` writes, oldest first; an RSEQ not reached yet gives none (R456). -/
def fromRseq (s : State) (r n : Nat) : List ErrRec :=
  if 2 ^ 31 < behind s r then [] else (s.log.recs.filter fun e => decide (behind s e.rseq ≤ behind s r)).take n

/-- LOG_FETCH (R456). -/
def execLogFetch (d : DescRef) (s : State) : Res :=
  runMgmt 0x40 d (fun x s =>
    let len := fld x 24 4
    checks x.ref [bad (decide (len < 64) || len % 64 != 0) 24, tooBig (decide (262144 < len)) 24] (fun s =>
      let l := fromRseq s (fld x 28 4) (len / 64)
      let first := match l with
        | e :: _ => e.rseq
        | [] => fld x 28 4
      doneDesc x.ref (first + 2 ^ 32 * l.length) (toHost x.ref (BitVec.ofNat 64 (fld x 16 8)) (l.flatMap recBytes) s)) s) s

/-- LEES_FETCH (R460). -/
def execLeesFetch (d : DescRef) (s : State) : Res :=
  runMgmt 0x41 d (fun x s =>
    let len := fld x 24 4
    let off := fld x 28 4
    checks x.ref [bad (decide (len < 64)) 24, tooBig (decide (16777216 < len)) 24, bad (off % 64 != 0) 28] (fun s =>
      let free := fld x 32 1 % 2 == 1
      let s := readArea .lees ((s.lees.map (·.bytes.length)).getD 0) s
      match s.lees with
      | none => doneDesc x.ref 0 s
      | some l =>
        let b := (l.bytes.drop off).take len
        let s := toHost x.ref (BitVec.ofNat 64 (fld x 16 8)) b s
        doneDesc x.ref (b.length + 2 ^ 32 * l.seq) (if free then { s with lees := none } else s)) s) s

/-- POLICY_SET (R426). -/
def execPolicySet (d : DescRef) (s : State) : Res :=
  runDesc 0x45 d (fun x s => checks x.ref [bad (fld x 18 2 == 0) 18, tooBig (decide (8760 < fld x 18 2)) 18] (fun s =>
    let old := s.boot.policy % 2 + 2 ^ 16 * s.boot.recurH
    doneDesc x.ref old { s with boot := { s.boot with policy := fld x 16 1 % 2, recurH := fld x 18 2 } }) s) s

end Sys2Proof.Machine
end

