-- ==== Sys2Proof/Machine/Security.lean ====
section
/-! DEFINITION. Firmware verification, identity, the certificate chain, the DOE mailbox, debug unlock and the PHY firewall (R482, R491 to R506). -/

namespace Sys2Proof.Machine

/-! ## Key slots and digests (R491) -/

/-- A slot is blank when its fuses are all zero. -/
def slotBlank (s : State) (k : Fin 4) : Bool := (s.sec.keys[k]).all (· == 0)
/-- A slot is usable when it is not blank and not revoked. -/
def slotUsable (s : State) (n : Nat) : Bool := decide (n < 4) && !slotBlank s (fin4 n) && !s.sec.revoked.getLsbD n
/-- Whether a public key's digest is that of a slot. -/
def keyInSlot (s : State) (key : List Byte) (n : Nat) : Bool := sha384 key == s.sec.keys[fin4 n]

/-- The public key of the identity (R496). -/
def idPub (s : State) : List Byte := identityPub (identityKey s.sec.secret)
/-- The identity's signature (R497). -/
def idSign (s : State) (m : List Byte) : List Byte := padTo 96 (ecdsaSign (identityKey s.sec.secret) m)

/-! ## Firmware (R482, R492, R493) -/

/-- Bytes `o` to `o + n − 1`. -/
def cut (b : List Byte) (o n : Nat) : List Byte := (b.drop o).take n

def fwMagic : List Byte := [0x58, 0x46, 0x57, 0x49]

/-- The first check of R493 that an image of `len` bytes fails. -/
def fwFault (s : State) (b : List Byte) (len : Nat) : Option Nat :=
  let slot := byteAt b 6
  let key := cut b 64 97
  if fieldLE b 12 4 ≠ len ∨ b.take 4 ≠ fwMagic ∨ fieldLE b 4 2 ≠ 1 then some 1
  else if !slotUsable s slot then some 2
  else if !keyInSlot s key slot then some 3
  else if !pointOk key then some 4
  else if !ecdsaOk key (cut b 256 96) (b.take 256 ++ b.drop 512) then some 5
  else if byteAt b 7 < s.sec.counter ∨ 64 < byteAt b 7 then some 6
  else if bitsOf (byteAt b 16) slot 1 = 1 then some 7
  else none

/-- A verified image. -/
def fwOf (b : List Byte) : Firmware :=
  { bytes := b, ver := BitVec.ofNat 32 (fieldLE b 8 4), arb := byteAt b 7, revoke := BitVec.ofNat 4 (byteAt b 16) }

/-- FW_LOAD (R482): it waits for stage 5. -/
def execFwLoad (d : DescRef) (s : State) : Res :=
  if s.boot.stage < 5 then .next s
  else runMgmt 0x50 d (fun x s =>
    let n := fld x 24 4
    checks x.ref [bad (decide (n < 4096)) 24, tooBig (decide (33554432 < n)) 24] (askHost x.ref .firmware (BitVec.ofNat 64 (fld x 16 8)) n) s) s

/-- The image of a FW_LOAD has come: it starts in stage 5 if none runs yet, else it is staged (R482). -/
def firmwareIn (x : Desc) (b : List Byte) (s : State) : State :=
  match fwFault s b (fld x 24 4) with
  | some c => decideDesc x.ref stAuth (c + 256) s
  | none =>
    let f := fwOf b
    let det := f.ver.toNat + 2 ^ 32 * f.arb
    if s.boot.stage = 5 ∧ s.sec.fw.isNone then doneDesc x.ref det { s with sec := { s.sec with fw := some f }, boot := { s.boot with wait := 0 } }
    else doneDesc x.ref (det + 2 ^ 40) { s with sec := { s.sec with staged := some f } }

/-! ## The certificate chain (R498, R499) -/

/-- CERT_CHAIN (R498). -/
def execCertChain (d : DescRef) (s : State) : Res :=
  runMgmt 0x53 d (fun x s =>
    let n := fld x 24 4
    checks x.ref [bad (n == 0) 24, tooBig (decide (16384 < n)) 24] (askHost x.ref .chain (BitVec.ofNat 64 (fld x 16 8)) n) s) s

/-- Whether each certificate verifies under the next one's key and the last under its own: signed bytes, signature, public key. -/
def chainSigns : List (List Byte × List Byte × List Byte) → Bool
  | [] => true
  | [c] => ecdsaOk c.2.2 c.2.1 c.1
  | c :: e :: t => ecdsaOk e.2.2 c.2.1 c.1 && chainSigns (e :: t)

/-- The check a chain fails, or its number of certificates (R498, R499). -/
def chainCheck (s : State) (b : List Byte) : Nat × Nat :=
  match certParse b with
  | none => (1, 0)
  | some l =>
    if l.isEmpty ∨ 4 < l.length then (1, 0)
    else if !chainSigns l then (2, 0)
    else if (l.head?.map (·.2.2)) != some (idPub s) then (3, 0)
    else if !((List.range 4).any fun k => slotUsable s k && keyInSlot s ((l.getLast?.map (·.2.2)).getD []) k) then (4, 0)
    else (0, l.length)

/-- The bytes of a CERT_CHAIN have come. -/
def chainIn (x : Desc) (b : List Byte) (s : State) : State :=
  let c := chainCheck s b
  if c.1 ≠ 0 then decideDesc x.ref stAuth (c.1 + 512) s
  else doneDesc x.ref c.2 { s with sec := { s.sec with chain := b, ncert := c.2 } }

/-! ## Records the attestation digests (R487, R501) -/

/-- A CULL record's 32-bit value (R477). -/
def cullWord (e : Nat × Nat × Nat) : Nat := e.1 % 1024 + 2 ^ 10 * (e.2.1 % 2048) + 2 ^ 21 * (e.2.2 % 4)

/-- Inserts into a rising list. -/
def insertUp (x : Nat) : List Nat → List Nat
  | [] => [x]
  | y :: t => if x ≤ y then x :: y :: t else y :: insertUp x t

/-- DEBUG: a token has been accepted since cold reset, whatever scopes it named (R503). -/
def debugOn (s : State) : Bool := s.sec.debug
/-- SLOTS: bit k for a slot that is not blank. -/
def slotBits (s : State) : Nat := ((List.range 4).map fun k => if slotBlank s (fin4 k) then 0 else 2 ^ k).sum

/-- The digests of the resident images, zero for an empty slot (R501). -/
def imageDigests (s : State) : List Byte :=
  (List.finRange 8).flatMap fun k => match prog? s k with
    | some g => padTo 48 g.digest
    | none => zeros 48

/-- The signed part of an attestation report, 656 bytes (R501). -/
def reportBody (s : State) (nonce : List Byte) : List Byte :=
  let fw := s.sec.fw.getD { bytes := [], ver := 0, arb := 0, revoke := 0 }
  let culls := ((s.boot.culls.map cullWord).foldl (fun l x => insertUp x l) []).flatMap (leBytes 4)
  [0x58, 0x41, 0x54, 0x54] ++ leBytes 2 1 ++ zeros 2 ++ padTo 32 nonce ++ leBytes 8 (nsNow s) ++ sha384 fw.bytes ++
  leBytes 4 fw.ver.toNat ++ leBytes 4 (Config.jarborVer fw.ver).toNat ++ leBytes 1 s.sec.counter ++
  leBytes 1 (slotBits s + 16 * s.sec.revoked.toNat) ++
  leBytes 1 ((if debugOn s then 1 else 0) + (if s.sec.ncert = 0 then 0 else 2)) ++ zeros 1 ++ leBytes 4 s.boot.gen ++ sha384 culls ++
  leBytes 1 (((List.finRange 8).map fun k => if (prog? s k).isSome then 2 ^ k.val else 0).sum) ++ zeros 7 ++
  imageDigests s ++ padTo 97 (idPub s) ++ zeros 7

/-! ## The DOE mailbox (R500, R503) -/

/-- A DOE response: STATUS and data. -/
def doeAnswer (status : Nat) (b : List Byte) (s : State) : State := emit (.doe (leBytes 1 status ++ zeros 3 ++ b)) s

/-- Whether the engine answers DOE objects yet: firmware runs, MGMT is OPEN (R500). -/
def doeReady (s : State) : Bool := s.sec.fw.isSome && isOpen s mgmtCode

/-- A DOE request over the host link: `n` is the length its payload must have, if one is set. -/
def doe (ok : Bool) (act : State → State) (s : State) : Res :=
  onLink (fun s => if !doeReady s then doeAnswer 1 [] s else if !ok then doeAnswer 2 [] s else act s) s

/-- ATTEST (R501). -/
def execAttest (req : List Byte) (s : State) : Res :=
  doe (req.length == 32) (fun s =>
    let b := reportBody s req
    doeAnswer 0 (b ++ idSign s b) s) s

/-- GET_CHAIN (R500). -/
def execGetChain (req : List Byte) (s : State) : Res := doe req.isEmpty (fun s => doeAnswer 0 s.sec.chain s) s

/-- UNLOCK_CHALLENGE (R503): the challenge comes from the random bit generator (R497). -/
def execUnlockChallenge (req : List Byte) (s : State) : Res :=
  doe req.isEmpty (fun s =>
    let c := leBytes 32 (Config.freeChallenge s.free).toNat
    doeAnswer 0 c { s with free := s.free + 1, sec := { s.sec with chal := some c } }) s

/-- Whether an unlock token is accepted (R503). -/
def tokenOk (s : State) (b : List Byte) : Bool :=
  let slot := byteAt b 6
  let key := cut b 96 97
  b.take 4 == [0x58, 0x44, 0x42, 0x47] && fieldLE b 4 2 == 1 && slotUsable s slot && keyInSlot s key slot && cut b 8 48 == sha384 (idPub s) &&
  s.sec.chal == some (cut b 56 32) && ecdsaOk key (cut b 200 96) (b.take 200)

/-- A security record, which sets FW_EVENT (R506, R417). -/
def secEvent (cls low : Nat) (s : State) : State := logEvent cls low s

/-- UNLOCK (R503): the challenge serves one UNLOCK. -/
def execUnlock (req : List Byte) (s : State) : Res :=
  doe (req.length == 296) (fun s =>
    let ok := tokenOk s req
    let bits := byteAt req 7
    let s := { s with sec := { s.sec with chal := none } }
    if ok then
      let s := { s with sec := { s.sec with jtag := s.sec.jtag || bits % 2 == 1, tmux := s.sec.tmux || bits / 2 % 2 == 1, debug := true } }
      doeAnswer 0 [] (secEvent 5 (bits % 4) s)
    else doeAnswer 3 [] s) s

/-! ## The PHY firewall (R504 to R506) -/

/-- Whether the firewall passes an access (R504). -/
def phyPasses (a : PhyKind) : Bool :=
  match a with
  | .laneData => true
  | .ownRead => true
  | .vintner => true
  | .dieWrite => false
  | .dieOutside => false
  | .otherWrite => false

/-- A record of a PHY die names its lowest port (R506). -/
def phyRec (s : State) (d cls low : Nat) : ErrRec := { portRec s 0x21 0 (3 * d) with info := 2 ^ 56 * cls + low }

/-- A die with too many drops loses its rail; its ports stay FAILED until a READMIT (R402, R505). -/
def isolateDie (d : Fin 8) (n : Nat) (s : State) : State :=
  let s := attn attnFw (logRec (phyRec s d.val 2 n) s)
  failDie d.val { s with module := { s.module with phys := s.module.phys &&& ~~~(1#8 <<< d.val) }, sec := { s.sec with drops := s.sec.drops.set d [] } }

/-- PHY_ACCESS (R504, R505): passed, or dropped and logged; at more than 1,024 drops within 1 s the die is isolated. -/
def execPhyAccess (die : Fin 8) (a : PhyKind) (s : State) : Res :=
  if phyPasses a || !s.module.phys.getLsbD die.val then .next s
  else
    let s := attn attnFw (logRec (phyRec s die.val 1 1) s)
    let l := s.time :: (s.sec.drops[die]).filter fun t => decide (s.time < t + ms 1000)
    let s := { s with sec := { s.sec with drops := s.sec.drops.set die l } }
    .next (if 1024 < l.length then isolateDie die l.length s else s)

end Sys2Proof.Machine
end

