-- ==== Sys2Proof/Machine/Params.lean ====
section
/-! DEFINITION. The parameter block: its checks and sections, the records block, RECORDS_FETCH and PARAM_SUPPLY (R475 to R481, R487), and ratings
(R393). -/

namespace Sys2Proof.Machine

/-! ## The block (R475 to R478) -/

def paramMax : Nat := 2097152

/-- RECSIZE and the least and greatest COUNT of a section type (R476). -/
def sectSpec (ty : Nat) : Option (Nat × Nat × Nat) :=
  match ty with
  | 1 => some (4, 0, 65536)
  | 2 => some (4, 0, 4352)
  | 3 => some (8, 8704, 8704)
  | 4 => some (64, 48, 48)
  | 5 => some (256, 24, 24)
  | 6 => some (4, 0, 65536)
  | 7 => some (33296, 12, 12)
  | 8 => some (16, 1, 1)
  | 9 => some (8, 24, 24)
  | _ => none

/-- A directory entry: type, count, offset, record size (R475). -/
def paramDir (b : List Byte) (i : Nat) : Nat × Nat × Nat × Nat :=
  let o := 96 + 16 * i
  (fieldLE b o 2, fieldLE b (o + 4) 4, fieldLE b (o + 8) 4, fieldLE b (o + 12) 4)

def paramDirs (b : List Byte) : List (Nat × Nat × Nat × Nat) := (List.range (fieldLE b 6 2)).map (paramDir b)

/-- Whether a directory is one of R476 within `size` bytes. -/
def dirsOk (b : List Byte) (size : Nat) : Bool :=
  let l := paramDirs b
  l.all (fun e => match sectSpec e.1 with
    | some sp => e.2.2.2 == sp.1 && decide (sp.2.1 ≤ e.2.1) && decide (e.2.1 ≤ sp.2.2) && decide (e.2.2.1 + e.2.1 * e.2.2.2 ≤ size)
    | none => false) &&
  (List.range 9).all fun t => decide ((l.filter fun e => e.1 == t + 1).length ≤ 1)

def paramMagic : List Byte := [0x58, 0x50, 0x52, 0x4D]

/-- The reason a block is refused (R478). -/
def blockFault (s : State) (b : List Byte) : Option Nat :=
  let size := fieldLE b 8 4
  if b.take 4 ≠ paramMagic ∨ fieldLE b 4 2 ≠ 1 ∨ size < 96 ∨ paramMax < size then some 1
  else if cut b 48 48 ≠ sha384 (cut b 96 (size - 96)) then some 2
  else if cut b 16 8 ≠ snDigest s then some 3
  else if 9 < fieldLE b 6 2 ∨ ¬ dirsOk b size then some 4
  else none

/-- A link index in range (R477). -/
def linkOk (n : Nat) : Bool := decide (n < 4352)

/-- Whether a record holds a reserved or out-of-range value (R477, R478). -/
def recBad (ty : Nat) (r : List Byte) : Bool :=
  let v := fieldLE r 0 4
  match ty with
  | 1 =>
    let k := v / 2 ^ 21 % 4
    k == 3 || (if k = 2 then decide (96 ≤ v % 1024 ∨ 128 ≤ v / 2 ^ 10 % 2048) else decide (768 ≤ v % 1024 ∨ 1040 ≤ v / 2 ^ 10 % 2048))
  | 2 => !linkOk (v % 8192)
  | 6 => decide (768 ≤ v % 1024 ∨ 1040 ≤ v / 2 ^ 10 % 2048)
  | 7 => decide (4 < byteAt r 2 % 8) || (r.drop 16).any fun x =>
      (decide (8 ≤ x.toNat % 16) && decide (x.toNat % 16 < 15)) || (decide (8 ≤ x.toNat / 16) && decide (x.toNat / 16 < 15))
  | 9 => (decide (0x80 ≤ byteAt r 0) && decide (byteAt r 0 < 0xFD)) || byteAt r 2 % 4 == 3
  | _ => false

/-- The sections of a block that are used: those without a bad record (R478). -/
def blockSections (b : List Byte) : List (Nat × List Byte) :=
  (paramDirs b).filterMap fun e =>
    let bytes := cut b e.2.2.1 (e.2.1 * e.2.2.2)
    if (recsOf e.2.2.2 bytes).any fun r => recBad e.1 r.2 then none else some (e.1, bytes)

/-! ## What the sections say (R477, R481, R484) -/

/-- The 32-bit records of a section. -/
def wordsOf (b : List Byte) : List Nat := (recsOf 4 b).map fun r => fieldLE r.2 0 4

def cullsOf (b : List Byte) : List (Nat × Nat × Nat) := (wordsOf b).map fun v => (v % 1024, v / 2 ^ 10 % 2048, v / 2 ^ 21 % 4)
def repairsOf (b : List Byte) : List (Nat × Nat × Nat × Nat) :=
  (wordsOf b).map fun v => (v % 1024, v / 2 ^ 10 % 2048, v / 2 ^ 21 % 512, v / 2 ^ 30 % 4)

/-- Expected-topology entries (R484). -/
def topoOf (b : List Byte) : List TopoEnt :=
  (recsOf 8 b).map fun r => { peer := byteAt r.2 0, port := byteAt r.2 1, minw := byteAt r.2 2 % 4, cab := BitVec.ofNat 32 (fieldLE r.2 4 4) }

/-- The engine takes a section in; what a later stage uses waits there (R481). Of a CULL section that comes after stage 2 began, the entries of that
stage are not applied, and those in force stay (R476, R480). -/
def useSection (s : State) (e : Nat × List Byte) : State :=
  let s := { s with boot := { s.boot with params := { sections := put e.1 e.2 s.boot.params.sections } } }
  match e.1 with
  | 1 =>
    let kept := if s.boot.stage < 2 then [] else s.boot.culls.filter fun c => c.2.2 == 2
    let new := (cullsOf e.2).filter fun c => decide (s.boot.stage < 2) || c.2.2 != 2
    { s with boot := { s.boot with culls := kept ++ new } }
  | 2 => { s with boot := { s.boot with xmap := (wordsOf e.2).map (· % 8192) } }
  | 8 => { s with boot := { s.boot with replace := byteAt e.2 0 % 2 == 1 } }
  | 9 => { s with boot := { s.boot with topo := some (topoOf e.2) } }
  | _ => s

/-! ## Ratings (R393, R477, R483) -/

/-- The rating key of tile `i` of a parcel. -/
def parcelKey (p i : Nat) : Nat := ratingKey (256 * (p / 4) + i / 260) (260 * (p % 4) + i % 260)
/-- Whether a rating key lies in a parcel. -/
def keyIn (p k : Nat) : Bool := k / 1040 / 256 == p / 4 && k % 1040 / 260 == p % 4

/-- Gives every tile of a parcel its rating, keys kept rising. -/
def setRatings (p : Nat) (f : Nat → Nat) (s : State) : State :=
  let kept := s.pwr.rating.filter fun e => !keyIn p e.1
  let new := (List.range 66560).map fun i => (parcelKey p i, f i)
  { s with pwr := { s.pwr with rating := new.foldl (fun l e => put e.1 e.2 l) kept } }

/-- A parcel takes a trim, the temperature of its rating test, and its ratings. -/
def rateParcel (p : Fin 12) (trim hot : Nat) (f : Nat → Nat) (s : State) : State :=
  let s := updParcel p (fun x => { x with trim := min 4 trim, tested := hot }) s
  setRatings p.val f (updParcel p (fun x => if x.logicOn then { x with vmv := railMv x s.pwr.eff } else x) s)

/-- A parcel's record in a RATINGS section: TCAP_T, TRIM, rating of tile i. -/
def ratingRec (b : List Byte) (p : Nat) : List Byte := cut b (33296 * p) 33296
def cachedHot (r : List Byte) : Nat := fieldLE r 0 2
def cachedTrim (r : List Byte) : Nat := byteAt r 2 % 8
def cachedRating (r : List Byte) (i : Nat) : Nat := if i % 2 = 0 then byteAt r (16 + i / 2) % 16 else byteAt r (16 + i / 2) / 16

/-- Whether two temperatures differ by less than 10 °C (R483, R488); without a reading they are not compared. -/
def nearTemp (a b : Nat) : Bool := a == 0x8000 || decide (a < b + 40 ∧ b < a + 40)

/-- The depth in force of a crossing direction, numbered as XDEPTH numbers them: that calibrated for the point in force (R152, R477). -/
def depthNow (s : State) (i : Nat) : BitVec 3 := Config.crossingDepth i s.pwr.eff

/-! ## The records block (R487) -/

/-- The rating nibble of a tile: 0xF when not rated. -/
def ratingNib (s : State) (p i : Nat) : Nat := ((find? s.pwr.rating (parcelKey p i)).getD 15) % 16

/-- One parcel's RATINGS record. -/
def ratingBytes (s : State) (p : Fin 12) : List Byte :=
  leBytes 2 s.parcels[p].tested ++ leBytes 1 s.parcels[p].trim ++ zeros 13 ++
  (List.range 33280).flatMap fun j => leBytes 1 (ratingNib s p.val (2 * j) + 16 * ratingNib s p.val (2 * j + 1))

/-- The row repairs in force, by physical tile. -/
def repairWords (s : State) : List Nat :=
  s.tiles.flatMap fun e => match physCol s (e.1 / 1024) (e.1 % 1024) with
    | some pc => e.2.repairs.map fun r => e.1 / 1024 + 2 ^ 10 * pc + 2 ^ 21 * r.1 + 2 ^ 30 * r.2
    | none => []

/-- An expected-topology entry's 8 bytes (R484). -/
def topoBytes (e : TopoEnt) : List Byte := leBytes 1 e.peer ++ leBytes 1 e.port ++ leBytes 1 e.minw ++ zeros 1 ++ leBytes 4 e.cab.toNat

/-- The expected topology's entries; with none set every port may have any peer. -/
def topoSection (s : State) : List Byte :=
  match s.boot.topo with
  | some l => l.flatMap topoBytes
  | none => (List.replicate 24 { peer := 0xFD, port := 0xFF, minw := 0, cab := 0 }).flatMap topoBytes

/-- The FLAGS section. -/
def flagsSection (s : State) : List Byte := leBytes 1 (if s.boot.replace then 1 else 0) ++ zeros 15

/-- A port's EDGETRAIN record: its cable's SN_CRC, and equalisation the manual leaves to Buchavor. -/
def edgeRec (s : State) (n : Fin 24) : List Byte :=
  leBytes 4 (cableSn (portOf s n)) ++ padTo 252 (Config.calibration 5 n.val)

/-- The current records by section (R487); before stage 2 ends only FLAGS and TOPOLOGY. -/
def recordSections (s : State) : List (Nat × List Byte) :=
  let late := [(8, flagsSection s), (9, topoSection s)]
  if s.boot.stage < 3 then late
  else
    [(1, (s.boot.culls.map cullWord).flatMap (leBytes 4)), (2, s.boot.xmap.flatMap (leBytes 4)),
     (3, (List.range 8704).flatMap fun i => (List.range 8).flatMap fun n => leBytes 1 (Config.crossingDepth i n).toNat),
     (4, (List.range 48).flatMap fun i => padTo 64 (Config.calibration 4 i)), (5, (List.finRange 24).flatMap (edgeRec s)),
     (6, (repairWords s).flatMap (leBytes 4)), (7, (List.finRange 12).flatMap (ratingBytes s))] ++ late

/-- The directory of sections that begin at `off`. -/
def paramDirBytes (off : Nat) : List (Nat × List Byte) → List Byte
  | [] => []
  | (ty, b) :: t =>
    let sz := ((sectSpec ty).map (·.1)).getD 1
    leBytes 2 ty ++ zeros 2 ++ leBytes 4 (b.length / sz) ++ leBytes 4 off ++ leBytes 4 sz ++ paramDirBytes (off + b.length) t

/-- A parameter block of sections (R475). -/
def paramBlock (s : State) (l : List (Nat × List Byte)) : List Byte :=
  let off := 96 + 16 * l.length
  let body := paramDirBytes off l ++ l.flatMap (·.2)
  paramMagic ++ leBytes 2 1 ++ leBytes 2 l.length ++ leBytes 4 (96 + body.length) ++ zeros 4 ++ snDigest s ++ leBytes 8 s.boot.gen ++ zeros 16 ++
  sha384 body ++ body

/-- RECORDS_FETCH (R487). -/
def execRecordsFetch (d : DescRef) (s : State) : Res :=
  runMgmt 0x54 d (fun x s =>
    let b := paramBlock s (recordSections s)
    let len := fld x 24 4
    doneDesc x.ref (b.length + (if len < b.length then 2 ^ 32 else 0)) (toHost x.ref (BitVec.ofNat 64 (fld x 16 8)) (b.take len) s)) s

/-! ## PARAM_SUPPLY (R480) -/

def execParamSupply (d : DescRef) (s : State) : Res :=
  runMgmt 0x51 d (fun x s =>
    let n := fld x 24 4
    checks x.ref [tooBig (decide (paramMax < n)) 24] (fun s =>
      if n = 0 then overField x.ref 24 s else askHost x.ref .block (BitVec.ofNat 64 (fld x 16 8)) n s) s) s

/-- Whether a section may still be applied (R480): the stage that uses it has not begun; EDGETRAIN while some port has not trained. -/
def stillUsed (s : State) (ty : Nat) : Bool :=
  if s.boot.ready then false
  else match ty with
    | 1 => decide (s.boot.stage < 6)
    | 2 => decide (s.boot.stage < 2)
    | 3 => decide (s.boot.stage < 2)
    | 4 => decide (s.boot.stage < 3)
    | 5 => s.edge.ports.toList.any fun p => p.width == 0
    | 6 => decide (s.boot.stage < 3)
    | 7 => decide (s.boot.stage < 6)
    | _ => true

/-- The bytes of a PARAM_SUPPLY have come. -/
def blockIn (x : Desc) (b : List Byte) (s : State) : State :=
  if fieldLE b 8 4 ≠ b.length then overField x.ref 24 s
  else if (blockFault s b).isSome then badField x.ref 16 s
  else
    let l := (blockSections b).filter fun e => stillUsed s e.1
    let s := l.foldl useSection s
    let s := if l.isEmpty ∨ s.boot.path ≠ 0 then s else { s with boot := { s.boot with path := 1 } }
    doneDesc x.ref ((l.map fun e => 2 ^ (e.1 - 1)).sum) s

end Sys2Proof.Machine
end

