-- ==== Sys2Proof/Machine/Deferred.lean ====
section
/-! DEFINITION. The register effects that the Vintner carries out (R531), the test multiplexers among them (R525, R537), and what it does when MGMT
opens: the records and events that the always-on logic buffered, and the register writes that waited (R461, R490, R531). -/

namespace Sys2Proof.Machine

/-! ## The test multiplexers (R525, R537) -/

def tmuxCtlOff : Nat := 0x60000
def selOff (n : Nat) : Nat := 0x60100 + 8 * n

/-- Whether a sampled clock domain runs (R33, R525). -/
def tmuxDomainOn (s : State) (d : Nat) : Bool :=
  if d = 0 then true
  else if d = 4 then s.hostif.link
  else if d < 6 then s.module.running && decide (2 ≤ s.boot.stage)
  else if d < 18 then s.parcels[fin12 (d - 6)].locked
  else false

/-- The frequency of a clock domain in MHz (R33, R386); the CXL clock is the link's own, taken by its speed. -/
def domainMhz (s : State) (d : Nat) : Nat :=
  match d with
  | 0 => 100
  | 1 => 2000
  | 2 => 500
  | 3 => 1400
  | 4 => 500 * 2 ^ s.hostif.speed
  | 5 => 1600
  | _ => 15015 * 1000 / period s.pwr.eff

/-- EFF_DIV (R537): the sample clock stays within 200 MHz. -/
def effDiv (s : State) : Nat :=
  let d := s.dbg.ctl.toNat % 32
  let least := ((List.range 8).find? fun n => decide (domainMhz s d ≤ 200 * 2 ^ n)).getD 7
  max (bitsOf s.dbg.ctl.toNat 8 3) least

/-- The pins after a selection (R525, R537): samples of the signals that lie in the selected domain, low otherwise. -/
def tmuxDrive (s : State) : State :=
  let v := s.dbg.ctl.toNat
  let d := v % 32
  let act := bitsOf v 31 1 == 1 && tmuxDomainOn s d
  let bits := (List.finRange 16).map fun n =>
    if act && Config.tmuxIn s.dbg.sel[n] d && Config.tmuxSample s.dbg.sel[n] s.free then 2 ^ n.val else 0
  { s with free := s.free + 1, dbg := { s.dbg with active := act, pins := BitVec.ofNat 16 bits.sum } }

/-- Effects of TMUX.CTL and TMUX.SELn (R537). -/
def tmuxCtl (v : Nat) (s : State) : State :=
  tmuxDrive { s with dbg := { s.dbg with ctl := BitVec.ofNat 32 (bitsOf v 0 5 + 2 ^ 8 * bitsOf v 8 3 + 2 ^ 31 * bitsOf v 31 1) } }
def tmuxSel (n : Fin 16) (v : Nat) (s : State) : State :=
  tmuxDrive { s with dbg := { s.dbg with sel := s.dbg.sel.set n (BitVec.ofNat 32 v) } }

/-! ## Carried effects (R531) -/

/-- A Vintner-carried effect: now, or kept while MGMT is not OPEN, the last value only (R531). -/
def deferOr (off : Nat) (f : Nat → State → State) (v : Nat) (s : State) : State :=
  if isOpen s mgmtCode then f v s else { s with deferred := put off (BitVec.ofNat 64 v) s.deferred }

/-- The Vintner-carried effect of the register at a BAR0 offset (R531). -/
def carried (off : Nat) : Option (Nat → State → State) :=
  if off = 0x20000 then some stageReq
  else if off = tmuxCtlOff then some tmuxCtl
  else if selOff 0 ≤ off ∧ off < selOff 16 ∧ off % 8 = 0 then some (tmuxSel ⟨(off - selOff 0) / 8 % 16, Nat.mod_lt _ (by decide)⟩)
  else if off = engineIdOff then some setEngineId
  else if off = timeoutOff then some setTimeout
  else if portCtlOff 0 ≤ off ∧ off < portCtlOff 24 ∧ (off - portCtlOff 0) % 64 = 0 then some (portCtl (fin24 ((off - portCtlOff 0) / 64)))
  else if routeOff 0 ≤ off ∧ off < routeOff 128 ∧ off % 8 = 0 then some (setRoute (fin128 ((off - routeOff 0) / 8)))
  else none

/-- The RW bits of a carried register (R13, R353, R536, R537). -/
def rwMask (off : Nat) : Nat :=
  if off = 0x20000 then 0x7F
  else if off = tmuxCtlOff then 0x8000071F
  else if off = engineIdOff then 0xFF
  else if off = timeoutOff then 0xFFFFF
  else if portCtlOff 0 ≤ off ∧ off < portCtlOff 24 then 0xFFFF
  else if routeOff 0 ≤ off ∧ off < routeOff 128 then 0xFFFFFF
  else 0xFFFFFFFF

/-! ## The opening of MGMT (R461, R490, R531) -/

/-- A lees record shows the RSEQ that its causing record received (R461). -/
def patchLees (c r : Nat) (l : Lees) : Lees :=
  if fieldLE l.bytes 6 2 = c then { l with bytes := l.bytes.take 40 ++ leBytes 4 r ++ l.bytes.drop 44 } else l

/-- Logs one buffered record and gives its RSEQ to the domains whose fences it started (R441, R461). -/
def logBuffered (s : State) (e : ErrRec × List Nat) : State :=
  let r := s.log.next
  let s := logNow e.1 s
  e.2.foldl (fun s c =>
    if (dom s c).rseq = noRseq then
      let s := updDom c (fun d => { d with rseq := r }) s
      if (dom s c).lees then { s with lees := s.lees.map (patchLees c r) } else s
    else s) s

/-- The Vintner logs what the always-on logic buffered, then the attention events follow (R461). -/
def flushLog (s : State) : State :=
  let b := s.log.buf
  let n := s.log.dropped
  let ev := s.log.events
  let s := b.foldl logBuffered { s with log := { s.log with buf := [], dropped := 0, events := [] } }
  let s := if n = 0 then s else logEvent 0x12 n s
  ev.foldl (fun s b => attnApply b s) s

/-- Register writes that waited for MGMT take effect (R531). -/
def applyDeferred (s : State) : State :=
  let l := s.deferred
  l.foldl (fun s e => match carried e.1 with
    | some f => f e.2.toNat s
    | none => s) { s with deferred := [] }

/-- The Vintner takes up its work: the buffered records and events first, then the register writes that waited. -/
def takeUp (s : State) : State := applyDeferred (flushLog s)

end Sys2Proof.Machine
end

