-- ==== Sys2Proof/Machine/Boot.lean ====
section
/-! DEFINITION. Cold resets, starts and their stages, topology agreement, READY, and re-admission (R254, R424, R434, R462 to R474, R481, R483 to R490,
R494, R512, R514). -/

namespace Sys2Proof.Machine

/-! ## Cold reset (R434, R488, R512, R514, R541) -/

/-- What a warm reset retains (R488): the current records with the running firmware once READY was reached and unless the run ended in FATAL, else
the earlier set. -/
def retainedNow (s : State) : Option Retained :=
  match s.sec.fw with
  | some f => if s.boot.ready ∧ s.module.fatal.isNone then some { sections := recordSections s, fw := f, digest := sha384 f.bytes, good := true }
    else s.boot.retained.map fun r => { r with good := false }
  | none => s.boot.retained.map fun r => { r with good := false }

/-- A parcel after cold reset: its fused offset stays (R3, R392). -/
def coldParcel (p : Parcel) : Parcel := { Parcel.reset with offset := p.offset }

/-- Cold reset: every register takes its Reset value; fuses, the standby supply and the input it measures (R524), a held FATAL record and the queue of
commands stay. -/
def coldReset (warm : Bool) (s : State) : State :=
  let z := State.reset
  { z with
    pending := s.pending, free := s.free, out := s.out, memo := s.memo,
    parcels := s.parcels.map coldParcel, pwr := { z.pwr with vin := s.pwr.vin },
    hostif := { z.hostif with perst := s.hostif.perst },
    boot := { z.boot with retained := if warm then retainedNow s else none, warm := warm },
    sec := { z.sec with keys := s.sec.keys, revoked := s.sec.revoked, counter := s.sec.counter, secret := s.sec.secret },
    module := { s.module with running := false, attnLow := false, phys := 0, good := false, hrails := if warm then s.module.hrails else 0 } }

/-- ENGINE_RESET_ASSERT (R434, R469): ENGINE_RESETn goes low. -/
def execEngineResetAssert (s : State) : Res :=
  let s := { s with module := { s.module with resetn := false } }
  if s.module.running then
    let s := coldReset true s
    .next { s with module := { s.module with good := s.module.hrails == 0xF } }
  else .next s

/-- INPUT_LOSS (R512): below 45 V or above 59 V for 50 µs while the engine runs. -/
def execInputLoss (mV : Nat) (s : State) : Res :=
  if s.module.running && (decide (mV < 45000) || decide (59000 < mV)) then .next (coldReset false { s with pwr := { s.pwr with vin := mV } }) else .next s

/-- STANDBY_POWER_ON (R511). -/
def execStandbyPowerOn (s : State) : Res :=
  if s.module.standby then .next s else .next { s with module := { s.module with standby := true } }

/-- STANDBY_POWER_OFF (R514): the module is unpowered; the FATAL record and the block buffer are lost. -/
def execStandbyPowerOff (s : State) : Res :=
  let s := coldReset false s
  .next { s with module := { s.module with standby := false, fatal := none } }

/-- START (R469): ENGINE_RESETn is high and the input lies within 46 V to 58 V. Engine time starts again (R8), and a held FATAL record is discarded
(R524). -/
def execStart (mV : Nat) (s : State) : Res :=
  if s.module.running || !s.module.standby || decide (mV < 46000) || decide (58000 < mV) then .next s
  else .next { s with
    time := 0, pwr := { s.pwr with vin := mV },
    module := { s.module with running := true, resetn := true, fatal := none, attnLow := false, good := true, hrails := 0xF },
    boot := { s.boot with stage := 1, released := 0 } }

/-! ## Culls and repairs found by tests (R128, R155, R254, R466, R483) -/

/-- The logical column of a physical one, if the mapping reaches it (R155). -/
def logCol (s : State) (r pc : Nat) : Option Nat :=
  ((List.range 128).map fun i => 128 * (pc / 130) + i).find? fun c => physCol s r c == some pc

/-- A row repair found by a self-test or listed in REPAIR. -/
def addRepair (s : State) (e : Nat × Nat × Nat × Nat) : State :=
  match logCol s e.1 e.2.1 with
  | some c => updTile (tileOfNo (1024 * e.1 + c)) (fun x =>
      if x.repairs.contains (e.2.2.1, e.2.2.2) then x else { x with repairs := x.repairs ++ [(e.2.2.1, e.2.2.2)] }) s
  | none => s

/-- The cull list as the start or a re-admission maps it (R129, R155). -/
def mapCulls (s : State) : State := { s with boot := { s.boot with mapped := s.boot.culls } }

/-- Service routers bypassed by the cull list (R254). -/
def bypassCulls (s : State) : State :=
  { s with snet := { s.snet with bypass := (s.boot.culls.filter fun e => e.2.2 == 2).map fun e => (e.1, e.2.1) } }

/-- Whether bypassed service routers keep a parcel OFF: two next to each other, or one that holds a gateway (R254). -/
def badBypass (s : State) (p : Fin 12) : Bool :=
  let l := s.snet.bypass.filter fun r => routerParcel r == p.val
  l.any fun a => (l.any fun b => outside b.1 b.1 a.1 + outside b.2 b.2 a.2 == 1) || (List.range 4).any fun h => (gateways h).contains a

/-- Defective crossing links (R151): a new one is a crossing-map change. -/
def addXmap (l : List Nat) (s : State) : State :=
  let new := l.filter fun n => !s.boot.xmap.contains n
  if new.isEmpty then s else bumpGen { s with boot := { s.boot with xmap := s.boot.xmap ++ new } }

/-- Whether tile `i` of a parcel is culled. -/
def culledIn (s : State) (p i : Nat) : Bool :=
  s.boot.culls.any fun e => e.1 == 256 * (p / 4) + i / 260 && e.2.1 == 260 * (p % 4) + i % 260 && decide (e.2.2 < 2)

/-- Whether at most 64 of a parcel's cores that are not culled are rated slower than OP0 (R393). -/
def fewSlow (s : State) (p : Nat) (l : List Nat) : Bool :=
  decide ((l.zipIdx.filter fun e => decide (0 < e.1) && !culledIn s p e.2).length ≤ 64)

/-- Parcels rated in full take their results (R393): the trim is the smallest tested at which few cores are slow, or else the largest. -/
def rateFound (s : State) (e : Fin 12 × Nat × List (List Nat)) : State :=
  let n := min (e.2.2.findIdx (fewSlow s e.1.val)) (min 4 (e.2.2.length - 1))
  let l := (e.2.2[n]?).getD []
  bumpGen (rateParcel e.1 n e.2.1 (fun i => (l[i]?).getD 15) s)

/-! ## Parcels at a start (R471, R474) -/

/-- A parcel's rails come on at the point in force, under test (R464, R471). -/
def railsOn (p : Fin 12) (s : State) : State :=
  let s := parcelTo p .testing s.parcels[p].cause .opening (dom s (parcelCode p.val)).cause (dom s (parcelCode p.val)).rseq s
  let s := updParcel p (fun x =>
    let x := { x with logicOn := true, cellarOn := true, trim := 0, locked := false, stopAt := none, gone := false }
    { x with vmv := railMv x s.pwr.eff }) s
  if isOpen s (cellarCode p.val) then s else domTo (cellarCode p.val) .opened s

/-- A parcel's PLL locks to the beat reference, which is locked then (R385, R387). -/
def pllLock (p : Fin 12) (s : State) : State :=
  updParcel p (fun x => { x with locked := true }) { s with pwr := { s.pwr with bref := true } }

/-- A parcel comes into service. -/
def parcelOn (s : State) (p : Fin 12) : State :=
  let s := updParcel p (fun x => { x with st := .on, cause := 0 }) (pllLock p s)
  updDom (parcelCode p.val) (fun d => { d with st := .opened, since := s.time }) s

/-- A parcel that a stage leaves OFF (R474). -/
def parcelOff (s : State) (p : Fin 12) : State :=
  let s := updParcel p (fun x => { x with st := .off, logicOn := false, locked := false }) s
  updDom (parcelCode p.val) (fun d => { d with st := .off, readmit := true, since := s.time }) s

/-! ## The path of a start (R469, R488, R489) -/

/-- The first condition of R488 checked in stage 1 that fails. -/
def fastFault (s : State) (f : StageFound) : Option Nat :=
  if !f.inputOk then some 1
  else match s.boot.retained with
    | none => some 2
    | some r =>
      if (fwFault s r.fw.bytes r.fw.bytes.length).isSome || sha384 r.fw.bytes != r.digest then some 3
      else if !r.good then some 4
      else if s.sb.state = 2 then some 6
      else none

/-- A committed sideband block is used (R479). -/
def useBlock (s : State) : State :=
  if s.sb.state = 2 then
    let b := readBytes s.sb.bytes 0 paramMax
    let s := (blockSections b).foldl useSection s
    { s with sb := { s.sb with used := true }, boot := { s.boot with path := 1 } }
  else s

/-- The end of stage 1: MGMT is OPEN, and the path is chosen. -/
def endStage1 (f : StageFound) (s : State) : State :=
  let s := takeUp (domTo mgmtCode .opened s)
  let s := if s.boot.warm then
      (match fastFault s f with
       | some r => useBlock { s with boot := { s.boot with fallback := r } }
       | none => match s.boot.retained with
         | some r => r.sections.foldl useSection { s with boot := { s.boot with path := 2 } }
         | none => s)
    else useBlock s
  let s := { s with module := { s.module with phys := 0xFF }, boot := { s.boot with stage := 2, wait := 0 } }
  (List.finRange 12).foldl (fun s p => railsOn p s) s

/-- Whether the temperatures of the parcels that can come ON, those but `off`, allow the fast path (R488, condition 5). -/
def fastTemps (off : List (Fin 12)) (s : State) : Bool :=
  match find? s.boot.params.sections 7 with
  | none => false
  | some b => (List.finRange 12).all fun p => off.contains p || nearTemp (parcelHot s.pwr.sens p.val) (cachedHot (ratingRec b p.val))

/-- The end of stage 2: clocks run, crossings and service routers are tested, hubs and the parcels that passed are in service; one that tripped or
shorted meanwhile stays OFF (R474, R490). -/
def endStage2 (f : StageFound) (s : State) : State :=
  let s := addXmap f.xmap (addCulls (f.culls.filter fun e => e.2.2 == 2) s)
  let s := if s.boot.path = 2 ∧ ¬ fastTemps f.off s then { s with boot := { s.boot with path := 1, fallback := 5 } } else s
  let s := bypassCulls (mapCulls { s with pwr := { s.pwr with bref := true }, boot := { s.boot with stage := 3 } })
  let s := (List.finRange 12).foldl (fun s p =>
    if s.parcels[p].st ≠ .testing then s else if f.off.contains p || badBypass s p then parcelOff s p else parcelOn s p) s
  let s := (List.range 4).foldl (fun s h => if s.module.hrails.getLsbD h then domTo (hubCode h) .opened s else s) s
  let s := loadTables (wantMask s) s
  if f.ok then s else fatal 2 s

/-- The end of stage 3: memories are zero (R130), rows repaired; stage 4 opens the ports' domains. -/
def endStage3 (f : StageFound) (s : State) : State :=
  let s := { s with tiles := s.tiles.map fun e => (e.1, zeroMem .slab (zeroMem .sram e.2)), boot := { s.boot with stage := 4 } }
  let listed := match find? s.boot.params.sections 6 with
    | some b => repairsOf b
    | none => []
  let s := (listed ++ f.repairs).foldl addRepair s
  let s := if f.repairs.isEmpty then s else bumpGen s
  servePorts ((List.range 24).foldl (fun s n => domTo (edgeCode n) .opened s) s)

/-- Whether the retained firmware runs without a FW_LOAD: on the fast path, and after a fall back for temperature (R471, R489). -/
def keepsFw (s : State) : Bool := s.boot.path == 2 || s.boot.fallback == 5

/-- The end of stage 4: firmware is awaited, or the retained one starts. -/
def endStage4 (s : State) : State :=
  let s := { s with boot := { s.boot with stage := 5 } }
  if keepsFw s then { s with sec := { s.sec with fw := s.boot.retained.map (·.fw) } } else { s with boot := { s.boot with wait := 2 } }

/-- Whether the port entries of the expected topology that name a peer are all UP (R485). -/
def namedUp (s : State) (l : List TopoEnt) : Bool :=
  (List.finRange 24).all fun n => match l[n.val]? with
    | some e => !(decide (e.peer ≤ 127) || e.peer == 0xFE) || (portOf s n).st == .up
    | none => true

/-! ## Topology agreement and READY (R474, R484 to R487, R494) -/

/-- The code of a port state (R326). -/
def portCode (st : PortSt) : Nat :=
  match st with
  | .disabled => 0
  | .idRead => 1
  | .training => 2
  | .hello => 3
  | .up => 4
  | .retrain => 5
  | .failed => 6

/-- The results of the check, port E0 first. -/
def topoClasses (s : State) : List Nat :=
  (List.finRange 24).map fun n => match s.boot.topo with
    | some l => (l[n.val]?.map (portClass s n)).getD 0
    | none => 0

/-- One entry of the result table (R485). -/
def topoResult (s : State) (n : Fin 24) (c : Nat) : List Byte :=
  let p := portOf s n
  leBytes 1 c ++ leBytes 1 (portCode p.st) ++ leBytes 1 p.peerId ++ leBytes 1 p.peerPort ++ leBytes 4 p.peerCab.toNat

/-- Fuses move forward for the running firmware (R494), each with its record (R506). -/
def moveFuses (s : State) : State :=
  match s.sec.fw with
  | none => s
  | some f =>
    let s := if s.sec.counter < f.arb then secEvent 3 f.arb { s with sec := { s.sec with counter := f.arb } } else s
    (List.range 4).foldl (fun s k =>
      if f.revoke.getLsbD k && !s.sec.revoked.getLsbD k then
        secEvent 4 k { s with sec := { s.sec with revoked := s.sec.revoked ||| (1#4 <<< k) } }
      else s) s

/-- Whether the engine may be READY once topology agrees (R474). -/
def mayReady (s : State) : Bool :=
  s.sec.fw.isSome && isOpen s mgmtCode && isOpen s hostifCode && isOpen s (hubCode 0) && (List.finRange 12).any fun p => s.parcels[p].st == .on

/-- READY (R474). -/
def readyNow (s : State) : State :=
  if mayReady s && !s.boot.ready then
    moveFuses (logEvent 0x10 (s.boot.gen % 2 ^ 32) { s with boot := { s.boot with ready := true, stage := 8, wait := 0 } })
  else s

/-- Answers the waiting TOPOLOGY_SETs with the results of a check (R485). -/
def answerTopo (cs : List Nat) (s : State) : State :=
  let table := ((List.finRange 24).zip cs).flatMap fun e => topoResult s e.1 e.2
  let mask := ((List.range 24).map fun n => if (cs[n]?).getD 0 = 0 then 0 else 2 ^ n).sum
  let det := mask + 2 ^ 24 * (cs.filter (· != 0)).length + (if s.boot.ready then 2 ^ 32 else 0)
  let l := s.boot.topoWait
  l.foldl (fun s e => doneDesc e.1 det (if e.2 = 0 then s else toHost e.1 e.2 table s)) { s with boot := { s.boot with topoWait := [] } }

/-- The check of R485. -/
def classify (s : State) : State :=
  let cs := topoClasses s
  if cs.all (· == 0) then answerTopo cs (readyNow { s with boot := { s.boot with wait := 0 } })
  else answerTopo cs (attn attnTopology { s with boot := { s.boot with wait := 5 } })

/-- The check runs once the named ports are UP, else it waits for them (R485). -/
def tryTopo (s : State) : State :=
  match s.boot.topo with
  | none => { s with boot := { s.boot with wait := 3 } }
  | some l =>
    if namedUp s l then classify s
    else if s.boot.wait = 4 then s
    else { s with boot := { s.boot with wait := 4, topoAt := s.time } }

/-- TOPOLOGY_WAIT_TIMEOUT (R485): 2 s of waiting for ports. -/
def execTopologyWaitTimeout (s : State) : Res :=
  if s.boot.stage = 7 ∧ s.boot.wait = 4 ∧ s.boot.topoAt + ms 2000 ≤ s.time then .next (classify s) else .next s

/-- TOPOLOGY_SET (R484). -/
def execTopologySet (d : DescRef) (s : State) : Res :=
  runMgmt 0x52 d (fun x s => askHost x.ref .topology (BitVec.ofNat 64 (fld x 16 8)) 192 s) s

/-- After READY, ports that are UP and disagree go to FAILED (R486). -/
def rejectPorts (s : State) : State := (List.finRange 24).foldl (fun s n => rejectPort n s) s

/-- The table of a TOPOLOGY_SET has come (R484 to R487). -/
def topologyIn (x : Desc) (b : List Byte) (s : State) : State :=
  if (recsOf 8 b).any fun r => recBad 9 r.2 then badField x.ref 16 s
  else
    let w := (x.ref, BitVec.ofNat 64 (fld x 24 8))
    let s := bumpGen { s with boot := { s.boot with topo := some (topoOf b), topoWait := s.boot.topoWait ++ [w] } }
    if s.boot.ready then answerTopo (topoClasses s) (rejectPorts s)
    else if s.boot.stage = 7 then tryTopo { s with boot := { s.boot with wait := 0 } }
    else s

/-! ## The later stages (R471, R481, R483) -/

/-- Every parcel takes its cached ratings, or those of the full test. -/
def takeRatings (all : Bool) (f : StageFound) (s : State) : State :=
  let s := match find? s.boot.params.sections 7 with
    | none => s
    | some b => (List.finRange 12).foldl (fun s p =>
        let r := ratingRec b p.val
        if !(f.ratings.any fun e => e.1 == p) && (all || nearTemp (parcelHot s.pwr.sens p.val) (cachedHot r)) then
          rateParcel p (cachedTrim r) (cachedHot r) (cachedRating r) s
        else s) s
  f.ratings.foldl rateFound s

/-- The headland routers among `here` run (R160); a router in a row gap or in the cluster of a bypassed service router keeps EN = 0 (R138, R254).
R160 gives phase 0 only. Here the other three words, which no period reaches, have the same length (DESIGN CHOICE, log 164). -/
def headlands (here : TileAt → Bool) (s : State) : State :=
  let on (x : Tile) (en : Bool) : Tile := { x with router := { x.router with
    owner := 8, en := en, phases := Vector.replicate 4 { base := 0, len := 64, next := 0, reps := 0 } } }
  let l := ((List.range 4).flatMap fun h => (List.range 512).map fun i => tileOfNo (headCore h i)).filter here
  l.foldl (fun s t => updTile t (fun x => on x (!inGap s t && !bypassed s t)) s) s

/-- The reserved areas are drawn (R132). -/
def reserveAll (s : State) : State :=
  reserveArea .tables 512 [] (reserveArea .log 4 [] (reserveArea .lees 256 [] s))

/-- What placements need: the mapping, headlands, reserved areas and buffers. -/
def poolReady (s : State) : State := redivideAll (reserveAll (headlands (fun _ => true) (mapCulls s)))

/-- The topology stage begins (R485). -/
def beginStage7 (s : State) : State := tryTopo { s with boot := { s.boot with stage := 7, wait := 0 } }

/-- The end of stage 5: on the fast path the start tests are skipped (R471, R488). -/
def endStage5 (f : StageFound) (s : State) : State :=
  if s.boot.path = 2 then beginStage7 (poolReady (takeRatings true { f with ratings := [] } s))
  else { s with boot := { s.boot with stage := 6 } }

/-- The end of stage 6 (R483). -/
def endStage6 (f : StageFound) (s : State) : State :=
  let s := f.off.foldl parcelOff (addCulls (f.culls.filter fun e => decide (e.2.2 < 2)) s)
  let s := takeRatings false f s
  let s := loadTables (wantMask s) s
  beginStage7 (poolReady (servePorts s))

/-- STAGE_END (R471 to R474, R479, R483, R489): the present stage ends. A stage does not end while MGMT is not OPEN (R490), nor stage 6 during a
forced state or a coolant flow stop (R483). -/
def execStageEnd (f : StageFound) (s : State) : Res :=
  if !s.module.running || s.module.fatal.isSome then .next s
  else match s.boot.stage with
    | 1 => if s.sb.state = 1 then .next (if s.boot.wait = 1 then s else { s with boot := { s.boot with wait := 1, topoAt := s.time } })
      else .next (endStage1 f s)
    | n =>
      if !isOpen s mgmtCode then .next s
      else match n with
        | 2 => .next (endStage2 f s)
        | 3 => .next (endStage3 f s)
        | 4 => .next (endStage4 s)
        | 5 => .next (if s.sec.fw.isSome then endStage5 f s else s)
        | 6 => .next (if s.pwr.flow.isSome || forcedNow s then s else endStage6 f s)
        | 7 => .next (if s.boot.wait = 5 then s else tryTopo s)
        | _ => .next s

/-- PB_WAIT_TIMEOUT (R479): a block still being received 30 s after stage 1's work is abandoned; stage 1 then ends without it. -/
def execPbWaitTimeout (s : State) : Res :=
  if s.boot.stage = 1 ∧ s.boot.wait = 1 ∧ s.sb.state = 1 ∧ s.boot.topoAt + ms 30000 ≤ s.time then
    .next { s with sb := { s.sb with bytes := [], state := 0, reason := 0 }, boot := { s.boot with wait := 0 } }
  else .next s

/-! ## Re-admission (R462 to R466) -/

/-- The operands of READMIT (R462). -/
def readmitChecks (x : Desc) : List Check :=
  let kind := fld x 16 1
  let i := fld x 17 1
  [bad (decide (kind < 1 ∨ 3 < kind)) 16,
   bad (if kind = 1 then decide (12 ≤ i) else if kind = 2 then decide (i = 0 ∨ 4 ≤ i) else decide (8 ≤ i)) 17]

/-- Whether the unit is in service (R463). -/
def inService (s : State) (kind i : Nat) : Bool :=
  match kind with
  | 1 => s.parcels[fin12 i].st == .on
  | 2 => isOpen s (hubCode i)
  | _ => s.module.phys.getLsbD i

/-- The readings of a unit's sensors. -/
def unitTemp (s : State) (kind i : Nat) : Nat :=
  match kind with
  | 1 => parcelHot s.pwr.sens i
  | 2 => dieTemp s i
  | _ => dieTemp s (4 + i)

/-- Whether a unit's close is still under way, or its parcel waits in retention (R441). -/
def stillClosing (s : State) (kind i : Nat) : Bool :=
  match kind with
  | 1 => (dom s (parcelCode i)).st == .closing || (dom s (parcelCode i)).st == .closed
  | 2 => (dom s (hubCode i)).st == .closing || (dom s (hubCode i)).st == .closed
  | _ => false

/-- A re-admission starts its first stage (R464, R465). -/
def readmitStart (x : Desc) (s : State) : State :=
  let kind := fld x 16 1
  let i := fld x 17 1
  let r : Readmit := { desc := x.ref, kind := kind, index := i, retest := fld x 18 1 % 2 == 1, stage := 1, culled := 0, pooled := 0 }
  let s := { s with boot := { s.boot with readmits := s.boot.readmits ++ [r] } }
  match kind with
  | 1 => railsOn (fin12 i) s
  | 2 => domTo (hubCode i) .opening { s with module := { s.module with hrails := s.module.hrails ||| (1#4 <<< i) } }
  | _ => s

/-- READMIT (R462, R463): decided at once for a unit in service or too hot; else it waits for its turn with placements. -/
def execReadmit (d : DescRef) (s : State) : Res :=
  let ready (x : Desc) : Bool :=
    let kind := fld x 16 1
    let i := fld x 17 1
    let quick := (readmitChecks x).any (·.1) || inService s kind i || (unitTemp s kind i != 0x8000 && decide (360 ≤ unitTemp s kind i))
    (quick && isOpen s mgmtCode) ||
      (isOpen s mgmtCode && s.pwr.flow.isNone && !s.placing.any (·.ready) && s.boot.readmits.isEmpty && !stillClosing s kind i)
  match descOf s d with
  | none => .next s
  | some x =>
    if !ready x then .next s
    else runDesc 0x44 d (fun x s => checks x.ref (readmitChecks x) (fun s =>
      let kind := fld x 16 1
      let i := fld x 17 1
      let t := unitTemp s kind i
      if inService s kind i then doneDesc x.ref 2 s
      else if t != 0x8000 ∧ 360 ≤ t then overField x.ref 16 s
      else readmitStart x s) s) s

/-- The completion of a re-admission (R463). -/
def readmitEnd (r : Readmit) (inServ : Bool) (stage : Nat) (s : State) : State :=
  let s := { s with boot := { s.boot with readmits := s.boot.readmits.filter fun q => q.desc != r.desc } }
  doneDesc r.desc ((if inServ then 1 else 0) + 16 * stage + 2 ^ 16 * (r.culled % 65536) + 2 ^ 32 * r.pooled) s

/-- A re-admission's test fails: the unit stays OFF, its cause unchanged (R438, R463, R464). -/
def readmitFail (r : Readmit) (s : State) : State :=
  let s := match r.kind with
    | 1 =>
      let p := fin12 r.index
      if s.parcels[p].st = .testing then
        let f := Config.freeWord s.free
        let s := logRec (parcelRec { s with free := s.free + 1 } (f.toNat % 256) 2 p) { s with free := s.free + 1 }
        let s := updParcel p (fun x => { x with st := .off, logicOn := false, locked := false }) s
        domTo (parcelCode p.val) .off (loseMem p true false s)
      else s
    | 2 =>
    let d := dom s (hubCode r.index)
    updDom (hubCode r.index) (fun x => { x with cause := d.cause, rseq := d.rseq })
      (failDom (hubCode r.index) { s with module := { s.module with hrails := s.module.hrails &&& ~~~(1#4 <<< r.index) } })
    | _ => s
  readmitEnd r false r.stage s

/-- Tiles that passed a retest leave the cull list (R466). -/
def uncull (l : List (Nat × Nat × Nat)) (s : State) : State :=
  if s.boot.culls.any l.contains then bumpGen { s with boot := { s.boot with culls := s.boot.culls.filter fun e => !l.contains e } } else s

/-- Whether a cull entry lies in a parcel. -/
def cullIn (p : Fin 12) (e : Nat × Nat × Nat) : Bool :=
  if e.2.2 = 2 then parcelNo (8 * e.1) (8 * e.2.1) == p.val else e.1 / 256 == p.val / 4 && e.2.1 / 260 == p.val % 4

/-- The tiles that a parcel brings to the pool: its logical tiles outside row gaps and bypassed clusters. -/
def poolOf (s : State) (p : Fin 12) : Nat :=
  let rows := (List.range 256).flatMap fun r => [physCol s (256 * (p.val / 4) + r) (256 * (p.val % 4)), physCol s (256 * (p.val / 4) + r) (256 * (p.val % 4) + 128)]
  128 * (rows.filter (·.isSome)).length - 64 * (s.boot.culls.filter fun e => e.2.2 == 2 && cullIn p e).length

/-- A slab that its cellar rail kept for a reserved area or the staging window is scrubbed before use (R131). -/
def scrubSlab (s : State) (t : TileAt) : State :=
  let s := eccRead .engine t .slab 0 65536 s
  let bad := eccBad (tileAt s t) .slab 0 65536
  let s := updTile t (writebackAll .slab) s
  if bad then copyBad t s else s

/-- The memories of a re-admitted parcel (R131): local SRAM zero; slabs zero but for reserved areas and staging slabs, which are scrubbed. -/
def zeroParcel (p : Fin 12) (s : State) : State :=
  let here := (s.tiles.filter fun e => parcelOfNo e.1 == p.val).map fun e => tileOfNo e.1
  let s := here.foldl (fun s t => updTile t (fun x => zeroMem .sram (if inStage s t || inReserved s t then x else zeroMem .slab x)) s) s
  (here.filter fun t => inStage s t || inReserved s t).foldl scrubSlab s

/-- A parcel is back in service: a table change makes it reachable (R464 stage 7). -/
def readmitParcel (r : Readmit) (s : State) : State :=
  let p := fin12 r.index
  let s := { s with boot := { s.boot with mapped := (s.boot.mapped.filter fun e => !cullIn p e) ++ s.boot.culls.filter (cullIn p) } }
  let s := headlands (slabIn p) (parcelOn s p)
  let s := slotsBack (hubsBack (servePorts (tableChange (wantMask s) (loadRouters p (wantMask s) s))))
  let s := redivideAll (evaluate s)
  readmitEnd { r with pooled := poolOf s p } true 0 (startColls (answer (parcelCode p.val) s))

/-- What a stage of a parcel's test leaves (R464). -/
def readmitWork (r : Readmit) (f : StageFound) (s : State) : State :=
  let p := fin12 r.index
  match r.stage with
  | 2 => pllLock p (addXmap f.xmap s)
  | 3 => bypassCulls s
  | 4 => f.repairs.foldl addRepair (zeroParcel p (if f.repairs.isEmpty then s else bumpGen s))
  | 6 => (f.ratings.filter fun e => e.1 == p).foldl rateFound s
  | _ => s

/-- Keeps a re-admission's progress. -/
def setReadmit (r : Readmit) (s : State) : State :=
  { s with boot := { s.boot with readmits := s.boot.readmits.map fun q => if q.desc = r.desc then r else q } }

/-- READMIT_STAGE_END (R464, R465): a parcel's test finds culls in that parcel alone, and its last test stage tells which retested tiles passed them
all (R462, R466). -/
def execReadmitStageEnd (f : StageFound) (s : State) : Res :=
  match s.boot.readmits with
  | [] => .next s
  | r :: _ =>
    if !isOpen s mgmtCode || s.pwr.flow.isSome then .next s
    else
      let mine (e : Nat × Nat × Nat) : Bool := r.kind == 1 && cullIn (fin12 r.index) e
      let found := f.culls.filter mine
      let new := (found.filter fun e => !s.boot.culls.contains e).length
      let s := addCulls found s
      let s := if r.retest && r.stage == 6 then uncull (f.passed.filter fun e => mine e && decide (e.2.2 < 2)) s else s
      let r := { r with culled := r.culled + new }
      let gone := r.kind == 1 && s.parcels[fin12 r.index].st != .testing
      if !f.ok || gone then .next (readmitFail r s)
      else match r.kind with
        | 1 =>
          let s := readmitWork r f s
          .next (if badBypass s (fin12 r.index) then readmitFail r s
            else if r.stage = 7 then readmitParcel r s else setReadmit { r with stage := r.stage + 1 } s)
        | 2 =>
          let s := updDom (hubCode r.index) (fun d => { d with readmit := false }) s
          let s := openDom (hubCode r.index) (tableChange (wantMask s) s)
          .next (readmitEnd r true 0 (hubsBack s))
        | _ =>
          let s := { s with module := { s.module with phys := s.module.phys ||| (1#8 <<< r.index) } }
          let ps := [0, 1, 2].map fun i => fin24 (3 * r.index + i)
          let s := ps.foldl (fun s n =>
            if (portOf s n).st = .failed ∧ (portOf s n).en ∧ portServed s n then idRead n s
            else if (portOf s n).st = .failed ∧ ¬ (portOf s n).en then disablePort n s
            else servePort s n) s
          .next (readmitEnd r true 0 s)

end Sys2Proof.Machine
end

