-- ==== Sys2Proof/Machine/Registers.lean ====
section
/-! DEFINITION. The setup registers in BAR0 and the doorbell pages as the host writes and reads them (R276, R294, R295, R353, R389, R403, R410, R411,
R507, R529 to R541), the test multiplexers (R525, R537), and the reopening of MGMT (R450, R461, R495, R531). -/

namespace Sys2Proof.Machine

/-! ## Power registers (R389, R403, R410) -/

/-- A write of CEIL (R389). -/
def setCeil (c : Nat) (s : State) : State := evaluate { s with pwr := { s.pwr with ceil := c % 8 } }

/-- A write of FLOW_EN (R403): 0 during a flow stop starts the second after which it resumes, 1 before that drops it. -/
def setFlowEn (en : Bool) (s : State) : State :=
  let f := s.pwr.flow.map fun f =>
    if en then { f with wentHi := none } else if s.pwr.flowEn then { f with wentHi := some s.time } else f
  { s with pwr := { s.pwr with flowEn := en, flow := f } }

/-- CEIL and FLOW_EN (R389, R403). -/
def execCeil (c : BitVec 3) (s : State) : Res := onLink (setCeil c.toNat) s
def execFlowEn (en : Bool) (s : State) : Res := onLink (setFlowEn en) s

/-- A write of OP_CTL. -/
def opCtl (v : Nat) (s : State) : State := setCeil (bitsOf v 0 3) (setFlowEn (bitsOf v 8 1 == 1) s)

/-- ALERT_STAT (R410): a 1 clears its latch. -/
def alertStat (v : Nat) (s : State) : State := { s with pwr := { s.pwr with latch := s.pwr.latch &&& ~~~(BitVec.ofNat 48 v) } }

/-! ## The test multiplexers (R525, R537) -/

/-- TMUX.CTL and TMUX.SELn, written after a TMUX-scope unlock only (R502, R537). -/
def execTmuxCtl (v : Word) (s : State) : Res := if s.sec.tmux then viaMgmt tmuxCtlOff v.toNat (tmuxCtl v.toNat) s else .next s
def execSel (n : Fin 16) (v : Word) (s : State) : Res := if s.sec.tmux then viaMgmt (selOff n.val) v.toNat (tmuxSel n v.toNat) s else .next s

/-! ## Writes (R294, R296, R314, R529 to R537) -/

/-- A 64-bit value with the words a write brings. -/
def mergeWords (old : Nat) (lo hi : Option Nat) : Nat := lo.getD (old % 2 ^ 32) + 2 ^ 32 * hi.getD (old / 2 ^ 32 % 2 ^ 32)

/-- SQp_BASE and CQq_BASE, kept while the ring is enabled (R296). -/
def sqBase (p : Fin 64) (lo hi : Option Nat) (s : State) : State :=
  let q := sqOf s p
  if q.en then s else setSq p { q with base := BitVec.ofNat 58 (mergeWords (q.base.toNat * 64) lo hi / 64) } s
def cqBase (p : Fin 64) (lo hi : Option Nat) (s : State) : State :=
  let q := cqOf s p
  if q.en then s else setCq p { q with base := BitVec.ofNat 58 (mergeWords (q.base.toNat * 64) lo hi / 64) } s

/-- Sets the Vector Control word of an MSI-X entry: a mask bit that clears sends a pending signal (R314, R533). -/
def msixMask (v : Fin 64) (m : Bool) (s : State) : State :=
  if m then { s with hostif := { s.hostif with msix := s.hostif.msix.set v { s.hostif.msix[v] with mask := true } } } else unmask (.vector v) s

/-- A write into the MSI-X table (R533): address, data, Vector Control. -/
def msixWrite (at_ : Nat) (lo hi : Option Nat) (s : State) : State :=
  let v := fin64 (at_ / 16)
  let e := s.hostif.msix[v]
  let set (e : MsixEnt) : State := { s with hostif := { s.hostif with msix := s.hostif.msix.set v e } }
  if at_ % 16 = 0 then set { e with addr := BitVec.ofNat 64 (mergeWords e.addr.toNat lo hi) }
  else
    let s := match lo with
      | some d => set { e with data := BitVec.ofNat 32 d }
      | none => s
    match hi with
    | some c => msixMask v (c % 2 == 1) s
    | none => s

/-- The effect of the low word written to a 32-bit register. -/
def lowWord (lo : Option Nat) (f : Nat → State → State) (s : State) : State :=
  match lo with
  | some v => f v s
  | none => s

/-- Whether a carried register may be written now: the staging window only in CXL mode (R290), TMUX only after its unlock (R537). -/
def mayCarry (s : State) (off : Nat) : Bool :=
  if off / 0x10000 = 2 then s.hostif.cxl else if off / 0x10000 = 6 then s.sec.tmux else true

/-- A write to the HOSTIF block (R532, R533). -/
def hostifPut (a : Nat) (lo hi : Option Nat) (s : State) : State :=
  if 0x1000 ≤ a ∧ a < 0x1400 then msixWrite (a - 0x1000) lo hi s
  else match a with
    | 0x00 => lowWord lo attnClear s
    | 0x08 => lowWord lo (fun v s => { s with hostif := { s.hostif with vec := bitsOf v 0 6, vecEn := bitsOf v 8 1 == 1 } }) s
    | 0x20 => lowWord lo heldDrop s
    | 0x28 => lowWord lo throttleSet s
    | _ => s

/-- A write to the RING block (R534, R535). -/
def ringPut (a : Nat) (lo hi : Option Nat) (s : State) : State :=
  let p := fin64 (a / 32)
  if a < 0x800 then (match a % 32 with
    | 0 => sqBase p lo hi s
    | 8 => lowWord lo (sqCfg p) s
    | _ => s)
  else if a < 0x1000 then (match a % 32 with
    | 0 => cqBase p lo hi s
    | 8 => lowWord lo (cqCfg p) s
    | _ => s)
  else s

/-- A write to the PWR block (R410). -/
def pwrPut (a : Nat) (lo hi : Option Nat) (s : State) : State :=
  if 0x100 ≤ a ∧ a < 0x160 then
    lowWord lo (fun v s => { s with pwr := { s.pwr with ilim := s.pwr.ilim.set (fin12 ((a - 0x100) / 8)) (v % 4096) } }) s
  else match a with
    | 0x00 => lowWord lo opCtl s
    | 0x18 => lowWord lo (fun v s => { s with pwr := { s.pwr with pinLim := v % 4096 } }) s
    | 0x28 => alertStat (lo.getD 0 + 2 ^ 32 * hi.getD 0) s
    | 0x38 => lowWord lo (fun v s => { s with pwr := { s.pwr with sensSel := v % 1024 } }) s
    | _ => s

/-- A write of one or both words of the 8-byte place at `base` in BAR0; what lists no writable register is ignored (R530). -/
def bar0Put (base : Nat) (lo hi : Option Nat) (s : State) : State :=
  match base / 0x10000 with
  | 0 => hostifPut (base % 0x10000) lo hi s
  | 1 => ringPut (base % 0x10000) lo hi s
  | 3 => pwrPut (base % 0x10000) lo hi s
  | _ => match carried base, lo with
    | some f, some v => if mayCarry s base then deferOr base f v s else s
    | _, _ => s

/-- REGISTER_WRITE (R294, R530, R531): 4 and 8 bytes, aligned to their size; any other write is ignored. -/
def execRegisterWrite (off : Nat) (size : Nat) (v : DWord) (s : State) : Res :=
  onLink (fun s =>
    if size = 8 ∧ off % 8 = 0 then bar0Put off (some (v.toNat % 2 ^ 32)) (some (v.toNat / 2 ^ 32)) s
    else if size = 4 ∧ off % 8 = 0 then bar0Put off (some (v.toNat % 2 ^ 32)) none s
    else if size = 4 ∧ off % 8 = 4 then bar0Put (off - 4) none (some (v.toNat % 2 ^ 32)) s
    else s) s

/-! ## Reads (R276, R353, R410, R411, R473, R507, R529 to R539) -/

def bit (b : Bool) : Nat := if b then 1 else 0

/-- BOOT_STAT (R473). -/
def bootStat (s : State) : Nat :=
  let b := s.boot
  b.stage + 2 ^ 4 * bit b.ready + 2 ^ 5 * b.path + 2 ^ 8 * b.wait + 2 ^ 16 * b.fallback

/-- SNET_STATUS (R276). -/
def snetStatus (s : State) : Nat :=
  ((List.finRange 4).map fun h => 2 ^ (3 * h.val) * s.snet.level[h] + 2 ^ (16 + h.val) * bit (reach s h.val)).sum

def hostifRead (s : State) (a : Nat) : Nat :=
  let h := s.hostif
  if 0x1000 ≤ a ∧ a < 0x1400 then
    let e := h.msix[fin64 ((a - 0x1000) / 16)]
    if a % 16 = 0 then e.addr.toNat else e.data.toNat + 2 ^ 32 * bit e.mask
  else match a with
    | 0x00 => attnWord s
    | 0x08 => h.vec + 2 ^ 8 * bit h.vecEn
    | 0x10 => bootStat s
    | 0x18 => (holdEnded s).hostif.held.length
    | 0x28 => s.snet.thresh + 2 ^ 8 * s.snet.window + 2 ^ 16 * s.snet.floor + 2 ^ 31 * bit s.snet.en
    | 0x30 => snetStatus s
    | 0x38 => bit h.cxl + 2 * h.width + 8 * h.speed + 32 * bit h.hdm
    | 0x1800 => h.pba.toNat
    | _ => 0

def ringRead (s : State) (a : Nat) : Nat :=
  let i := fin64 (a / 32)
  if a < 0x800 then
    let q := sqOf s i
    match a % 32 with
    | 0 => q.base.toNat * 64
    | 8 => q.log2 + 2 ^ 8 * q.cq.val + 2 ^ 16 * q.weight + 2 ^ 31 * bit q.en
    | 16 => q.head + 2 ^ 16 * q.tail + 2 ^ 32 * q.seq.toNat
    | _ => 0
  else if a < 0x1000 then
    let q := cqOf s i
    match a % 32 with
    | 0 => q.base.toNat * 64
    | 8 => q.log2 + 2 ^ 8 * q.vec + 2 ^ 14 * bit q.nudgeEn + 2 ^ 31 * bit q.en
    | 16 => q.head + 2 ^ 16 * q.widx + 2 ^ 32 * bit q.phase
    | _ => 0
  else 0

/-- STAGE (R536); in PCIe mode it reads 0 (R290). -/
def stageRead (s : State) (a : Nat) : Nat :=
  if !s.hostif.cxl then 0
  else match a with
    | 0 => s.stage.req
    | 8 => s.stage.granules.length + 2 ^ 7 * bit s.stage.busy +
        2 ^ 8 * min 127 (((List.range 786432).filter fun n => slabFree s (tileOfNo n)).length / 4096)
    | _ => 0

/-- A parcel's logic-rail voltage in mV: none while the rail is off, and the retention voltage in a flow stop (R403, R410). -/
def railNow (x : Parcel) : Nat := if !x.logicOn then 0 else if x.st = .retained then 550 else x.vmv

/-- PARCEL_Pp (R410). -/
def parcelRead (s : State) (p : Fin 12) : Nat :=
  let x := s.parcels[p]
  let st := match x.st with
    | .on => 0
    | .evacuating => 1
    | .off => 2
    | .retained => 3
    | .testing => 4
  st + 2 ^ 3 * x.cause + 2 ^ 8 * x.trim + 2 ^ 16 * railNow x + 2 ^ 32 * (x.tmax % 1024) + 2 ^ 48 * (x.iMeas % 4096)

def pwrRead (s : State) (a : Nat) : Nat :=
  let w := s.pwr
  if 0x100 ≤ a ∧ a < 0x160 then w.ilim[fin12 ((a - 0x100) / 8)]
  else if 0x200 ≤ a ∧ a < 0x260 then parcelRead s (fin12 ((a - 0x200) / 8))
  else match a with
    | 0x00 => w.ceil + 2 ^ 8 * bit w.flowEn
    | 0x08 => w.eff + 2 ^ 4 * w.tcap + 2 ^ 8 * prefNow s + 2 ^ 12 * rfloor s + 2 ^ 15 * bit w.change.isSome + 2 ^ 16 * bit (forcedNow s) +
        2 ^ 17 * bit w.flow.isSome
    | 0x10 => hForce s + 2 ^ 8 * w.hLim + 2 ^ 16 * w.hTherm + 2 ^ 24 * bit (!w.fast.isEmpty)
    | 0x18 => w.pinLim
    | 0x20 => w.pin % 65536 + 2 ^ 16 * (w.vin % 65536)
    | 0x28 => w.latch.toNat
    | 0x30 => w.iso.toNat
    | 0x38 => w.sensSel
    | 0x40 =>
      let t := tempOf w.sens.field w.sensSel
      if t = 0x8000 ∨ 768 ≤ w.sensSel then 0 else t % 1024 + 2 ^ 16
    | _ => 0

/-- CLK (R411). -/
def clkRead (s : State) (a : Nat) : Nat :=
  match a with
  | 0x00 => s.beats.cbn
  | 0x08 => s.beats.wrb
  | 0x10 => ((List.finRange 12).map fun p => 2 ^ p.val * bit (s.parcels[p]).locked).sum + 2 ^ 12 * bit s.pwr.bref +
      2 ^ 13 * 15 * bit (decide (2 ≤ s.boot.stage))
  | _ => 0

/-- SEC (R507). -/
def secRead (s : State) (a : Nat) : Nat :=
  let on := decide (1 ≤ s.boot.stage)
  match a with
  | 0x00 => (if on then s.sec.counter + 2 ^ 8 * slotBits s + 2 ^ 12 * s.sec.revoked.toNat else 0) + 2 ^ 16 * bit (debugOn s) +
      2 ^ 17 * bit (decide (s.sec.ncert ≠ 0)) + 2 ^ 18 * bit s.sec.staged.isSome
  | 0x08 => match s.sec.fw with
    | some f => f.ver.toNat + 2 ^ 32 * f.arb
    | none => 0
  | _ => 0

/-- TMUX (R537): Reset values until its unlock. -/
def tmuxRead (s : State) (a : Nat) : Nat :=
  if !s.sec.tmux then 0
  else if 0x100 ≤ a ∧ a < 0x180 then (s.dbg.sel[(⟨(a - 0x100) / 8 % 16, Nat.mod_lt _ (by decide)⟩ : Fin 16)]).toNat
  else match a with
    | 0 => s.dbg.ctl.toNat
    | 8 => effDiv s + 2 ^ 8 * bit s.dbg.active
    | _ => 0

/-- Row gaps now: field-rows without 128 columns (R155). -/
def rowGaps (s : State) : Nat :=
  ((List.range 768).map fun r => ((List.range 8).filter fun f => (physCol s r (128 * f)).isNone).length).sum

/-- Whether a placement started now could use a tile's core (R233). -/
def placeable (s : State) (n : Nat) : Bool :=
  let t := tileOfNo n
  slabFree s t &&
  (match physCol s t.row.val t.col.val with
   | some pc => (match find? s.pwr.rating (ratingKey t.row.val pc) with
     | some v => decide (v ≤ s.pwr.ceil)
     | none => true)
   | none => false)

/-- IDENT (R539); fused fields read from stage 1 on. -/
def identRead (s : State) (a : Nat) : Nat :=
  let fused (n : Nat) : Nat := if 1 ≤ s.boot.stage then n else 0
  match a with
  | 0x00 => fused (s.module.srev.toNat + 2 ^ 16 * s.module.mrev.toNat) + (match s.sec.fw with
    | some f => 2 ^ 32 * (Config.cuveMinor f.ver).toNat
    | none => 0)
  | 0x08 => fused (fieldLE s.module.sn.toList 0 8)
  | 0x10 => fused (fieldLE s.module.sn.toList 8 8)
  | 0x18 => match s.sec.fw with
    | some f => (Config.jarborVer f.ver).toNat
    | none => 0
  | 0x20 => rowGaps s + 2 ^ 16 * s.boot.xmap.length + 2 ^ 32 * (s.boot.culls.filter fun e => decide (e.2.2 < 2)).length
  | 0x28 => ((List.range 786432).filter (placeable s)).length +
      2 ^ 32 * ((s.reserved.map fun r => (r.copies.map fun c => c.1.length).sum).sum)
  | 0x30 => ((List.range 4).map fun h => 2 ^ (8 * h) * ((List.range 64).filter (spanUp s h)).length).sum
  | 0x38 => bit s.boot.replace
  | 0x40 => s.boot.gen
  | _ => 0

/-- EDGE (R353). -/
def edgeRead (s : State) (a : Nat) : Nat :=
  if 0x1000 ≤ a ∧ a < 0x1400 then (s.edge.routes[fin128 ((a - 0x1000) / 8)]).toNat
  else if 0x100 ≤ a ∧ a < 0x700 then
    let n := fin24 ((a - 0x100) / 64)
    let p := portOf s n
    match (a - 0x100) % 64 with
    | 0x00 => bit p.en + 2 * bit p.noid + 4 * p.minw + 16 * bit p.tsync + 32 * p.pcmax + 256 * p.tpeer
    | 0x08 => portCode p.st + 8 * (if p.width = 0 then 0 else 1 + widthCode p.width) + 32 * bit p.rev + 64 * bit p.idok + 128 * bit p.switched +
        2 ^ 8 * p.peerId + 2 ^ 16 * p.peerPort + 2 ^ 24 * p.retrains
    | 0x10 => p.corr + 2 ^ 32 * p.uncorr
    | 0x18 => p.replays + 2 ^ 32 * p.crcErr
    | 0x20 => p.toff.toNat
    | 0x28 => p.tdly.toNat
    | 0x30 => if p.idok then byteAt p.idpage 1 + 2 ^ 8 * byteAt p.idpage 2 + 2 ^ 16 * fieldLE p.idpage 4 2 + 2 ^ 32 * cableSn p else 0
    | _ => 0
  else match a with
    | 0x00 => s.edge.engineId
    | 0x08 => s.edge.timeout
    | _ => 0

/-- The 8 bytes at an aligned BAR0 offset (R529, R530). -/
def bar0Word (s : State) (base : Nat) : Nat :=
  let a := base % 0x10000
  match base / 0x10000 with
  | 0 => hostifRead s a
  | 1 => ringRead s a
  | 2 => stageRead s a
  | 3 => pwrRead s a
  | 4 => clkRead s a
  | 5 => secRead s a
  | 6 => tmuxRead s a
  | 7 => if a = 0 then s.sb.state + 4 * s.sb.reason + 2 ^ 8 * bit s.sb.used else 0
  | 8 => identRead s a
  | 9 => edgeRead s a
  | _ => 0

/-- The state that register reads show (R531): the present one, or while MGMT is not OPEN the one it closed in. -/
def shown (s : State) : State :=
  match s.atClose with
  | none => s
  | some r => { s with
    beats := r.beats, tiles := r.tiles, parcels := r.parcels, pwr := r.pwr, progs := r.progs, snet := r.snet, hostif := r.hostif,
    stage := r.stage, reserved := r.reserved, edge := r.edge, doms := r.doms, boot := r.boot, sec := r.sec, sb := r.sb, dbg := r.dbg,
    module := r.module }

/-- A register's place with the value a write stored before MGMT first opened: its effect waits (R13, R531). -/
def storedWord (s : State) (base : Nat) : Nat :=
  let w := bar0Word (shown s) base
  match s.atClose, find? s.deferred base with
  | none, some v => w - w % 2 ^ 32 + (v.toNat % 2 ^ 32 &&& rwMask base)
  | _, _ => w

/-- What a BAR0 read returns: none while the host interface is not OPEN (R541), all ones for a size or alignment that R294 does not list. -/
def bar0Read (s : State) (off size : Nat) : Option Nat :=
  if !isOpen s hostifCode then none
  else if size = 8 ∧ off % 8 = 0 then some (storedWord s off % 2 ^ 64)
  else if size = 4 ∧ off % 4 = 0 then some (storedWord s (off / 8 * 8) / 2 ^ (8 * (off % 8)) % 2 ^ 32)
  else some (2 ^ (8 * size) - 1)

/-- The fields of a doorbell page (R295): page p < 64 of an SQ, 64 + q of a CQ. -/
def doorbellPage (s : State) (page off : Nat) : Nat :=
  let q := sqOf s (fin64 page)
  let c := cqOf s (fin64 page)
  match off with
  | 0x08 => attnWord s
  | 0x10 => if page < 64 then q.head else c.widx
  | 0x14 => if page < 64 then bit q.en + 2 * bit q.wait + 4 * bit q.dbErr else bit c.en + 4 * bit c.dbErr
  | _ => 0

/-- The 8 bytes at an aligned BAR2 offset: one of the 128 doorbell pages (R295, R540). -/
def bar2Word (s : State) (base : Nat) : Nat :=
  let page := base / 4096 % 128
  doorbellPage s page (base % 4096) + 2 ^ 32 * doorbellPage s page (base % 4096 + 4)

/-- What a BAR2 read returns (R294, R295). -/
def bar2Read (s : State) (off size : Nat) : Option Nat :=
  if !isOpen s hostifCode then none
  else if size = 8 ∧ off % 8 = 0 then some (bar2Word s off)
  else if size = 4 ∧ off % 4 = 0 then some (bar2Word s (off / 8 * 8) / 2 ^ (8 * (off % 8)) % 2 ^ 32)
  else some (2 ^ (8 * size) - 1)

/-- Configuration space (R289, R293, R294): the header with its two pairs of base addresses, BAR4 and BAR5 being unimplemented, and the whole capability list at every width and speed. -/
def configSpace (s : State) : ConfigSpace :=
  { vendor := Config.vendorId, device := 0x0007, cls := 0x120000, revision := s.module.srev.setWidth 8, intPin := 0,
    bars := [{ first := 0, wide := true, pref := false, size := 2 ^ 24, base := s.hostif.bars[0] },
             { first := 2, wide := true, pref := false, size := 2 ^ 19, base := s.hostif.bars[1] }],
    caps := [.pcie 512 4096 true true, .msix 64 0 0x1000 0x1800, .doe 1,
             .cxlDvsec true true true 1 (2 ^ 34) true (isOpen s hostifCode)] }

/-! ## The reopening of MGMT (R450, R461, R468, R490, R495, R531) -/

/-- The staged image is tried first; one that fails is discarded with its record (R495). -/
def tryStaged (s : State) : State :=
  match s.sec.staged with
  | none => s
  | some f => match fwFault s f.bytes f.bytes.length with
    | none => { s with sec := { s.sec with fw := some f, staged := none } }
    | some c => secEvent 6 c { s with sec := { s.sec with staged := none } }

/-- Whether the running image verifies again; before any runs there is none to verify. -/
def fwHolds (s : State) : Bool :=
  match s.sec.fw with
  | some f => (fwFault s f.bytes f.bytes.length).isNone
  | none => true

/-- MGMT is OPEN again (R450, R461). -/
def mgmtOpen (s : State) : State :=
  let s := updDom mgmtCode (fun d => { d with st := .opened, pend := false, since := s.time }) s
  let s := takeUp { s with pwr := { s.pwr with mgmtForce := false }, atClose := none }
  let s := { s with
    placing := s.placing.map (fun p => { p with at_ := s.time, live := none, timed := false }), boot := { s.boot with readmits := s.boot.readmits.map fun r => { r with stage := 1 } } }
  let s := (List.finRange 64).foldl (fun s q => flushHeld q s) (evaluate s)
  answer mgmtCode s

/-- MGMT_REOPEN (R450): the boot ROM verifies the image and restarts the Vintner; an image that fails leaves MGMT closed. -/
def execMgmtReopen (s : State) : Res :=
  if (dom s mgmtCode).st ≠ .closed then .next s
  else
    let s := tryStaged s
    .next (if fwHolds s then mgmtOpen s else s)

/-- MGMT_REOPEN_TIMEOUT (R424, R450): not OPEN within 2 s of the close. -/
def execMgmtReopenTimeout (s : State) : Res :=
  let d := dom s mgmtCode
  if (d.st = .closing ∨ d.st = .closed) ∧ d.since + ms 2000 ≤ s.time then .next (fatal (if d.cause = 2 then 3 else 2) s) else .next s

end Sys2Proof.Machine
end

