-- ==== Sys2Proof/Machine/Pins.lean ====
section
/-! DEFINITION. The sideband bus, the TAP, and the completions of the engine's reads of host memory (R422, R423, R479, R502, R521 to R525). -/

namespace Sys2Proof.Machine

/-! ## The sideband block (R478, R479) -/

/-- Whether the always-on logic takes block commands: standby power, and stage 1 not over (R479, R511). -/
def sbTakes (s : State) : Bool := s.module.standby && decide (s.boot.stage ≤ 1)

/-- PB_DATA (R479): bytes past the largest block have no place in the buffer. -/
def execPbData (off : Word) (bytes : List Byte) (s : State) : Res :=
  if !sbTakes s || bytes.isEmpty || decide (256 < bytes.length) then .next s
  else
    let b := writeBytes s.sb.bytes off.toNat (bytes.take (paramMax - off.toNat))
    .next { s with sb := { s.sb with bytes := b, state := 1, reason := 0 } }

/-- PB_COMMIT (R479): the block is checked under R478. -/
def execPbCommit (s : State) : Res :=
  if !sbTakes s then .next s
  else
    let b := readBytes s.sb.bytes 0 (max 96 (min paramMax (ofLE (readBytes s.sb.bytes 8 4))))
    let s := { s with boot := { s.boot with wait := if s.boot.stage = 1 then 0 else s.boot.wait } }
    match blockFault s b with
    | none => .next { s with sb := { s.sb with state := 2, reason := 0 } }
    | some r => .next { s with sb := { s.sb with state := 3, reason := r } }

/-- PB_ABORT (R479). -/
def execPbAbort (s : State) : Res :=
  if !sbTakes s then .next s
  else .next { s with
    sb := { s.sb with bytes := [], state := 0, reason := 0 }, boot := { s.boot with wait := if s.boot.stage = 1 then 0 else s.boot.wait } }

/-! ## Sideband reads (R479, R522 to R524) -/

/-- An answer on the sideband, which runs on the standby supply (R511). -/
def sideband (b : List Byte) (s : State) : Res := .next (if s.module.standby then emit (.sideband b) s else s)

/-- STATUS (R479). -/
def execStatus (s : State) : Res :=
  sideband (leBytes 1 (s.sb.state + 4 * s.sb.reason) ++ leBytes 1 (bootStat s % 256) ++ zeros 2) s

/-- FATAL_READ (R522). -/
def execFatalRead (s : State) : Res :=
  sideband (match s.module.fatal with
    | some e => recBytes e
    | none => zeros 64) s

/-- MODULE_ID (R523). -/
def execModuleId (s : State) : Res :=
  sideband ([0x58, 0x57, 0x37, 0x2D, 0x41, 0x20, 0x20, 0x20] ++ s.module.sn.toList ++ leBytes 2 s.module.srev.toNat ++
    leBytes 2 s.module.mrev.toNat ++ zeros 4) s

/-- TELEMETRY (R524): in reset only VIN and FATAL carry values. -/
def telemetryBytes (s : State) : List Byte :=
  let run := s.module.running
  let t := match hottest s with
    | some t => t % 1024
    | none => 0x3FF
  let flags := bit s.module.fatal.isSome + (if run then 2 * bit s.pwr.flow.isSome + 4 * bit (forcedNow s) + 8 * bit s.boot.replace else 0)
  leBytes 2 s.pwr.vin ++ leBytes 2 (if run then s.pwr.pin else 0) ++ leBytes 2 (if run then t else 0x3FF) ++
  leBytes 2 (if run then bootStat s % 65536 else 0) ++ leBytes 1 flags ++ zeros 7

def execTelemetry (s : State) : Res := sideband (telemetryBytes s) s

/-! ## The TAP (R502, R521, R525) -/

/-- The identification code (R525). -/
def idcode (s : State) : Nat := s.module.srev.toNat % 16 * 2 ^ 28 + 0x0007 * 2 ^ 12 + s.module.mfr.toNat * 2 + 1

/-- IDCODE (R525): the code shifts out from bit 0. -/
def execIdcode (s : State) : Res :=
  if s.module.standby then
    .next (emit (.tdo ((List.range 32).map fun i => (idcode s).testBit i)) { s with dbg := { s.dbg with tap := 1, bypass := false } })
  else .next s

/-- BYPASS (R502): the one-bit bypass register, which captures 0. -/
def selectBypass (s : State) : State := { s with dbg := { s.dbg with tap := 2, bypass := true } }
def execBypass (s : State) : Res := .next (if s.module.standby then selectBypass s else s)

/-- TAP_RESET (R521): Test-Logic-Reset. -/
def execTapReset (s : State) : Res := .next { s with dbg := { s.dbg with tap := 0, bypass := false } }

/-- BOUNDARY_SCAN (R502, R525): while the JTAG scope is locked its instruction is not offered, and the bypass register is selected; unlocked, as many
cells as bits shifted in are sampled and shift out. -/
def execBoundaryScan (_drive : Bool) (bits : List Bool) (s : State) : Res :=
  if !s.module.standby then .next s
  else if !s.sec.jtag then .next (selectBypass s)
  else
    let out := (List.range bits.length).map (Config.scanCell s.free)
    .next (emit (.tdo out) { s with free := s.free + 1, dbg := { s.dbg with tap := 3, bypass := false } })

/-! ## Completions of host reads (R422, R423) -/

/-- The bytes of one read of a STREAM_XFER land in its slot (R318). -/
def streamIn (x : Desc) (b : List Byte) (s : State) : State :=
  match slotOf x with
  | none => s
  | some k => match prog? s k with
    | none => s
    | some g => match bindOf g (xferPort x) with
      | some p => carryIn k p.slot x.ref b s
      | none => s

/-- A part of a load or reconfiguration has come; a reconfiguration whose reads are all in is accepted (R190). -/
def loadIn (x : Desc) (image : Bool) (b : List Byte) (s : State) : State :=
  match slotOf x with
  | none => s
  | some k =>
    let s := if image then imageIn x b s else plotsIn x b s
    if opcOf x = 0x11 then reconfigIn x k s else s

/-- What waits for the bytes of a read goes on. -/
def hostDeliver (x : Desc) (why : Why) (b : List Byte) (s : State) : State :=
  match why with
  | .image => loadIn x true b s
  | .plots => loadIn x false b s
  | .memData => memIn x b s
  | .objData => objIn x b s
  | .streamIn => streamIn x b s
  | .edgeData => carryTx 0 1 x 0 b s
  | .group => groupIn x.ref b s
  | .pressTbl => pressIn x.ref b s
  | .firmware => firmwareIn x b s
  | .block => blockIn x b s
  | .topology => topologyIn x b s
  | .chain => chainIn x b s
  | .flush => updDesc x.ref (fun y => { y with last := none }) s

/-- Whether a read's bytes are program data, which travel on as they were read (R423), or nobody's, as those of R292's read are. -/
def isData (why : Why) : Bool :=
  match why with
  | .memData => true
  | .objData => true
  | .streamIn => true
  | .edgeData => true
  | .flush => true
  | _ => false

/-- A descriptor whose control data cannot be read ends with nothing done; what else of it was listed goes with it. -/
def hostFail (x : Desc) (status detail : Nat) (s : State) : State :=
  let s := decideDesc x.ref status detail { s with placing := s.placing.filter fun p => p.desc != some x.ref }
  abortEdge x.ref s

/-- A read of poisoned bytes (R422, R423). -/
def hostPoison (x : Desc) (why : Why) (b : List Byte) (s : State) : State :=
  if isData why then hostDeliver x why b (failDesc x.ref stUncorr 1 s) else hostFail x stUncorr 1 s

/-- A read that ended in an error completion or without any (R422): a stream gets zero words in place of the bytes. -/
def hostError (x : Desc) (why : Why) (len : Nat) (s : State) : State :=
  if why = .streamIn then streamIn x (zeros len) (failDesc x.ref stAccess (2 * 256) s)
  else if why = .flush then hostDeliver x why [] s
  else hostFail x stAccess (2 * 256) s

/-- Takes an outstanding read off; `act` goes on with its descriptor while that is undecided. -/
def withRead (tag : Nat) (act : Desc → HostReq → State → State) (s : State) : State :=
  match s.hostif.reads.find? fun r => r.tag == tag with
  | none => s
  | some r =>
    let s := { s with hostif := { s.hostif with reads := s.hostif.reads.filter fun q => q.tag != tag } }
    match descOf s r.desc with
    | none => if r.why = .flush then flushSeen r.desc s else s
    | some x => if x.outc.isSome && !isData r.why then s else act x r s

/-- HOST_READ_COMPLETION (R422). -/
def execHostReadCompletion (tag : Nat) (rd : HostRead) (s : State) : Res :=
  onLink (withRead tag (fun x r s => match rd with
    | .data b => hostDeliver x r.why (padTo r.len b) s
    | .poison b => hostPoison x r.why (padTo r.len b) (hostErr true (some x) s)
    | .errorCompletion => hostError x r.why r.len (hostErr false (some x) s))) s

/-- COMPLETION_TIMEOUT (R422). -/
def execCompletionTimeout (tag : Nat) (s : State) : Res :=
  onLink (withRead tag (fun x r s => hostError x r.why r.len (hostErr false (some x) s))) s

/-! ## What the engine drives on its pins (R514 to R521) -/

/-- The three conditions of R514. -/
inductive PinCond where
  | unpowered
  | inReset
  | running
deriving DecidableEq, Repr

/-- The condition in force. -/
def pinCond (s : State) : PinCond := if !s.module.standby then .unpowered else if s.module.running then .running else .inReset

/-- The output and bidirectional pins of J1 to J7; `n` is an edge port, E0 on the first pins of J2 (R517). -/
inductive Pin where
  | htx | hprsnt | tx (n : Fin 24) | cblPwr (n : Fin 24) | id3v3 (n : Fin 24) | idBus (bank : Fin 4)
  | sb | present | pwrGood | attnOut | tdo | tm (i : Fin 16) | tmClk
deriving DecidableEq, Repr

/-- What the engine does at a pin: a high-impedance, floating or released open-drain pin, electrical idle, module ground, a supply off or on, a
logic level, or whatever its link, bus or scan protocol sends. -/
inductive Drive where
  | highZ | floating | released | idle | ground | off | on | low | high | active
deriving DecidableEq, Repr

/-- A supply switched by the engine. -/
def supply (b : Bool) : Drive := if b then .on else .off
/-- An open-drain output: low or released. -/
def openDrain (b : Bool) : Drive := if b then .low else .released

/-- Whether a port's lanes send (R326). -/
def lanesOn (p : Port) : Bool := p.st != .disabled && p.st != .idRead && p.st != .failed

/-- What the engine drives on a pin (R514 to R521): `running` first, as the tables' last column has it. DBG_VREF is taken as present (log 22). -/
def pinNow (s : State) (p : Pin) : Drive :=
  let c := pinCond s
  let run (d : Drive) (reset unp : Drive) : Drive := match c with
    | .running => d
    | .inReset => reset
    | .unpowered => unp
  match p with
  | .htx => run (if s.hostif.link then .active else .idle) .idle .highZ
  | .hprsnt => .ground
  | .tx n => run (if lanesOn (portOf s n) then .active else .idle) .idle .highZ
  | .cblPwr n => run (supply (decide (0 < (portOf s n).power))) .off .off
  | .id3v3 n => run (supply ((portOf s n).st != .disabled)) .off .off
  | .idBus b => run (if (List.range 6).any fun k => (portOf s (fin24 (6 * b.val + k))).st = .idRead then .active else .released) .released .released
  | .sb => run .active .active .released
  | .present => .ground
  | .pwrGood => let d := openDrain (!s.module.good); run d d .floating
  | .attnOut => run (openDrain s.module.attnLow) .released .floating
  | .tdo => run .active .active .highZ
  | .tm i => run (if s.dbg.active && s.dbg.pins.getLsbD i.val then .high else .low) .low .highZ
  | .tmClk => run (if s.dbg.active then .active else .low) .low .highZ

end Sys2Proof.Machine
end

