-- ==== Sys2Proof/Machine/Dispatch.lean ====
section
/-! DEFINITION. The dispatch: one arm for each command. -/

namespace Sys2Proof.Machine

def exec (i : Instr) (s : State) : Host.Outcome State Fault Refusal :=
  match i with
  | .taskOwnBeat t => Sys2Proof.Machine.execTaskOwnBeat t s
  | .add k g gd ga gb => Sys2Proof.Machine.execAdd k g gd ga gb s
  | .sub k g gd ga gb => Sys2Proof.Machine.execSub k g gd ga gb s
  | .and_ k g gd ga gb => Sys2Proof.Machine.execAnd k g gd ga gb s
  | .or_ k g gd ga gb => Sys2Proof.Machine.execOr k g gd ga gb s
  | .xor_ k g gd ga gb => Sys2Proof.Machine.execXor k g gd ga gb s
  | .shl k g gd ga gb => Sys2Proof.Machine.execShl k g gd ga gb s
  | .shr k g gd ga gb => Sys2Proof.Machine.execShr k g gd ga gb s
  | .sra k g gd ga gb => Sys2Proof.Machine.execSra k g gd ga gb s
  | .mul k g gd ga gb => Sys2Proof.Machine.execMul k g gd ga gb s
  | .mulhu k g gd ga gb => Sys2Proof.Machine.execMulhu k g gd ga gb s
  | .min_ k g gd ga gb => Sys2Proof.Machine.execMin k g gd ga gb s
  | .max_ k g gd ga gb => Sys2Proof.Machine.execMax k g gd ga gb s
  | .minu k g gd ga gb => Sys2Proof.Machine.execMinu k g gd ga gb s
  | .maxu k g gd ga gb => Sys2Proof.Machine.execMaxu k g gd ga gb s
  | .ceq k g gd ga gb => Sys2Proof.Machine.execCeq k g gd ga gb s
  | .clt k g gd ga gb => Sys2Proof.Machine.execClt k g gd ga gb s
  | .cltu k g gd ga gb => Sys2Proof.Machine.execCltu k g gd ga gb s
  | .pand k g gd ga gb => Sys2Proof.Machine.execPand k g gd ga gb s
  | .por k g gd ga gb => Sys2Proof.Machine.execPor k g gd ga gb s
  | .pnot k g gd ga gb => Sys2Proof.Machine.execPnot k g gd ga gb s
  | .addi k g gd ga imm => Sys2Proof.Machine.execAddi k g gd ga imm s
  | .andi k g gd ga imm => Sys2Proof.Machine.execAndi k g gd ga imm s
  | .ori k g gd ga imm => Sys2Proof.Machine.execOri k g gd ga imm s
  | .xori k g gd ga imm => Sys2Proof.Machine.execXori k g gd ga imm s
  | .shli k g gd ga imm => Sys2Proof.Machine.execShli k g gd ga imm s
  | .shri k g gd ga imm => Sys2Proof.Machine.execShri k g gd ga imm s
  | .srai k g gd ga imm => Sys2Proof.Machine.execSrai k g gd ga imm s
  | .ceqi k g gd ga imm => Sys2Proof.Machine.execCeqi k g gd ga imm s
  | .clti k g gd ga imm => Sys2Proof.Machine.execClti k g gd ga imm s
  | .lil k g gd imm => Sys2Proof.Machine.execLil k g gd imm s
  | .lih k g gd imm => Sys2Proof.Machine.execLih k g gd imm s
  | .br k g off => Sys2Proof.Machine.execBr k g off s
  | .bal k g gd off => Sys2Proof.Machine.execBal k g gd off s
  | .brr k g ga => Sys2Proof.Machine.execBrr k g ga s
  | .loop k g cnt len => Sys2Proof.Machine.execLoop k g cnt len s
  | .loopr k g gc len => Sys2Proof.Machine.execLoopr k g gc len s
  | .ldw k g gv gb off => Sys2Proof.Machine.execLdw k g gv gb off s
  | .ldh k g gv gb off => Sys2Proof.Machine.execLdh k g gv gb off s
  | .ldhu k g gv gb off => Sys2Proof.Machine.execLdhu k g gv gb off s
  | .ldb k g gv gb off => Sys2Proof.Machine.execLdb k g gv gb off s
  | .ldbu k g gv gb off => Sys2Proof.Machine.execLdbu k g gv gb off s
  | .stw k g gv gb off => Sys2Proof.Machine.execStw k g gv gb off s
  | .sth k g gv gb off => Sys2Proof.Machine.execSth k g gv gb off s
  | .stb k g gv gb off => Sys2Proof.Machine.execStb k g gv gb off s
  | .top k g src dst gd gs gl => Sys2Proof.Machine.execTop k g src dst gd gs gl s
  | .rack k g src dst gd gs gl => Sys2Proof.Machine.execRack k g src dst gd gs gl s
  | .cmv k g dir gl gc lo co => Sys2Proof.Machine.execCmv k g dir gl gc lo co s
  | .vadd k g r => Sys2Proof.Machine.execVadd k g r s
  | .vsub k g r => Sys2Proof.Machine.execVsub k g r s
  | .vmul k g r => Sys2Proof.Machine.execVmul k g r s
  | .vfma k g r => Sys2Proof.Machine.execVfma k g r s
  | .vmin k g r => Sys2Proof.Machine.execVmin k g r s
  | .vmax k g r => Sys2Proof.Machine.execVmax k g r s
  | .vabs k g r => Sys2Proof.Machine.execVabs k g r s
  | .vneg k g r => Sys2Proof.Machine.execVneg k g r s
  | .vcmpeq k g r => Sys2Proof.Machine.execVcmpeq k g r s
  | .vcmplt k g r => Sys2Proof.Machine.execVcmplt k g r s
  | .vcmple k g r => Sys2Proof.Machine.execVcmple k g r s
  | .vsel k g r => Sys2Proof.Machine.execVsel k g r s
  | .vcvt k g r => Sys2Proof.Machine.execVcvt k g r s
  | .vcvti k g r => Sys2Proof.Machine.execVcvti k g r s
  | .vfunc k g r => Sys2Proof.Machine.execVfunc k g r s
  | .vrsum k g r => Sys2Proof.Machine.execVrsum k g r s
  | .vld k g v gr off => Sys2Proof.Machine.execVld k g v gr off s
  | .vst k g v gr off => Sys2Proof.Machine.execVst k g v gr off s
  | .vbcast k g v gr w => Sys2Proof.Machine.execVbcast k g v gr w s
  | .vext k g v gr lane w => Sys2Proof.Machine.execVext k g v gr lane w s
  | .vins k g v gr lane w => Sys2Proof.Machine.execVins k g v gr lane w s
  | .send k g ch pn v q => Sys2Proof.Machine.execSend k g ch pn v q s
  | .recv k g ch pn v q => Sys2Proof.Machine.execRecv k g ch pn v q s
  | .sendm k g ch pn gr off => Sys2Proof.Machine.execSendm k g ch pn gr off s
  | .recvm k g ch pn gr off => Sys2Proof.Machine.execRecvm k g ch pn gr off s
  | .nop k g => Sys2Proof.Machine.execNop k g s
  | .seg k g n => Sys2Proof.Machine.execSeg k g n s
  | .sege k g => Sys2Proof.Machine.execSege k g s
  | .ldcode k g line cl => Sys2Proof.Machine.execLdcode k g line cl s
  | .iter k g => Sys2Proof.Machine.execIter k g s
  | .halt k g => Sys2Proof.Machine.execHalt k g s
  | .rdcnt k g gd sel => Sys2Proof.Machine.execRdcnt k g gd sel s
  | .mlds k g e mode ga gb fmt off => Sys2Proof.Machine.execMlds k g e mode ga gb fmt off s
  | .mma k g ea eb sa sb rep blk => Sys2Proof.Machine.execMma k g ea eb sa sb rep blk s
  | .mrd k g vd bf rnd clr => Sys2Proof.Machine.execMrd k g vd bf rnd clr s
  | .mclr k g => Sys2Proof.Machine.execMclr k g s
  | .mwin k g gr => Sys2Proof.Machine.execMwin k g gr s
  | .sequencerBeat t => Sys2Proof.Machine.execSequencerBeat t s
  | .holdCommandArrival p at_ h good0 good1 => Sys2Proof.Machine.execHoldCommandArrival p at_ h good0 good1 s
  | .currentSample tel => Sys2Proof.Machine.execCurrentSample tel s
  | .fastOvercurrent p => Sys2Proof.Machine.execFastOvercurrent p s
  | .fastHoldRelease p => Sys2Proof.Machine.execFastHoldRelease p s
  | .opEvaluate => Sys2Proof.Machine.execOpEvaluate s
  | .opChangeStop => Sys2Proof.Machine.execOpChangeStop s
  | .opChangeLand => Sys2Proof.Machine.execOpChangeLand s
  | .opChangeEnd => Sys2Proof.Machine.execOpChangeEnd s
  | .alertAssert g cur volt => Sys2Proof.Machine.execAlertAssert g cur volt s
  | .alertClear g => Sys2Proof.Machine.execAlertClear g s
  | .forcedStateLift cur volt => Sys2Proof.Machine.execForcedStateLift cur volt s
  | .railShort g => Sys2Proof.Machine.execRailShort g s
  | .pllLockLoss p => Sys2Proof.Machine.execPllLockLoss p s
  | .beatReferenceLoss => Sys2Proof.Machine.execBeatReferenceLoss s
  | .sensorSample f => Sys2Proof.Machine.execSensorSample f s
  | .dieForceLift die => Sys2Proof.Machine.execDieForceLift die s
  | .tcapSlower => Sys2Proof.Machine.execTcapSlower s
  | .tcapFaster => Sys2Proof.Machine.execTcapFaster s
  | .evacuationTrigger p => Sys2Proof.Machine.execEvacuationTrigger p s
  | .tableDrained => Sys2Proof.Machine.execTableDrained s
  | .tableDrainTimeout lost => Sys2Proof.Machine.execTableDrainTimeout lost s
  | .evacuationComplete p => Sys2Proof.Machine.execEvacuationComplete p s
  | .ageingScan low => Sys2Proof.Machine.execAgeingScan low s
  | .flowStop => Sys2Proof.Machine.execFlowStop s
  | .flowResume => Sys2Proof.Machine.execFlowResume s
  | .narrowAccess t m => Sys2Proof.Machine.execNarrowAccess t m s
  | .eccWriteback t m => Sys2Proof.Machine.execEccWriteback t m s
  | .scrub t m => Sys2Proof.Machine.execScrub t m s
  | .rowRepair t srow => Sys2Proof.Machine.execRowRepair t srow s
  | .tileRetirement t => Sys2Proof.Machine.execTileRetirement t s
  | .reservedCopyRebuild a slabs => Sys2Proof.Machine.execReservedCopyRebuild a slabs s
  | .winReq v => Sys2Proof.Machine.execWinReq v s
  | .granuleGrant slabs => Sys2Proof.Machine.execGranuleGrant slabs s
  | .granuleRelease => Sys2Proof.Machine.execGranuleRelease s
  | .cxlMemRead off => Sys2Proof.Machine.execCxlMemRead off s
  | .cxlMemWrite off d => Sys2Proof.Machine.execCxlMemWrite off d s
  | .read_ p => Sys2Proof.Machine.execRead p s
  | .write_ p => Sys2Proof.Machine.execWrite p s
  | .msg p => Sys2Proof.Machine.execMsg p s
  | .readData p => Sys2Proof.Machine.execReadData p s
  | .writeAck p => Sys2Proof.Machine.execWriteAck p s
  | .msgAck p => Sys2Proof.Machine.execMsgAck p s
  | .messageTimeout u tag => Sys2Proof.Machine.execMessageTimeout u tag s
  | .reassemblyTimeout dst src tag => Sys2Proof.Machine.execReassemblyTimeout dst src tag s
  | .throttleWindow h sums => Sys2Proof.Machine.execThrottleWindow h sums s
  | .sqDoorbell p v => Sys2Proof.Machine.execSqDoorbell p v s
  | .cqDoorbell q v => Sys2Proof.Machine.execCqDoorbell q v s
  | .descriptorFetch p rd => Sys2Proof.Machine.execDescriptorFetch p rd s
  | .completionWrite p => Sys2Proof.Machine.execCompletionWrite p s
  | .sqEnable p v => Sys2Proof.Machine.execSqEnable p v s
  | .sqDisable p v => Sys2Proof.Machine.execSqDisable p v s
  | .cqEnable q v => Sys2Proof.Machine.execCqEnable q v s
  | .cqDisable q v => Sys2Proof.Machine.execCqDisable q v s
  | .attn v => Sys2Proof.Machine.execAttn v s
  | .heldDiscard v => Sys2Proof.Machine.execHeldDiscard v s
  | .snetThrottle v => Sys2Proof.Machine.execSnetThrottle v s
  | .ceil c => Sys2Proof.Machine.execCeil c s
  | .flowEn en => Sys2Proof.Machine.execFlowEn en s
  | .tmuxCtl v => Sys2Proof.Machine.execTmuxCtl v s
  | .sel n v => Sys2Proof.Machine.execSel n v s
  | .portEnable n v => Sys2Proof.Machine.execPortEnable n v s
  | .portDisable n v => Sys2Proof.Machine.execPortDisable n v s
  | .engineId v => Sys2Proof.Machine.execEngineId v s
  | .route d v => Sys2Proof.Machine.execRoute d v s
  | .registerWrite off size v => Sys2Proof.Machine.execRegisterWrite off size v s
  | .perstAssert => Sys2Proof.Machine.execPerstAssert s
  | .perstDeassert => Sys2Proof.Machine.execPerstDeassert s
  | .linkLoss => Sys2Proof.Machine.execLinkLoss s
  | .functionLevelReset => Sys2Proof.Machine.execFunctionLevelReset s
  | .hotReset => Sys2Proof.Machine.execHotReset s
  | .hostifReset => Sys2Proof.Machine.execHostifReset s
  | .nopDescriptor d => Sys2Proof.Machine.execNopDescriptor d s
  | .fenceAck d => Sys2Proof.Machine.execFenceAck d s
  | .progLoad d => Sys2Proof.Machine.execProgLoad d s
  | .progReconfig d => Sys2Proof.Machine.execProgReconfig d s
  | .progRemove d => Sys2Proof.Machine.execProgRemove d s
  | .progReport d => Sys2Proof.Machine.execProgReport d s
  | .progCounters d => Sys2Proof.Machine.execProgCounters d s
  | .memRead d => Sys2Proof.Machine.execMemRead d s
  | .memWrite d => Sys2Proof.Machine.execMemWrite d s
  | .objRead d => Sys2Proof.Machine.execObjRead d s
  | .objWrite d => Sys2Proof.Machine.execObjWrite d s
  | .streamXfer d => Sys2Proof.Machine.execStreamXfer d s
  | .edgeSend d => Sys2Proof.Machine.execEdgeSend d s
  | .edgeRecv d => Sys2Proof.Machine.execEdgeRecv d s
  | .collective d => Sys2Proof.Machine.execCollective d s
  | .pressTable d => Sys2Proof.Machine.execPressTable d s
  | .peerDown d => Sys2Proof.Machine.execPeerDown d s
  | .peerUp d => Sys2Proof.Machine.execPeerUp d s
  | .logFetch d => Sys2Proof.Machine.execLogFetch d s
  | .leesFetch d => Sys2Proof.Machine.execLeesFetch d s
  | .query d => Sys2Proof.Machine.execQuery d s
  | .reset d => Sys2Proof.Machine.execReset d s
  | .disable d => Sys2Proof.Machine.execDisable d s
  | .enable d => Sys2Proof.Machine.execEnable d s
  | .evacuate d => Sys2Proof.Machine.execEvacuate d s
  | .watchSet d => Sys2Proof.Machine.execWatchSet d s
  | .readmit d => Sys2Proof.Machine.execReadmit d s
  | .policySet d => Sys2Proof.Machine.execPolicySet d s
  | .fwLoad d => Sys2Proof.Machine.execFwLoad d s
  | .paramSupply d => Sys2Proof.Machine.execParamSupply d s
  | .topologySet d => Sys2Proof.Machine.execTopologySet d s
  | .certChain d => Sys2Proof.Machine.execCertChain d s
  | .recordsFetch d => Sys2Proof.Machine.execRecordsFetch d s
  | .attest req => Sys2Proof.Machine.execAttest req s
  | .getChain req => Sys2Proof.Machine.execGetChain req s
  | .unlockChallenge req => Sys2Proof.Machine.execUnlockChallenge req s
  | .unlock req => Sys2Proof.Machine.execUnlock req s
  | .fenceHalt dom => Sys2Proof.Machine.execFenceHalt dom s
  | .domainReset dom ok => Sys2Proof.Machine.execDomainReset dom ok s
  | .mgmtReopen => Sys2Proof.Machine.execMgmtReopen s
  | .mgmtReopenTimeout => Sys2Proof.Machine.execMgmtReopenTimeout s
  | .programWatchExpiry ps => Sys2Proof.Machine.execProgramWatchExpiry ps s
  | .sqWatchExpiry p => Sys2Proof.Machine.execSqWatchExpiry p s
  | .heartbeatWatch u => Sys2Proof.Machine.execHeartbeatWatch u s
  | .barrierStop ps => Sys2Proof.Machine.execBarrierStop ps s
  | .barrierHalt ps => Sys2Proof.Machine.execBarrierHalt ps s
  | .barrierRestart ps => Sys2Proof.Machine.execBarrierRestart ps s
  | .barrierComplete ps => Sys2Proof.Machine.execBarrierComplete ps s
  | .placementDone r => Sys2Proof.Machine.execPlacementDone r s
  | .searchLimit => Sys2Proof.Machine.execSearchLimit s
  | .identityRead n page => Sys2Proof.Machine.execIdentityRead n page s
  | .trainingDone n tr => Sys2Proof.Machine.execTrainingDone n tr s
  | .trainingTimeout n => Sys2Proof.Machine.execTrainingTimeout n s
  | .helloSend n => Sys2Proof.Machine.execHelloSend n s
  | .hello n f => Sys2Proof.Machine.execHello n f s
  | .retrainDone n tr => Sys2Proof.Machine.execRetrainDone n tr s
  | .failedRetry n => Sys2Proof.Machine.execFailedRetry n s
  | .data n f => Sys2Proof.Machine.execData n f s
  | .idle n f => Sys2Proof.Machine.execIdle n f s
  | .nak n f => Sys2Proof.Machine.execNak n f s
  | .replayTimeout n => Sys2Proof.Machine.execReplayTimeout n s
  | .edgeMsgPacket n => Sys2Proof.Machine.execEdgeMsgPacket n s
  | .tack n => Sys2Proof.Machine.execTack n s
  | .heartbeat n => Sys2Proof.Machine.execHeartbeat n s
  | .tackTimer peer chan => Sys2Proof.Machine.execTackTimer peer chan s
  | .heartbeatSend peer => Sys2Proof.Machine.execHeartbeatSend peer s
  | .transportTimeout peer => Sys2Proof.Machine.execTransportTimeout peer s
  | .heartbeatLost peer => Sys2Proof.Machine.execHeartbeatLost peer s
  | .tsyncProbe n => Sys2Proof.Machine.execTsyncProbe n s
  | .tprobe n f => Sys2Proof.Machine.execTprobe n f s
  | .treply n f => Sys2Proof.Machine.execTreply n f s
  | .probeTimeout n => Sys2Proof.Machine.execProbeTimeout n s
  | .cableRemoval n => Sys2Proof.Machine.execCableRemoval n s
  | .cblOvercurrent n => Sys2Proof.Machine.execCblOvercurrent n s
  | .reduceSegment peer chan => Sys2Proof.Machine.execReduceSegment peer chan s
  | .gatherSegment peer chan => Sys2Proof.Machine.execGatherSegment peer chan s
  | .sealNotice peer chan => Sys2Proof.Machine.execSealNotice peer chan s
  | .abort_ peer chan => Sys2Proof.Machine.execAbort peer chan s
  | .normExchange peer chan => Sys2Proof.Machine.execNormExchange peer chan s
  | .engineResetAssert => Sys2Proof.Machine.execEngineResetAssert s
  | .inputLoss mV => Sys2Proof.Machine.execInputLoss mV s
  | .start_ mV => Sys2Proof.Machine.execStart mV s
  | .stageEnd f => Sys2Proof.Machine.execStageEnd f s
  | .pbWaitTimeout => Sys2Proof.Machine.execPbWaitTimeout s
  | .topologyWaitTimeout => Sys2Proof.Machine.execTopologyWaitTimeout s
  | .readmitStageEnd f => Sys2Proof.Machine.execReadmitStageEnd f s
  | .pbData off bytes => Sys2Proof.Machine.execPbData off bytes s
  | .pbCommit => Sys2Proof.Machine.execPbCommit s
  | .pbAbort => Sys2Proof.Machine.execPbAbort s
  | .status => Sys2Proof.Machine.execStatus s
  | .fatalRead => Sys2Proof.Machine.execFatalRead s
  | .moduleId => Sys2Proof.Machine.execModuleId s
  | .telemetry => Sys2Proof.Machine.execTelemetry s
  | .phyAccess die a => Sys2Proof.Machine.execPhyAccess die a s
  | .idcode => Sys2Proof.Machine.execIdcode s
  | .bypass => Sys2Proof.Machine.execBypass s
  | .holdBeat => Sys2Proof.Machine.execHoldBeat s
  | .hostReadCompletion tag rd => Sys2Proof.Machine.execHostReadCompletion tag rd s
  | .completionTimeout tag => Sys2Proof.Machine.execCompletionTimeout tag s
  | .msixUnmask u => Sys2Proof.Machine.execMsixUnmask u s
  | .linkTrained cxl width speed => Sys2Proof.Machine.execLinkTrained cxl width speed s
  | .hdmCommit => Sys2Proof.Machine.execHdmCommit s
  | .retrainTimeout n => Sys2Proof.Machine.execRetrainTimeout n s
  | .railRampEnd => Sys2Proof.Machine.execRailRampEnd s
  | .bufferMoveEnd h => Sys2Proof.Machine.execBufferMoveEnd h s
  | .standbyPowerOn => Sys2Proof.Machine.execStandbyPowerOn s
  | .standbyPowerOff => Sys2Proof.Machine.execStandbyPowerOff s
  | .tapReset => Sys2Proof.Machine.execTapReset s
  | .boundaryScan drive bits => Sys2Proof.Machine.execBoundaryScan drive bits s

end Sys2Proof.Machine
end

