-- ==== Sys2Proof/Safety.lean ====
section
/-! DEFINITION. What counts as a safe run: the invariants that a state may satisfy, in the terms the statements use. -/

namespace Sys2Proof.Machine

/-- Every tile memory, local SRAM and slab, is in its canonical form: addresses rising, no zero listed. -/
def State.memWf (s : State) : Bool := s.tiles.all fun e => Memory.wf e.2.sram && Memory.wf e.2.slab

/-- What most commands leave alone: the queue of waiting commands, the fuses (R491) and the fused names of module and wafer (R539). -/
def State.kept (s : State) :
    List Instr × Vector (List Byte) 4 × BitVec 4 × Nat × BitVec 384 × Vector Byte 16 × BitVec 16 × BitVec 16 × BitVec 11 :=
  (s.pending, s.sec.keys, s.sec.revoked, s.sec.counter, s.sec.secret, s.module.sn, s.module.srev, s.module.mrev, s.module.mfr)

/-- The fuses' movement from one state to another: a blown fuse is never restored (R491), so the key digests, the device secret and the
fused names stay, the rollback counter never falls, and no revocation is undone. -/
structure FusesForward (s t : State) : Prop where
  keys    : t.sec.keys = s.sec.keys
  secret  : t.sec.secret = s.sec.secret
  names   : (t.module.sn, t.module.srev, t.module.mrev, t.module.mfr) = (s.module.sn, s.module.srev, s.module.mrev, s.module.mfr)
  counter : s.sec.counter ≤ t.sec.counter
  revoked : s.sec.revoked &&& t.sec.revoked = s.sec.revoked

/-- The queue stays and the fuses move only forward. -/
def Forward (s t : State) : Prop := t.pending = s.pending ∧ FusesForward s t

/-- An outcome is a next state with the same queue, fuses and fused names. -/
def NextKept (s : State) : Res → Prop
  | .next t => t.kept = s.kept
  | _ => False

/-- An outcome is a next state with the same queue, whose fuses have moved only forward. -/
def NextForward (s : State) : Res → Prop
  | .next t => Forward s t
  | _ => False

/-- The tiles of a state: cores, routers, service-net ports and memories. -/
def State.still (s : State) : List (Nat × Tile) := s.tiles

/-- An outcome is a next state with the same tiles. -/
def NextStill (s : State) : Res → Prop
  | .next t => t.still = s.still
  | _ => False

/-! ## The own beats of a task -/

/-- In the present beat an instruction of task `k` is due: it is an unused own beat of `k` (R42), and `k` is enabled, neither halted nor
faulted (R44, R78), not in the second beat of a taken branch (R66), not in a segment's padding and not past a segment's last own beat (R68); and no residue error waits in the tile to be
found: each lane's A has the residue it carries (R108). -/
structure Due (s : State) (k : TaskAt) : Prop where
  own     : ownReady s k = true
  enabled : (cfgAt s k).en = true
  runs    : (taskAt s k).halted = false ∧ (taskAt s k).faulted = false
  ready   : (taskAt s k).skip = 0 ∧ (taskAt s k).pad = 0
  inside  : ∀ e, (taskAt s k).seg = some e → e.2 < e.1
  clean   : (tileAt s k.tile).residue = [] ∧ (tileAt s k.tile).lanes.any residueBad = false

/-- A register's latest result is usable in the present beat (R66). -/
def UsableG (s : State) (k : TaskAt) (r : BitVec 4) : Prop := (taskAt s k).gReady[i4 r] ≤ s.beats.wrb
/-- A predicate's latest result is usable in the present beat (R66). -/
def UsableP (s : State) (k : TaskAt) (r : BitVec 2) : Prop := (taskAt s k).pReady[i2 r] ≤ s.beats.wrb
/-- A vector register's latest result is usable in the present beat (R66). -/
def UsableV (s : State) (k : TaskAt) (r : BitVec 3) : Prop := (taskAt s k).vReady[i3 r] ≤ s.beats.wrb
/-- The guard is usable and lets the instruction execute (R49). -/
def Passes (s : State) (k : TaskAt) (g : Guard) : Prop := UsableP s k g.gp ∧ (rdP (taskAt s k) g.gp != (g.gs == 1)) = true
/-- The wide port of the task's tile is unclaimed in a beat (R66, R67). -/
def WideFree (s : State) (k : TaskAt) (b : Nat) : Prop := b ∉ (tileAt s k.tile).wide
/-- No two-beat slot of the task's tile meets the one that begins in beat `b` (R115). -/
def SlotFree (s : State) (k : TaskAt) (b : Nat) : Prop := ∀ c ∈ (tileAt s k.tile).slots, b + 1 < c ∨ c + 1 < b

/-- The task after an own beat whose instruction goes on to the next one and writes no register: the own beat counted, also toward an open
segment, and the pc and loop stack moved on (R44, R54, R68). -/
def Task.stepped (x : Task) : Task :=
  { x with pc := (advLoop x.loops x.pc).1, loops := (advLoop x.loops x.pc).2, own := x.own + 1, seg := x.seg.map fun e => (e.1, e.2 + 1) }

/-- What an own beat of task `k` leaves alone: outside the tiles the state is `r`; every other tile is as before; the task's tile is as before but for
`f`, its tasks and the mark that this beat's own beat is used; every other task is as before; and so is every byte of every memory. -/
structure OwnFrame (s t : State) (k : TaskAt) (f : Tile → Tile) (r : State) : Prop where
  rest   : { t with tiles := s.tiles } = r
  others : ∀ u, u ≠ k.tile → tileAt t u = tileAt s u
  tile   : tileAt t k.tile = { f (tileAt s k.tile) with tasks := (tileAt t k.tile).tasks, ownAt := some s.beats.wrb }
  tasks  : ∀ j, j ≠ k.task → (tileAt t k.tile).tasks[j] = (tileAt s k.tile).tasks[j]
  memory : ∀ u m a, readByte (memOf (tileAt t u) m) a = readByte (memOf (tileAt s u) m) a

/-- The frame of an instruction that touches nothing beyond its task's private state. -/
abbrev TaskFrame (s t : State) (k : TaskAt) : Prop := OwnFrame s t k id s

end Sys2Proof.Machine
end

