-- ==== Sys2Proof/WellFormed.lean ====
section
/-! DEFINITION. Which commands are well formed: the sizes and ranges of operands that the types leave open. The meanings are total and take every
command; a command from outside that is not well formed cannot arrive. -/

namespace Sys2Proof

/-- A packet's payload is PLEN words of 8 bytes, at most 1 KiB, and its message within the limits of its operation: a READ is one packet without payload for at
most 64 KiB, a WRITE message has at most 64 KiB, a MSG message 16 MiB (R257, R258, R260). -/
def packetOk (p : Packet) : Bool :=
  let len := 8 * p.countOff.toNat
  p.payload.length == 8 * p.plen.toNat && decide (p.payload.length ≤ 1024) &&
  (match p.opc.toNat with
   | 1 => p.plen == 0 && p.first && p.last && decide (len ≤ 65536)
   | 2 => decide (len ≤ 65536)
   | 3 => decide (len ≤ 16777216)
   | _ => true)

/-- A flit carries 240 body bytes (R334). -/
def flitFull (f : Flit) : Bool := f.body.length == 240

/-- A reading has 10 bits, or is 0x8000 for none (R404, R413). -/
def readingOk (t : Nat) : Bool := decide (t < 1024) || t == 0x8000

/-- A sensor frame holds 768 field, 8 hub and 16 PHY readings (R404). -/
def frameOk (f : SensorFrame) : Bool :=
  f.field.length == 768 && f.hub.length == 8 && f.phy.length == 16 && f.field.all readingOk && f.hub.all readingOk && f.phy.all readingOk

/-- An identity page has 64 bytes (R328). -/
def pageOk (p : Option (List Byte)) : Bool :=
  match p with
  | none => true
  | some b => b.length == 64

/-- A fetched descriptor has 64 bytes (R303). -/
def fetchedOk (r : HostRead) : Bool :=
  match r with
  | .data b => b.length == 64
  | .poison b => b.length == 64
  | .errorCompletion => true

/-- A tile's configuration has four tasks, eight channels and four sequencer words (R40, R145, R177). -/
def tileCfgOk (c : TileCfg) : Bool := c.tasks.length == 4 && c.chans.length == 8 && c.phases.length == 4

/-- A placement's tiles are configured whole; a refusal has a reason of R240. -/
def placedOk (r : PlaceResult) : Bool :=
  match r with
  | .placed p => p.tiles.all tileCfgOk && p.phases.length == 4
  | .refused n _ => decide (1 ≤ n ∧ n ≤ 19)

/-- What a stage found names places that exist (R477). -/
def foundOk (f : StageFound) : Bool :=
  f.culls.all (fun e => decide (e.1 < 768 ∧ e.2.1 < 1040 ∧ e.2.2 < 3)) && f.xmap.all (fun n => decide (n < 4352)) &&
  f.repairs.all fun e => decide (e.1 < 768 ∧ e.2.1 < 1040 ∧ e.2.2.1 < 512 ∧ e.2.2.2 < 4)

/-- Whether a command is well formed. -/
def Instr.wf : Instr → Bool
  | .taskOwnBeat _ => true
  | .add _ _ _ _ _ => true
  | .sub _ _ _ _ _ => true
  | .and_ _ _ _ _ _ => true
  | .or_ _ _ _ _ _ => true
  | .xor_ _ _ _ _ _ => true
  | .shl _ _ _ _ _ => true
  | .shr _ _ _ _ _ => true
  | .sra _ _ _ _ _ => true
  | .mul _ _ _ _ _ => true
  | .mulhu _ _ _ _ _ => true
  | .min_ _ _ _ _ _ => true
  | .max_ _ _ _ _ _ => true
  | .minu _ _ _ _ _ => true
  | .maxu _ _ _ _ _ => true
  | .ceq _ _ _ _ _ => true
  | .clt _ _ _ _ _ => true
  | .cltu _ _ _ _ _ => true
  | .pand _ _ _ _ _ => true
  | .por _ _ _ _ _ => true
  | .pnot _ _ _ _ _ => true
  | .addi _ _ _ _ _ => true
  | .andi _ _ _ _ _ => true
  | .ori _ _ _ _ _ => true
  | .xori _ _ _ _ _ => true
  | .shli _ _ _ _ _ => true
  | .shri _ _ _ _ _ => true
  | .srai _ _ _ _ _ => true
  | .ceqi _ _ _ _ _ => true
  | .clti _ _ _ _ _ => true
  | .lil _ _ _ _ => true
  | .lih _ _ _ _ => true
  | .br _ _ _ => true
  | .bal _ _ _ _ => true
  | .brr _ _ _ => true
  | .loop _ _ _ _ => true
  | .loopr _ _ _ _ => true
  | .ldw _ _ _ _ _ => true
  | .ldh _ _ _ _ _ => true
  | .ldhu _ _ _ _ _ => true
  | .ldb _ _ _ _ _ => true
  | .ldbu _ _ _ _ _ => true
  | .stw _ _ _ _ _ => true
  | .sth _ _ _ _ _ => true
  | .stb _ _ _ _ _ => true
  | .top _ _ _ _ _ _ _ => true
  | .rack _ _ _ _ _ _ _ => true
  | .cmv _ _ _ _ _ _ _ => true
  | .vadd _ _ _ => true
  | .vsub _ _ _ => true
  | .vmul _ _ _ => true
  | .vfma _ _ _ => true
  | .vmin _ _ _ => true
  | .vmax _ _ _ => true
  | .vabs _ _ _ => true
  | .vneg _ _ _ => true
  | .vcmpeq _ _ _ => true
  | .vcmplt _ _ _ => true
  | .vcmple _ _ _ => true
  | .vsel _ _ _ => true
  | .vcvt _ _ _ => true
  | .vcvti _ _ _ => true
  | .vfunc _ _ _ => true
  | .vrsum _ _ _ => true
  | .vld _ _ _ _ _ => true
  | .vst _ _ _ _ _ => true
  | .vbcast _ _ _ _ _ => true
  | .vext _ _ _ _ _ _ => true
  | .vins _ _ _ _ _ _ => true
  | .send _ _ _ _ _ _ => true
  | .recv _ _ _ _ _ _ => true
  | .sendm _ _ _ _ _ _ => true
  | .recvm _ _ _ _ _ _ => true
  | .nop _ _ => true
  | .seg _ _ _ => true
  | .sege _ _ => true
  | .ldcode _ _ _ _ => true
  | .iter _ _ => true
  | .halt _ _ => true
  | .rdcnt _ _ _ _ => true
  | .mlds _ _ _ _ _ _ _ _ => true
  | .mma _ _ _ _ _ _ _ _ => true
  | .mrd _ _ _ _ _ _ => true
  | .mclr _ _ => true
  | .mwin _ _ _ => true
  | .sequencerBeat _ => true
  | .holdCommandArrival _ _ _ _ _ => true
  | .currentSample tel => tel.iMean.length == 12 && tel.vRail.length == 48
  | .fastOvercurrent _ => true
  | .fastHoldRelease _ => true
  | .opEvaluate => true
  | .opChangeStop => true
  | .opChangeLand => true
  | .opChangeEnd => true
  | .alertAssert _ _ _ => true
  | .alertClear _ => true
  | .forcedStateLift _ _ => true
  | .railShort _ => true
  | .pllLockLoss _ => true
  | .beatReferenceLoss => true
  | .sensorSample f => frameOk f
  | .dieForceLift _ => true
  | .tcapSlower => true
  | .tcapFaster => true
  | .evacuationTrigger _ => true
  | .tableDrained => true
  | .tableDrainTimeout _ => true
  | .evacuationComplete _ => true
  | .ageingScan _ => true
  | .flowStop => true
  | .flowResume => true
  | .narrowAccess _ _ => true
  | .eccWriteback _ _ => true
  | .scrub _ _ => true
  | .rowRepair _ _ => true
  | .tileRetirement _ => true
  | .reservedCopyRebuild _ _ => true
  | .winReq _ => true
  | .granuleGrant slabs => slabs.length == 4096
  | .granuleRelease => true
  | .cxlMemRead _ => true
  | .cxlMemWrite _ _ => true
  | .read_ p => packetOk p
  | .write_ p => packetOk p
  | .msg p => packetOk p
  | .readData p => packetOk p
  | .writeAck p => packetOk p
  | .msgAck p => packetOk p
  | .messageTimeout _ _ => true
  | .reassemblyTimeout _ _ _ => true
  | .throttleWindow _ sums => sums.length == 8
  | .sqDoorbell _ _ => true
  | .cqDoorbell _ _ => true
  | .descriptorFetch _ rd => fetchedOk rd
  | .completionWrite _ => true
  | .sqEnable _ _ => true
  | .sqDisable _ _ => true
  | .cqEnable _ _ => true
  | .cqDisable _ _ => true
  | .attn _ => true
  | .heldDiscard _ => true
  | .snetThrottle _ => true
  | .ceil _ => true
  | .flowEn _ => true
  | .tmuxCtl _ => true
  | .sel _ _ => true
  | .portEnable _ _ => true
  | .portDisable _ _ => true
  | .engineId _ => true
  | .route _ _ => true
  | .registerWrite _ size _ => size == 4 || size == 8
  | .perstAssert => true
  | .perstDeassert => true
  | .linkLoss => true
  | .functionLevelReset => true
  | .hotReset => true
  | .hostifReset => true
  | .nopDescriptor _ => true
  | .fenceAck _ => true
  | .progLoad _ => true
  | .progReconfig _ => true
  | .progRemove _ => true
  | .progReport _ => true
  | .progCounters _ => true
  | .memRead _ => true
  | .memWrite _ => true
  | .objRead _ => true
  | .objWrite _ => true
  | .streamXfer _ => true
  | .edgeSend _ => true
  | .edgeRecv _ => true
  | .collective _ => true
  | .pressTable _ => true
  | .peerDown _ => true
  | .peerUp _ => true
  | .logFetch _ => true
  | .leesFetch _ => true
  | .query _ => true
  | .reset _ => true
  | .disable _ => true
  | .enable _ => true
  | .evacuate _ => true
  | .watchSet _ => true
  | .readmit _ => true
  | .policySet _ => true
  | .fwLoad _ => true
  | .paramSupply _ => true
  | .topologySet _ => true
  | .certChain _ => true
  | .recordsFetch _ => true
  | .attest _ => true
  | .getChain _ => true
  | .unlockChallenge _ => true
  | .unlock _ => true
  | .fenceHalt _ => true
  | .domainReset _ _ => true
  | .mgmtReopen => true
  | .mgmtReopenTimeout => true
  | .programWatchExpiry _ => true
  | .sqWatchExpiry _ => true
  | .heartbeatWatch _ => true
  | .barrierStop _ => true
  | .barrierHalt _ => true
  | .barrierRestart _ => true
  | .barrierComplete _ => true
  | .placementDone r => placedOk r
  | .searchLimit => true
  | .identityRead _ page => pageOk page
  | .trainingDone _ _ => true
  | .trainingTimeout _ => true
  | .helloSend _ => true
  | .hello _ f => flitFull f
  | .retrainDone _ _ => true
  | .failedRetry _ => true
  | .data _ f => flitFull f
  | .idle _ f => flitFull f
  | .nak _ f => flitFull f
  | .replayTimeout _ => true
  | .edgeMsgPacket _ => true
  | .tack _ => true
  | .heartbeat _ => true
  | .tackTimer _ _ => true
  | .heartbeatSend _ => true
  | .transportTimeout _ => true
  | .heartbeatLost _ => true
  | .tsyncProbe _ => true
  | .tprobe _ f => flitFull f
  | .treply _ f => flitFull f
  | .probeTimeout _ => true
  | .cableRemoval _ => true
  | .cblOvercurrent _ => true
  | .reduceSegment _ _ => true
  | .gatherSegment _ _ => true
  | .sealNotice _ _ => true
  | .abort_ _ _ => true
  | .normExchange _ _ => true
  | .engineResetAssert => true
  | .inputLoss _ => true
  | .start_ _ => true
  | .stageEnd f => foundOk f
  | .pbWaitTimeout => true
  | .topologyWaitTimeout => true
  | .readmitStageEnd f => foundOk f
  | .pbData _ bytes => !bytes.isEmpty && decide (bytes.length ≤ 256)
  | .pbCommit => true
  | .pbAbort => true
  | .status => true
  | .fatalRead => true
  | .moduleId => true
  | .telemetry => true
  | .phyAccess _ _ => true
  | .idcode => true
  | .bypass => true
  | .holdBeat => true
  | .hostReadCompletion _ _ => true
  | .completionTimeout _ => true
  | .msixUnmask _ => true
  | .linkTrained _ width speed => width != 3 && speed != 3
  | .hdmCommit => true
  | .retrainTimeout _ => true
  | .railRampEnd => true
  | .bufferMoveEnd _ => true
  | .standbyPowerOn => true
  | .standbyPowerOff => true
  | .tapReset => true
  | .boundaryScan _ _ => true

/-- The task a core instruction belongs to; none for the other commands. -/
def Instr.task : Instr → Option TaskAt
  | .taskOwnBeat _ => none
  | .add k _ _ _ _ => some k
  | .sub k _ _ _ _ => some k
  | .and_ k _ _ _ _ => some k
  | .or_ k _ _ _ _ => some k
  | .xor_ k _ _ _ _ => some k
  | .shl k _ _ _ _ => some k
  | .shr k _ _ _ _ => some k
  | .sra k _ _ _ _ => some k
  | .mul k _ _ _ _ => some k
  | .mulhu k _ _ _ _ => some k
  | .min_ k _ _ _ _ => some k
  | .max_ k _ _ _ _ => some k
  | .minu k _ _ _ _ => some k
  | .maxu k _ _ _ _ => some k
  | .ceq k _ _ _ _ => some k
  | .clt k _ _ _ _ => some k
  | .cltu k _ _ _ _ => some k
  | .pand k _ _ _ _ => some k
  | .por k _ _ _ _ => some k
  | .pnot k _ _ _ _ => some k
  | .addi k _ _ _ _ => some k
  | .andi k _ _ _ _ => some k
  | .ori k _ _ _ _ => some k
  | .xori k _ _ _ _ => some k
  | .shli k _ _ _ _ => some k
  | .shri k _ _ _ _ => some k
  | .srai k _ _ _ _ => some k
  | .ceqi k _ _ _ _ => some k
  | .clti k _ _ _ _ => some k
  | .lil k _ _ _ => some k
  | .lih k _ _ _ => some k
  | .br k _ _ => some k
  | .bal k _ _ _ => some k
  | .brr k _ _ => some k
  | .loop k _ _ _ => some k
  | .loopr k _ _ _ => some k
  | .ldw k _ _ _ _ => some k
  | .ldh k _ _ _ _ => some k
  | .ldhu k _ _ _ _ => some k
  | .ldb k _ _ _ _ => some k
  | .ldbu k _ _ _ _ => some k
  | .stw k _ _ _ _ => some k
  | .sth k _ _ _ _ => some k
  | .stb k _ _ _ _ => some k
  | .top k _ _ _ _ _ _ => some k
  | .rack k _ _ _ _ _ _ => some k
  | .cmv k _ _ _ _ _ _ => some k
  | .vadd k _ _ => some k
  | .vsub k _ _ => some k
  | .vmul k _ _ => some k
  | .vfma k _ _ => some k
  | .vmin k _ _ => some k
  | .vmax k _ _ => some k
  | .vabs k _ _ => some k
  | .vneg k _ _ => some k
  | .vcmpeq k _ _ => some k
  | .vcmplt k _ _ => some k
  | .vcmple k _ _ => some k
  | .vsel k _ _ => some k
  | .vcvt k _ _ => some k
  | .vcvti k _ _ => some k
  | .vfunc k _ _ => some k
  | .vrsum k _ _ => some k
  | .vld k _ _ _ _ => some k
  | .vst k _ _ _ _ => some k
  | .vbcast k _ _ _ _ => some k
  | .vext k _ _ _ _ _ => some k
  | .vins k _ _ _ _ _ => some k
  | .send k _ _ _ _ _ => some k
  | .recv k _ _ _ _ _ => some k
  | .sendm k _ _ _ _ _ => some k
  | .recvm k _ _ _ _ _ => some k
  | .nop k _ => some k
  | .seg k _ _ => some k
  | .sege k _ => some k
  | .ldcode k _ _ _ => some k
  | .iter k _ => some k
  | .halt k _ => some k
  | .rdcnt k _ _ _ => some k
  | .mlds k _ _ _ _ _ _ _ => some k
  | .mma k _ _ _ _ _ _ _ => some k
  | .mrd k _ _ _ _ _ => some k
  | .mclr k _ => some k
  | .mwin k _ _ => some k
  | .sequencerBeat _ => none
  | .holdCommandArrival _ _ _ _ _ => none
  | .currentSample _ => none
  | .fastOvercurrent _ => none
  | .fastHoldRelease _ => none
  | .opEvaluate => none
  | .opChangeStop => none
  | .opChangeLand => none
  | .opChangeEnd => none
  | .alertAssert _ _ _ => none
  | .alertClear _ => none
  | .forcedStateLift _ _ => none
  | .railShort _ => none
  | .pllLockLoss _ => none
  | .beatReferenceLoss => none
  | .sensorSample _ => none
  | .dieForceLift _ => none
  | .tcapSlower => none
  | .tcapFaster => none
  | .evacuationTrigger _ => none
  | .tableDrained => none
  | .tableDrainTimeout _ => none
  | .evacuationComplete _ => none
  | .ageingScan _ => none
  | .flowStop => none
  | .flowResume => none
  | .narrowAccess _ _ => none
  | .eccWriteback _ _ => none
  | .scrub _ _ => none
  | .rowRepair _ _ => none
  | .tileRetirement _ => none
  | .reservedCopyRebuild _ _ => none
  | .winReq _ => none
  | .granuleGrant _ => none
  | .granuleRelease => none
  | .cxlMemRead _ => none
  | .cxlMemWrite _ _ => none
  | .read_ _ => none
  | .write_ _ => none
  | .msg _ => none
  | .readData _ => none
  | .writeAck _ => none
  | .msgAck _ => none
  | .messageTimeout _ _ => none
  | .reassemblyTimeout _ _ _ => none
  | .throttleWindow _ _ => none
  | .sqDoorbell _ _ => none
  | .cqDoorbell _ _ => none
  | .descriptorFetch _ _ => none
  | .completionWrite _ => none
  | .sqEnable _ _ => none
  | .sqDisable _ _ => none
  | .cqEnable _ _ => none
  | .cqDisable _ _ => none
  | .attn _ => none
  | .heldDiscard _ => none
  | .snetThrottle _ => none
  | .ceil _ => none
  | .flowEn _ => none
  | .tmuxCtl _ => none
  | .sel _ _ => none
  | .portEnable _ _ => none
  | .portDisable _ _ => none
  | .engineId _ => none
  | .route _ _ => none
  | .registerWrite _ _ _ => none
  | .perstAssert => none
  | .perstDeassert => none
  | .linkLoss => none
  | .functionLevelReset => none
  | .hotReset => none
  | .hostifReset => none
  | .nopDescriptor _ => none
  | .fenceAck _ => none
  | .progLoad _ => none
  | .progReconfig _ => none
  | .progRemove _ => none
  | .progReport _ => none
  | .progCounters _ => none
  | .memRead _ => none
  | .memWrite _ => none
  | .objRead _ => none
  | .objWrite _ => none
  | .streamXfer _ => none
  | .edgeSend _ => none
  | .edgeRecv _ => none
  | .collective _ => none
  | .pressTable _ => none
  | .peerDown _ => none
  | .peerUp _ => none
  | .logFetch _ => none
  | .leesFetch _ => none
  | .query _ => none
  | .reset _ => none
  | .disable _ => none
  | .enable _ => none
  | .evacuate _ => none
  | .watchSet _ => none
  | .readmit _ => none
  | .policySet _ => none
  | .fwLoad _ => none
  | .paramSupply _ => none
  | .topologySet _ => none
  | .certChain _ => none
  | .recordsFetch _ => none
  | .attest _ => none
  | .getChain _ => none
  | .unlockChallenge _ => none
  | .unlock _ => none
  | .fenceHalt _ => none
  | .domainReset _ _ => none
  | .mgmtReopen => none
  | .mgmtReopenTimeout => none
  | .programWatchExpiry _ => none
  | .sqWatchExpiry _ => none
  | .heartbeatWatch _ => none
  | .barrierStop _ => none
  | .barrierHalt _ => none
  | .barrierRestart _ => none
  | .barrierComplete _ => none
  | .placementDone _ => none
  | .searchLimit => none
  | .identityRead _ _ => none
  | .trainingDone _ _ => none
  | .trainingTimeout _ => none
  | .helloSend _ => none
  | .hello _ _ => none
  | .retrainDone _ _ => none
  | .failedRetry _ => none
  | .data _ _ => none
  | .idle _ _ => none
  | .nak _ _ => none
  | .replayTimeout _ => none
  | .edgeMsgPacket _ => none
  | .tack _ => none
  | .heartbeat _ => none
  | .tackTimer _ _ => none
  | .heartbeatSend _ => none
  | .transportTimeout _ => none
  | .heartbeatLost _ => none
  | .tsyncProbe _ => none
  | .tprobe _ _ => none
  | .treply _ _ => none
  | .probeTimeout _ => none
  | .cableRemoval _ => none
  | .cblOvercurrent _ => none
  | .reduceSegment _ _ => none
  | .gatherSegment _ _ => none
  | .sealNotice _ _ => none
  | .abort_ _ _ => none
  | .normExchange _ _ => none
  | .engineResetAssert => none
  | .inputLoss _ => none
  | .start_ _ => none
  | .stageEnd _ => none
  | .pbWaitTimeout => none
  | .topologyWaitTimeout => none
  | .readmitStageEnd _ => none
  | .pbData _ _ => none
  | .pbCommit => none
  | .pbAbort => none
  | .status => none
  | .fatalRead => none
  | .moduleId => none
  | .telemetry => none
  | .phyAccess _ _ => none
  | .idcode => none
  | .bypass => none
  | .holdBeat => none
  | .hostReadCompletion _ _ => none
  | .completionTimeout _ => none
  | .msixUnmask _ => none
  | .linkTrained _ _ _ => none
  | .hdmCommit => none
  | .retrainTimeout _ => none
  | .railRampEnd => none
  | .bufferMoveEnd _ => none
  | .standbyPowerOn => none
  | .standbyPowerOff => none
  | .tapReset => none
  | .boundaryScan _ _ => none

end Sys2Proof
end

