-- ==== Sys2Proof/Certificates/Slice0/Obligations.lean ====
section
/-! DEFINITION. The statements for the provers, each with the rules of the manual it formalises. -/

open Sys2Proof Sys2Proof.Machine

namespace Sys2Proof.Machine

/-- A command completes: it answers a next state, and that state has the property. -/
def Gives (c : Instr) (s : State) (P : State → Prop) : Prop := ∃ t, exec c s = .next t ∧ P t
/-- Attention event `b` is set in `t`, if MGMT is OPEN (R313; otherwise it is kept, R461). -/
def Notified (b : Nat) (s t : State) : Prop := isOpen s mgmtCode = true → t.hostif.events.getLsbD b = true
/-- The log of `t` holds a record with the property, if MGMT is OPEN (R413, R461). -/
def Recorded (s t : State) (P : ErrRec → Prop) : Prop := isOpen s mgmtCode = true → ∃ r ∈ t.log.recs, P r
/-- Only the power controller has changed. -/
def OnlyPower (s t : State) : Prop := { t with pwr := s.pwr } = s
/-- A domain is as a fence leaves it at once: CLOSING with its cause and the RSEQ of its record (R441, R447). -/
def Fencing (t : State) (c cause rseq : Nat) : Prop := (dom t c).st = .closing ∧ (dom t c).cause = cause ∧ (dom t c).rseq = rseq

/-- A descriptor stands before its start as the opcode `o`, nothing of its work done yet, and its SQ does not wait for FENCE_ACK (R301, R454). -/
structure Starts (s : State) (o : Nat) (d : DescRef) (x : Desc) : Prop where
  found : descOf s d = some x
  can   : canStart s o x = true
  free  : ((sqOf s d.sq).wait && sameEra s d) = false
  clean : x.fault = none
  kept  : x.dropped = false
/-- A descriptor names a slot with a resident program that is neither closing nor closed (R311, R441, R447). -/
structure OnProg (s : State) (x : Desc) (k : Fin 8) (g : Prog) : Prop where
  slot : slotOf x = some k
  prog : prog? s k = some g
  live : (dom s (progCode k.val)).st ≠ .closing ∧ (dom s (progCode k.val)).st ≠ .closed
/-- A read of host memory for a descriptor is under way (R422). -/
def Reads (t : State) (d : DescRef) (why : Why) (addr len : Nat) : Prop :=
  ∃ r ∈ t.hostif.reads, r.desc = d ∧ r.why = why ∧ r.addr = BitVec.ofNat 64 addr ∧ r.len = len ∧ .hostRead r.tag r.addr len ∈ t.out
/-- A descriptor's outcome is decided, with a status and a DETAIL (R310, R311). -/
def Ended (t : State) (d : DescRef) (status detail : Nat) : Prop :=
  ∃ y o, descOf t d = some y ∧ y.outc = some o ∧ o.status = status ∧ o.detail = detail
/-- A descriptor's outcome is decided with a status. -/
def EndedAs (t : State) (d : DescRef) (status : Nat) : Prop := ∃ n, Ended t d status n
/-- A unit of the service net has `n` tags free (R269): a request goes out at once only under a free tag. -/
def FreeTags (s : State) (u : BitVec 24) (n : Nat) : Prop :=
  n + (s.snet.reqs.filter fun r => r.unit == u).length + (s.snet.dead.filter fun d => d.1 == u).length ≤ 4096

end Sys2Proof.Machine

/-! ## The queue, every step, and the fuses -/

/-- A step takes the command at the front of the queue and runs it on the state with the queue's rest; on an empty queue one beat of the
clocks passes (the model's queue: log 1). -/
def Obligations.StepRunsFrontCommand : Prop :=
  ∀ (s : State) (c : Instr) (rest : List Instr),
    (s.pending = c :: rest → step s = exec c { s with pending := rest }) ∧ (s.pending = [] → step s = .next (tick s))

/-- Every command of the table has a next state in every state: no run stops, and a step takes exactly the front command off the queue
(the model's queue: log 1). -/
def Obligations.EveryStepHasNextState : Prop := ∀ s : State, ∃ t, step s = .next t ∧ t.pending = s.pending.tail

/-- R491: whatever happens, cold resets and losses of power among it, no step restores a fuse: the key digests, the device secret and the
fused names stay, the anti-rollback counter never falls and a revoked slot stays revoked. -/
def Obligations.FusesNeverRestored : Prop := ∀ s t : State, step s = .next t → FusesForward s t

/-- Every step keeps every tile memory in its canonical form, so that equal memories are equal data and a byte written reads back (R113; the form is the model's own, log 11). -/
def Obligations.MemoryStaysCanonical : Prop := ∀ s t : State, s.memWf = true → step s = .next t → t.memWf = true

/-- Reset has an empty queue, canonical memories, and the Reset values the setup registers give (R276, R353, R410, R434, R473, R532 to R534): PERST# held, every ring disabled with
LOG2 6 and weight 1, every domain OFF, every parcel OFF, ceiling OP7, the throttle's values, every edge port DISABLED. -/
def Obligations.ResetValues : Prop :=
  State.reset.pending = [] ∧ State.reset.memWf = true ∧ State.reset.hostif.perst = true ∧ State.reset.hostif.events = 0 ∧
  (∀ p : Fin 64, (State.reset.hostif.sqs[p]).en = false ∧ (State.reset.hostif.sqs[p]).log2 = 6 ∧ (State.reset.hostif.sqs[p]).weight = 1 ∧
    (State.reset.hostif.cqs[p]).en = false ∧ (State.reset.hostif.cqs[p]).log2 = 6) ∧
  (∀ c, (dom State.reset c).st = .off) ∧ (∀ p : Fin 12, (State.reset.parcels[p]).st = .off) ∧
  State.reset.pwr.ceil = 7 ∧ State.reset.pwr.flowEn = false ∧
  (State.reset.snet.thresh = 40 ∧ State.reset.snet.window = 1 ∧ State.reset.snet.floor = 4 ∧ State.reset.snet.en = true) ∧
  (∀ n : Fin 24, (State.reset.edge.ports[n]).st = .disabled ∧ (State.reset.edge.ports[n]).en = false) ∧
  State.reset.edge.engineId = 0xFF ∧ State.reset.boot.policy = 0 ∧ State.reset.boot.recurH = 24

/-! ## Decoding -/

/-- Decode and encode agree on every instruction of the core (R49 to R63, R70): each has a word, and that word decodes to it for its task, with every operand at
every value; and a word that decodes is exactly the word of the instruction it decodes to, an instruction of the task that fetched it. -/
def Obligations.DecodeAndEncodeAgree : Prop :=
  (∀ (i : Instr) (k : TaskAt), i.task = some k → ∃ w, encodeCore i = some w ∧ decodeCore k w = some i) ∧
  (∀ (k : TaskAt) (w : Word) (i : Instr), decodeCore k w = some i → i.task = some k ∧ encodeCore i = some w)

/-! ## The core: scalar instructions (R51, R66) -/

namespace Sys2Proof.Machine

/-- Register-register operations: constructor, beats until the result is usable, result. -/
def scalarTable : List ((TaskAt → Guard → BitVec 4 → BitVec 4 → BitVec 4 → Instr) × Nat × (Word → Word → Word)) :=
  [(.add, 1, fun a b => a + b), (.sub, 1, fun a b => a - b), (.and_, 1, fun a b => a &&& b), (.or_, 1, fun a b => a ||| b),
   (.xor_, 1, fun a b => a ^^^ b), (.shl, 1, fun a b => a <<< (b.extractLsb' 0 5).toNat), (.shr, 1, fun a b => a >>> (b.extractLsb' 0 5).toNat),
   (.sra, 1, fun a b => a.sshiftRight (b.extractLsb' 0 5).toNat), (.mul, 3, fun a b => a * b),
   (.mulhu, 3, fun a b => (a.setWidth 64 * b.setWidth 64).extractLsb' 32 32),
   (.min_, 1, fun a b => if a.toInt ≤ b.toInt then a else b), (.max_, 1, fun a b => if a.toInt ≤ b.toInt then b else a),
   (.minu, 1, fun a b => if a.toNat ≤ b.toNat then a else b), (.maxu, 1, fun a b => if a.toNat ≤ b.toNat then b else a)]

end Sys2Proof.Machine

/-- Each register-register operation that is due, passes its guard and waits for nothing completes: gd receives the result, usable after the
table's beats, the pc moves on, and nothing else changes (R51, R66). -/
def Obligations.ScalarRegisterResults : Prop :=
  ∀ op ∈ scalarTable, ∀ (k : TaskAt) (g : Guard) (gd ga gb : BitVec 4) (s : State),
    Due s k → Passes s k g → UsableG s k ga → UsableG s k gb → UsableG s k gd →
    ∃ t, exec (op.1 k g gd ga gb) s = .next t ∧ TaskFrame s t k ∧
      taskAt t k = { (taskAt s k).stepped with
        g := (taskAt s k).g.set (i4 gd) (op.2.2 (rdG (taskAt s k) ga) (rdG (taskAt s k) gb)),
        gReady := (taskAt s k).gReady.set (i4 gd) (s.beats.wrb + op.2.1) }

namespace Sys2Proof.Machine

/-- Immediate operations on a register: constructor and result. -/
def immTable : List ((TaskAt → Guard → BitVec 4 → BitVec 4 → BitVec 13 → Instr) × (Word → BitVec 13 → Word)) :=
  [(.addi, fun a i => a + i.signExtend 32), (.andi, fun a i => a &&& i.setWidth 32), (.ori, fun a i => a ||| i.setWidth 32),
   (.xori, fun a i => a ^^^ i.setWidth 32), (.shli, fun a i => a <<< (i.extractLsb' 0 5).toNat),
   (.shri, fun a i => a >>> (i.extractLsb' 0 5).toNat), (.srai, fun a i => a.sshiftRight (i.extractLsb' 0 5).toNat)]

end Sys2Proof.Machine

/-- Each immediate operation, LIL and LIH complete likewise: gd receives the result, usable in the next running beat (R51, R66). -/
def Obligations.ScalarImmediateResults : Prop :=
  (∀ op ∈ immTable, ∀ (k : TaskAt) (g : Guard) (gd ga : BitVec 4) (imm : BitVec 13) (s : State),
    Due s k → Passes s k g → UsableG s k ga → UsableG s k gd →
    ∃ t, exec (op.1 k g gd ga imm) s = .next t ∧ TaskFrame s t k ∧
      taskAt t k = { (taskAt s k).stepped with
        g := (taskAt s k).g.set (i4 gd) (op.2 (rdG (taskAt s k) ga) imm),
        gReady := (taskAt s k).gReady.set (i4 gd) (s.beats.wrb + 1) }) ∧
  ∀ (k : TaskAt) (g : Guard) (gd : BitVec 4) (imm : BitVec 16) (s : State), Due s k → Passes s k g → UsableG s k gd →
    (∃ t, exec (.lil k g gd imm) s = .next t ∧ TaskFrame s t k ∧
      taskAt t k = { (taskAt s k).stepped with
        g := (taskAt s k).g.set (i4 gd) (imm.setWidth 32), gReady := (taskAt s k).gReady.set (i4 gd) (s.beats.wrb + 1) }) ∧
    (∃ t, exec (.lih k g gd imm) s = .next t ∧ TaskFrame s t k ∧
      taskAt t k = { (taskAt s k).stepped with
        g := (taskAt s k).g.set (i4 gd) (imm ++ (rdG (taskAt s k) gd).extractLsb' 0 16),
        gReady := (taskAt s k).gReady.set (i4 gd) (s.beats.wrb + 1) })

namespace Sys2Proof.Machine

/-- Comparisons of two registers, comparisons with an immediate, and the predicate operations on two predicates. -/
def cmpTable : List ((TaskAt → Guard → BitVec 4 → BitVec 4 → BitVec 4 → Instr) × (Word → Word → Bool)) :=
  [(.ceq, fun a b => decide (a = b)), (.clt, fun a b => decide (a.toInt < b.toInt)), (.cltu, fun a b => decide (a.toNat < b.toNat))]
def cmpImmTable : List ((TaskAt → Guard → BitVec 4 → BitVec 4 → BitVec 13 → Instr) × (Word → Word → Bool)) :=
  [(.ceqi, fun a b => decide (a = b)), (.clti, fun a b => decide (a.toInt < b.toInt))]
def predTable : List ((TaskAt → Guard → BitVec 4 → BitVec 4 → BitVec 4 → Instr) × (Bool → Bool → Bool)) :=
  [(.pand, fun a b => a && b), (.por, fun a b => a || b)]

/-- A task after an own beat that writes a predicate: p0 discards the write (R39), another predicate takes the value, usable in the next
running beat. -/
def wrotePred (s : State) (k : TaskAt) (p : BitVec 2) (v : Bool) : Task :=
  if p = 0 then (taskAt s k).stepped
  else { (taskAt s k).stepped with
    p := (taskAt s k).p.set (i2 p) v, pReady := (taskAt s k).pReady.set (i2 p) (s.beats.wrb + 1) }

end Sys2Proof.Machine

/-- Comparisons and predicate operations whose predicate fields have their upper bits 0 complete: predicate gd[1:0] receives the result, p0
discards it, and nothing else changes (R39, R51, R66). -/
def Obligations.PredicateResults : Prop :=
  (∀ op ∈ cmpTable, ∀ (k : TaskAt) (g : Guard) (gd ga gb : BitVec 4) (s : State), gd.extractLsb' 2 2 = 0 →
    Due s k → Passes s k g → UsableG s k ga → UsableG s k gb → UsableP s k (gd.extractLsb' 0 2) →
    ∃ t, exec (op.1 k g gd ga gb) s = .next t ∧ TaskFrame s t k ∧
      taskAt t k = wrotePred s k (gd.extractLsb' 0 2) (op.2 (rdG (taskAt s k) ga) (rdG (taskAt s k) gb))) ∧
  (∀ op ∈ cmpImmTable, ∀ (k : TaskAt) (g : Guard) (gd ga : BitVec 4) (imm : BitVec 13) (s : State), gd.extractLsb' 2 2 = 0 →
    Due s k → Passes s k g → UsableG s k ga → UsableP s k (gd.extractLsb' 0 2) →
    ∃ t, exec (op.1 k g gd ga imm) s = .next t ∧ TaskFrame s t k ∧
      taskAt t k = wrotePred s k (gd.extractLsb' 0 2) (op.2 (rdG (taskAt s k) ga) (imm.signExtend 32))) ∧
  (∀ op ∈ predTable, ∀ (k : TaskAt) (g : Guard) (gd ga gb : BitVec 4) (s : State),
    gd.extractLsb' 2 2 = 0 → ga.extractLsb' 2 2 = 0 → gb.extractLsb' 2 2 = 0 →
    Due s k → Passes s k g → UsableP s k (ga.extractLsb' 0 2) → UsableP s k (gb.extractLsb' 0 2) → UsableP s k (gd.extractLsb' 0 2) →
    ∃ t, exec (op.1 k g gd ga gb) s = .next t ∧ TaskFrame s t k ∧
      taskAt t k = wrotePred s k (gd.extractLsb' 0 2)
        (op.2 (rdP (taskAt s k) (ga.extractLsb' 0 2)) (rdP (taskAt s k) (gb.extractLsb' 0 2)))) ∧
  (∀ (k : TaskAt) (g : Guard) (gd ga gb : BitVec 4) (s : State), gd.extractLsb' 2 2 = 0 → ga.extractLsb' 2 2 = 0 →
    Due s k → Passes s k g → UsableP s k (ga.extractLsb' 0 2) → UsableP s k (gd.extractLsb' 0 2) →
    ∃ t, exec (.pnot k g gd ga gb) s = .next t ∧ TaskFrame s t k ∧
      taskAt t k = wrotePred s k (gd.extractLsb' 0 2) (!rdP (taskAt s k) (ga.extractLsb' 0 2)))

/-! ## The core: branches and loops (R52 to R54, R66) -/

namespace Sys2Proof.Machine

/-- A taken branch: the next beats of the task are the branch's second own beat and then the target; the loop stack stays (the model's reading, log 74). -/
def branched (s : State) (k : TaskAt) (pc : BitVec 13) : Task := { (taskAt s k).stepped with pc := pc, loops := (taskAt s k).loops, skip := 1 }

end Sys2Proof.Machine

/-- BR and BAL complete when their guard is "always" or a segment is open, BRR inside a segment: pc becomes pc + off or ga[12:0], BAL writes
pc + 1 to gd, and the branch takes a second own beat (R52, R53, R66). -/
def Obligations.BranchResults : Prop :=
  ∀ (k : TaskAt) (g : Guard) (gd ga : BitVec 4) (off : BitVec 18) (s : State), Due s k → Passes s k g →
    (guardAlways g = true ∨ (taskAt s k).seg.isSome = true →
      (∃ t, exec (.br k g off) s = .next t ∧ TaskFrame s t k ∧ taskAt t k = branched s k ((taskAt s k).pc + off.setWidth 13)) ∧
      (UsableG s k gd → ∃ t, exec (.bal k g gd off) s = .next t ∧ TaskFrame s t k ∧
        taskAt t k = { branched s k ((taskAt s k).pc + off.setWidth 13) with
          g := (taskAt s k).g.set (i4 gd) (((taskAt s k).pc + 1).setWidth 32),
          gReady := (taskAt s k).gReady.set (i4 gd) (s.beats.wrb + 1) })) ∧
    ((taskAt s k).seg.isSome = true → UsableG s k ga →
      ∃ t, exec (.brr k g ga) s = .next t ∧ TaskFrame s t k ∧ taskAt t k = branched s k ((rdG (taskAt s k) ga).setWidth 13))

namespace Sys2Proof.Machine

/-- A task whose loop stack has received a loop over the `len + 1` instructions after its pc, with `left` passes to come after the first. -/
def looped (s : State) (k : TaskAt) (len : BitVec 8) (left : Nat) : Task :=
  { (taskAt s k).stepped with
    pc := (taskAt s k).pc + 1,
    loops := { first := (taskAt s k).pc + 1, last := (taskAt s k).pc + 1 + len.setWidth 13, left := left } :: (taskAt s k).loops }

end Sys2Proof.Machine

/-- LOOP and LOOPR with fewer than two loops open and a body whose held instructions pair their segments complete: the next len + 1
instructions repeat cnt + 1 or gc times; LOOPR, allowed inside a segment only, skips its body for 0 as a taken branch. The end of a body returns to its top while passes are
left, at no cost (R52 to R54, R66). -/
def Obligations.LoopResults : Prop :=
  (∀ (k : TaskAt) (g : Guard) (gc : BitVec 4) (cnt : BitVec 12) (len : BitVec 8) (s : State), Due s k → Passes s k g → guardAlways g = true →
    (taskAt s k).loops.length < 2 →
    bodyBad (tileAt s k.tile) (cfgAt s k) k (len.toNat + 1) ((taskAt s k).pc.toNat + 1) false = false →
    (∃ t, exec (.loop k g cnt len) s = .next t ∧ TaskFrame s t k ∧ taskAt t k = looped s k len cnt.toNat) ∧
    ((taskAt s k).seg.isSome = true → UsableG s k gc →
      ∃ t, exec (.loopr k g gc len) s = .next t ∧ TaskFrame s t k ∧
        if rdG (taskAt s k) gc = 0 then
          taskAt t k = { (taskAt s k).stepped with
            pc := (advLoop (taskAt s k).loops ((taskAt s k).pc + 1 + len.setWidth 13)).1,
            loops := (advLoop (taskAt s k).loops ((taskAt s k).pc + 1 + len.setWidth 13)).2, skip := 1 }
        else taskAt t k = looped s k len ((rdG (taskAt s k) gc).toNat - 1))) ∧
  (∀ (k : TaskAt) (g : Guard) (s : State) (e : LoopEnt) (l : List LoopEnt), Due s k → Passes s k g →
    (taskAt s k).loops = e :: l → e.last = (taskAt s k).pc → e.left ≠ 0 →
    ∃ t, exec (.nop k g) s = .next t ∧ TaskFrame s t k ∧
      taskAt t k = { taskAt s k with
        pc := e.first, loops := { e with left := e.left - 1 } :: l, own := (taskAt s k).own + 1,
        seg := (taskAt s k).seg.map fun e => (e.1, e.2 + 1) })

/-! ## The core: guards, waits and program faults (R43, R44, R49, R66, R77 to R79) -/

/-- For every instruction of the two register formats: a guard that fails uses the own beat without effect, the pc moves on and nothing else changes (R49); one that needs a
result before its usable beat waits, its own beat counted and nothing issued (R44, R66). -/
def Obligations.GuardAndInterlockResults : Prop :=
  (∀ op ∈ scalarTable, ∀ (k : TaskAt) (g : Guard) (gd ga gb : BitVec 4) (s : State),
    Due s k → UsableP s k g.gp → (rdP (taskAt s k) g.gp != (g.gs == 1)) = false →
    UsableG s k ga → UsableG s k gb → UsableG s k gd →
    ∃ t, exec (op.1 k g gd ga gb) s = .next t ∧ TaskFrame s t k ∧ taskAt t k = (taskAt s k).stepped) ∧
  (∀ op ∈ scalarTable, ∀ (k : TaskAt) (g : Guard) (gd ga gb : BitVec 4) (s : State), Due s k →
    (¬ UsableG s k ga ∨ ¬ UsableG s k gb ∨ ¬ UsableG s k gd ∨ ¬ UsableP s k g.gp) →
    ∃ t, exec (op.1 k g gd ga gb) s = .next t ∧ TaskFrame s t k ∧
      taskAt t k = { taskAt s k with own := (taskAt s k).own + 1, seg := (taskAt s k).seg.map fun e => (e.1, e.2 + 1) })

/-! ## The core: memory (R45, R47, R55 to R57, R66, R82, R117 to R119) -/

namespace Sys2Proof.Machine

/-- Narrow loads: constructor, kind, bytes, and the register's value from the bytes b0 to b3 at the address. -/
def loadTable : List ((TaskAt → Guard → BitVec 4 → BitVec 4 → BitVec 14 → Instr) × LoadKind × Nat × (Byte → Byte → Byte → Byte → Word)) :=
  [(.ldw, .w, 4, fun b0 b1 b2 b3 => b3 ++ b2 ++ b1 ++ b0), (.ldh, .h, 2, fun b0 b1 _ _ => (b1 ++ b0).signExtend 32),
   (.ldhu, .hu, 2, fun b0 b1 _ _ => (b1 ++ b0).setWidth 32), (.ldb, .b, 1, fun b0 _ _ _ => b0.signExtend 32),
   (.ldbu, .bu, 1, fun b0 _ _ _ => b0.setWidth 32)]
/-- Narrow stores: constructor and bytes. -/
def storeTable : List ((TaskAt → Guard → BitVec 4 → BitVec 4 → BitVec 14 → Instr) × Nat) := [(.stw, 4), (.sth, 2), (.stb, 1)]

/-- The relative address gb + off of a narrow access; the sum does not wrap. -/
def nAddr (s : State) (k : TaskAt) (gb : BitVec 4) (off : BitVec 14) : Nat := (rdG (taskAt s k) gb).toNat + off.toNat

end Sys2Proof.Machine

/-- A narrow load or store at an aligned address inside the task's local region, with the wide port free at issue + 1, completes: it claims
that port beat, its access is under way at physical byte 64 × LBASE + a for that beat, and a load's register is usable at issue + 3. No byte of memory
changes yet (R45, R47, R55, R66). -/
def Obligations.NarrowAccessesIssue : Prop :=
  ∀ (k : TaskAt) (g : Guard) (gv gb : BitVec 4) (off : BitVec 14) (s : State),
    Due s k → Passes s k g → UsableG s k gb → UsableG s k gv → WideFree s k (s.beats.wrb + 1) →
    (∀ op ∈ loadTable, nAddr s k gb off % op.2.2.1 = 0 → nAddr s k gb off + op.2.2.1 ≤ 64 * (cfgAt s k).lbound →
      ∃ t, exec (op.1 k g gv gb off) s = .next t ∧
        OwnFrame s t k (fun x => { x with
          wide := x.wide ++ [s.beats.wrb + 1],
          acts := x.acts ++ [{ due := s.beats.wrb + 1, early := false, by_ := byInstr k (op.1 k g gv gb off),
                               act := .load k.task (i4 gv) (64 * (cfgAt s k).lbase + nAddr s k gb off) op.2.1 }] }) s ∧
        taskAt t k = { (taskAt s k).stepped with gReady := (taskAt s k).gReady.set (i4 gv) (s.beats.wrb + 3) }) ∧
    (∀ op ∈ storeTable, nAddr s k gb off % op.2 = 0 → nAddr s k gb off + op.2 ≤ 64 * (cfgAt s k).lbound →
      ∃ t, exec (op.1 k g gv gb off) s = .next t ∧
        OwnFrame s t k (fun x => { x with
          wide := x.wide ++ [s.beats.wrb + 1],
          acts := x.acts ++ [{ due := s.beats.wrb + 1, early := false, by_ := byInstr k (op.1 k g gv gb off),
                               act := .store (64 * (cfgAt s k).lbase + nAddr s k gb off) op.2 (rdG (taskAt s k) gv) }] }) s ∧
        taskAt t k = (taskAt s k).stepped)

namespace Sys2Proof.Machine

/-- The physical byte of a relative address in a space, and the size of the task's region there (R45). -/
def physByte (c : TaskCfg) (sp : BitVec 1) (a : Nat) : Nat := if sp = 0 then 64 * c.lbase + a else 64 * c.cbase + a
def regionSize (c : TaskCfg) (sp : BitVec 1) : Nat := if sp = 0 then 64 * c.lbound else 64 * c.cbound
/-- The memory a space bit names. -/
def spaceBit (sp : BitVec 1) : MemSpace := if sp = 0 then .sram else .slab

/-- When line i of a RACK is read and written, with its wide-port beats and its slots, counted from issue (R117). -/
def rackTable (src dst : BitVec 1) (i : Nat) : Nat × Nat × List Nat × List Nat :=
  if src = 0 then (if dst = 0 then (1 + 2 * i, 2 + 2 * i, [1 + 2 * i, 2 + 2 * i], []) else (1 + 2 * i, 3 + 2 * i, [1 + 2 * i], [2 + 2 * i]))
  else (if dst = 0 then (2 + 2 * i, 6 + 2 * i, [6 + 2 * i], [1 + 2 * i]) else (2 + 4 * i, 4 + 4 * i, [], [1 + 4 * i, 3 + 4 * i]))

end Sys2Proof.Machine

/-- TOP, CMV and RACK (R45 to R48, R56, R57, R117, R119). TOP of gl bytes from gd, both multiples of 64, inside the task's region, with its port beats free, completes: one line write of the
pattern for each line, at its beat of R117; with gl = 0 it claims nothing. CMV completes likewise with one line read. RACK of gl bytes from gs to gd, all multiples of 64, completes: line i is
read and written at its beats of R117, in ascending order. -/
def Obligations.LineOperationsIssue : Prop :=
  (∀ (k : TaskAt) (g : Guard) (s : State), Due s k → Passes s k g →
    (∀ (dst : BitVec 1) (gd gs gl : BitVec 4), UsableG s k gd → UsableG s k gs → UsableG s k gl →
      let a := (rdG (taskAt s k) gd).toNat
      let len := (rdG (taskAt s k) gl).toNat
      let n := len / 64
      (len ≠ 0 → a % 64 = 0 ∧ len % 64 = 0 ∧ a + len ≤ regionSize (cfgAt s k) dst) →
      (∀ i, i < n → if dst = 0 then WideFree s k (s.beats.wrb + (1 + i)) else SlotFree s k (s.beats.wrb + (1 + 2 * i))) →
      ∃ t, exec (.top k g 0 dst gd gs gl) s = .next t ∧ taskAt t k = (taskAt s k).stepped ∧
        OwnFrame s t k (fun x => { x with
          wide := x.wide ++ (if dst = 0 then (List.range n).map fun i => s.beats.wrb + (1 + i) else []),
          slots := x.slots ++ (if dst = 0 then [] else (List.range n).map fun i => s.beats.wrb + (1 + 2 * i)),
          acts := x.acts ++ (List.range n).map fun i =>
            { due := if dst = 0 then s.beats.wrb + 1 + i else s.beats.wrb + 2 + 2 * i, early := false, by_ := byInstr k (.top k g 0 dst gd gs gl),
              act := .lineWrite (spaceBit dst) (physByte (cfgAt s k) dst a / 64 + i) (patternLine (rdG (taskAt s k) gs)) } }) s) ∧
    (∀ (dir : BitVec 1) (gl gc : BitVec 4) (lo co : BitVec 8), UsableG s k gl → UsableG s k gc →
      let la := (rdG (taskAt s k) gl).toNat + 64 * lo.toNat
      let ca := (rdG (taskAt s k) gc).toNat + 64 * co.toNat
      let b := s.beats.wrb
      la % 64 = 0 → ca % 64 = 0 → la + 64 ≤ 64 * (cfgAt s k).lbound → ca + 64 ≤ 64 * (cfgAt s k).cbound →
      (if dir = 0 then WideFree s k (b + 6) ∧ SlotFree s k (b + 1) else WideFree s k (b + 1) ∧ SlotFree s k (b + 2)) →
      ∃ t, exec (.cmv k g dir gl gc lo co) s = .next t ∧ taskAt t k = (taskAt s k).stepped ∧
        OwnFrame s t k (fun x =>
          let l := (64 * (cfgAt s k).lbase + la) / 64
          let c := (64 * (cfgAt s k).cbase + ca) / 64
          if dir = 0 then { x with
            wide := x.wide ++ [b + 6], slots := x.slots ++ [b + 1],
            acts := x.acts ++ [{ due := b + 2, early := false, by_ := byInstr k (.cmv k g dir gl gc lo co), act := .lineRead .slab c .sram l (b + 6) }] }
          else { x with
            wide := x.wide ++ [b + 1], slots := x.slots ++ [b + 2],
            acts := x.acts ++ [{ due := b + 1, early := false, by_ := byInstr k (.cmv k g dir gl gc lo co), act := .lineRead .sram l .slab c (b + 3) }] }) s)) ∧
  (∀ (k : TaskAt) (g : Guard) (src dst : BitVec 1) (gd gs gl : BitVec 4) (s : State), Due s k → Passes s k g →
    UsableG s k gd → UsableG s k gs → UsableG s k gl →
    let a := (rdG (taskAt s k) gs).toNat
    let d := (rdG (taskAt s k) gd).toNat
    let len := (rdG (taskAt s k) gl).toNat
    let n := len / 64
    let w := ((List.range n).flatMap fun i => (rackTable src dst i).2.2.1).map fun x => s.beats.wrb + x
    let p := ((List.range n).flatMap fun i => (rackTable src dst i).2.2.2).map fun x => s.beats.wrb + x
    (len ≠ 0 → a % 64 = 0 ∧ d % 64 = 0 ∧ len % 64 = 0 ∧ a + len ≤ regionSize (cfgAt s k) src ∧ d + len ≤ regionSize (cfgAt s k) dst) →
    (∀ b ∈ w, WideFree s k b) → (∀ b ∈ p, SlotFree s k b) →
    ∃ t, exec (.rack k g src dst gd gs gl) s = .next t ∧ taskAt t k = (taskAt s k).stepped ∧
      OwnFrame s t k (fun x => { x with
        wide := x.wide ++ w, slots := x.slots ++ p,
        acts := x.acts ++ (List.range n).map fun i =>
          { due := s.beats.wrb + (rackTable src dst i).1, early := false, by_ := byInstr k (.rack k g src dst gd gs gl),
            act := .lineRead (spaceBit src) (physByte (cfgAt s k) src a / 64 + i) (spaceBit dst) (physByte (cfgAt s k) dst d / 64 + i)
              (s.beats.wrb + (rackTable src dst i).2.1) } }) s)

/-! ## The core: vectors (R58, R66, R97 to R105) -/

namespace Sys2Proof.Machine

/-- Lane `i` of a register in shape W, as a number. -/
def laneAt (w : BitVec 1) (v : Line) (i : Nat) : Nat := if w = 0 then (v.extractLsb' (32 * i) 32).toNat else (v.extractLsb' (16 * i) 16).toNat
/-- A register from its lanes. -/
def ofLanes (w : BitVec 1) (f : Nat → Nat) : Line := packLanes w ((List.range (laneCount w)).map f)
/-- The task after a vector instruction that writes `v` to vd, usable `lat` beats after issue. -/
def vectorTask (s : State) (k : TaskAt) (vd : BitVec 3) (v : Line) (lat : Nat) : Machine.Task :=
  { (taskAt s k).stepped with v := (taskAt s k).v.set (i3 vd) v, vReady := (taskAt s k).vReady.set (i3 vd) (s.beats.wrb + lat) }

/-- Rounding operations on three lanes: constructor, whether vc is a source, exact result. -/
def arithTable : List ((TaskAt → Guard → VR → Instr) × Bool × (Nat → Val → Val → Val → Val)) :=
  [(.vadd, false, fun n a b _ => addVal n a b), (.vsub, false, fun n a b _ => addVal n a (negVal b)), (.vmul, false, fun _ a b _ => mulVal a b),
   (.vfma, true, fun n a b c => addVal n (mulVal a b) c)]

end Sys2Proof.Machine

/-- VADD, VSUB, VMUL and VFMA complete: each lane of vd is the exact result of its lanes rounded once with RND, in ascending lane order one
draw for each lane when RND is 3 and none otherwise, usable at issue + 4 (R58, R66, R101, R104). A residue error in the vector unit leaves the result as
computed and gives one SUSPECT record that names the core and the task (R108, R109). -/
def Obligations.VectorArithmeticResults : Prop :=
  ∀ op ∈ arithTable, ∀ (k : TaskAt) (g : Guard) (r : VR) (s : State), Due s k → Passes s k g →
    UsableV s k r.va → UsableV s k r.vb → UsableV s k r.vd → (op.2.1 = true → UsableV s k r.vc) →
    let f := laneFmt r.w
    let d := drawsFor r.rnd.toNat (laneCount r.w) (tileAt s k.tile).rng
    let x (v : BitVec 3) (i : Nat) : Val := decodeVal f (laneAt r.w (rdV (taskAt s k) v) i)
    let y := vectorTask s k r.vd
      (ofLanes r.w fun i => roundTo f r.rnd.toNat (d.1.getD i 0) (op.2.2 r.rnd.toNat (x r.va i) (x r.vb i) (x r.vc i))) 4
    (∃ t, exec (op.1 k g r) s = .next t ∧ OwnFrame s t k (fun y => { y with rng := d.2 }) s ∧ taskAt t k = y) ∧
    ∃ t, exec (op.1 k g r) (updTile k.tile (fun z => { z with residue := [4] }) s) = .next t ∧ taskAt t k = y ∧ (tileAt t k.tile).residue = [] ∧
      Notified 6 s t ∧ Recorded s t fun e => e.src = 0x06 ∧ e.sev = 3 ∧ e.info = 4 ∧ e.lcol = k.tile.col.val ∧ e.task = k.task.val

namespace Sys2Proof.Machine

/-- All ones in a lane of `n` bits where the condition holds, else zeros. -/
def laneMask (n : Nat) (c : Bool) : Nat := if c then 2 ^ n - 1 else 0
/-- The lesser (or greater) of two lanes; the canonical NaN if either is NaN. -/
def lesser (f : Fmt) (least : Bool) (a b : Nat) : Nat :=
  match decodeVal f a, decodeVal f b with
  | .nan, _ => canonNaN f
  | _, .nan => canonNaN f
  | x, y => if leVal x y = least then a else b

/-- Operations on lanes that do not round: constructor, sources, result. -/
def pickTable : List ((TaskAt → Guard → VR → Instr) × (VR → List (BitVec 3)) × (Fmt → Nat → Nat → Nat → Nat)) :=
  [(.vmin, fun r => [r.va, r.vb], fun f a b _ => lesser f true a b), (.vmax, fun r => [r.va, r.vb], fun f a b _ => lesser f false a b),
   (.vabs, fun r => [r.va], fun f a _ _ => a % 2 ^ (f.width - 1)),
   (.vneg, fun r => [r.va], fun f a _ _ => if a < 2 ^ (f.width - 1) then a + 2 ^ (f.width - 1) else a - 2 ^ (f.width - 1)),
   (.vcmpeq, fun r => [r.va, r.vb], fun f a b _ => laneMask f.width (eqVal (decodeVal f a) (decodeVal f b))),
   (.vcmplt, fun r => [r.va, r.vb], fun f a b _ => laneMask f.width (ltVal (decodeVal f a) (decodeVal f b))),
   (.vcmple, fun r => [r.va, r.vb], fun f a b _ =>
     laneMask f.width (ltVal (decodeVal f a) (decodeVal f b) || eqVal (decodeVal f a) (decodeVal f b))),
   (.vsel, fun r => [r.va, r.vb, r.vc], fun f a b c => if 2 ^ (f.width - 1) ≤ c then a else b)]

end Sys2Proof.Machine

/-- VMIN, VMAX, VABS, VNEG, the compares and VSEL complete lane by lane, usable at issue + 4, and take no draw (R58, R66, R101, R104). -/
def Obligations.VectorLaneResults : Prop :=
  ∀ op ∈ pickTable, ∀ (k : TaskAt) (g : Guard) (r : VR) (s : State), Due s k → Passes s k g →
    (∀ v ∈ op.2.1 r, UsableV s k v) → UsableV s k r.vd →
    let x (v : BitVec 3) (i : Nat) : Nat := laneAt r.w (rdV (taskAt s k) v) i
    ∃ t, exec (op.1 k g r) s = .next t ∧ TaskFrame s t k ∧
      taskAt t k = vectorTask s k r.vd (ofLanes r.w fun i => op.2.2 (laneFmt r.w) (x r.va i) (x r.vb i) (x r.vc i)) 4

/-- VCVT and VCVTI with legal fields complete, 16 or 32 elements at a time with one draw for each under RND 3, usable at issue + 4; VFUNC with
a defined function completes lane by lane without draws, and VRSUM sums the lanes by the fixed tree into lane 0 with one draw for each addition,
both usable at issue + 6 (R58, R66, R101 to R105). -/
def Obligations.ConversionAndSumResults : Prop :=
  ∀ (k : TaskAt) (g : Guard) (r : VR) (s : State), Due s k → Passes s k g → UsableV s k r.va → UsableV s k r.vd →
    let lf := laneFmt r.w
    let ef := (fmtOf r.f.toNat).getD fp32
    let n := (cvtLanes r).1
    let h := (cvtLanes r).2
    let va := rdV (taskAt s k) r.va
    (cvtBad r = false →
      let d := drawsFor r.rnd.toNat n (tileAt s k.tile).rng
      (∃ t, exec (.vcvt k g r) s = .next t ∧ OwnFrame s t k (fun y => { y with rng := d.2 }) s ∧
        taskAt t k = vectorTask s k r.vd (BitVec.ofNat 512 (packN ef.width
          ((List.range n).map fun i => convF lf ef r.rnd.toNat (d.1.getD i 0) (laneAt r.w va (h + i))))) 4) ∧
      (∃ t, exec (.vcvti k g r) s = .next t ∧ OwnFrame s t k (fun y => { y with rng := d.2 }) s ∧
        taskAt t k = vectorTask s k r.vd (ofLanes r.w fun i =>
          if h ≤ i ∧ i < h + n then convF ef lf r.rnd.toNat (d.1.getD (i - h) 0) (elem ef.width va (i - h))
          else laneAt r.w (rdV (taskAt s k) r.vd) i) 4)) ∧
    (r.f.toNat < 10 →
      ∃ t, exec (.vfunc k g r) s = .next t ∧ TaskFrame s t k ∧
        taskAt t k = vectorTask s k r.vd (ofLanes r.w fun i =>
          if r.w = 0 then vfuncLane r.f.toNat (laneAt r.w va i)
          else convF fp32 bf16 0 0 (vfuncLane r.f.toNat (convF bf16 fp32 0 0 (laneAt r.w va i)))) 6) ∧
    (let d := drawsFor r.rnd.toNat (laneCount r.w - 1) (tileAt s k.tile).rng
     ∃ t, exec (.vrsum k g r) s = .next t ∧ OwnFrame s t k (fun y => { y with rng := d.2 }) s ∧
       taskAt t k = vectorTask s k r.vd (packLanes r.w
         [sumTree lf r.rnd.toNat (if r.w = 0 then 4 else 5) ((List.range (laneCount r.w)).map (laneAt r.w va)) d.1]) 6)

/-- VBCAST, VEXT and VINS complete (a lane above 15 is legal only in shape W = 1), usable at issue + 2; VLD and VST of 64 aligned bytes in the local
region claim the wide port at issue + 1 (R58, R66). -/
def Obligations.VectorRegisterResults : Prop :=
  ∀ (k : TaskAt) (g : Guard) (v : BitVec 3) (gr : BitVec 4) (lane : BitVec 5) (w : BitVec 1) (off : BitVec 12) (s : State),
    Due s k → Passes s k g → UsableG s k gr → UsableV s k v →
    let x := rdG (taskAt s k) gr
    let l := rdV (taskAt s k) v
    let a := x.toNat + 64 * off.toNat
    let line := (64 * (cfgAt s k).lbase + a) / 64
    (∃ t, exec (.vbcast k g v gr w) s = .next t ∧ TaskFrame s t k ∧
      taskAt t k = vectorTask s k v (ofLanes w fun _ => if w = 0 then x.toNat else x.toNat % 2 ^ 16) 2) ∧
    (w = 1 ∨ lane.toNat < 16 →
      (∃ t, exec (.vext k g v gr lane w) s = .next t ∧ TaskFrame s t k ∧
        taskAt t k = { (taskAt s k).stepped with
          g := (taskAt s k).g.set (i4 gr) (BitVec.ofNat 32 (laneAt w l lane.toNat)),
          gReady := (taskAt s k).gReady.set (i4 gr) (s.beats.wrb + 2) }) ∧
      (∃ t, exec (.vins k g v gr lane w) s = .next t ∧ TaskFrame s t k ∧ ∃ y,
        taskAt t k = vectorTask s k v y 2 ∧ ∀ i, i < laneCount w →
          laneAt w y i = if i = lane.toNat then (if w = 0 then x.toNat else x.toNat % 2 ^ 16) else laneAt w l i)) ∧
    (a % 64 = 0 → a + 64 ≤ 64 * (cfgAt s k).lbound → WideFree s k (s.beats.wrb + 1) →
      (∃ t, exec (.vld k g v gr off) s = .next t ∧
        OwnFrame s t k (fun y => { y with
          wide := y.wide ++ [s.beats.wrb + 1],
          acts := y.acts ++ [{ due := s.beats.wrb + 1, early := false, by_ := byInstr k (.vld k g v gr off), act := .vload k.task (i3 v) line }] }) s ∧
        taskAt t k = { (taskAt s k).stepped with vReady := (taskAt s k).vReady.set (i3 v) (s.beats.wrb + 3) }) ∧
      (∃ t, exec (.vst k g v gr off) s = .next t ∧
        OwnFrame s t k (fun y => { y with
          wide := y.wide ++ [s.beats.wrb + 1],
          acts := y.acts ++ [{ due := s.beats.wrb + 1, early := false, by_ := byInstr k (.vst k g v gr off), act := .vstore line l }] }) s ∧
        taskAt t k = (taskAt s k).stepped))

/-! ## The core: streams (R60 to R62, R66, R177 to R182) -/

namespace Sys2Proof.Machine

/-- A task that has read or written a predicate in the present own beat, as `wrotePred`, usable `lat` beats after issue. -/
def wrotePredAt (s : State) (k : TaskAt) (p : BitVec 2) (v : Bool) (lat : Nat) : Machine.Task :=
  if p = 0 then (taskAt s k).stepped
  else { (taskAt s k).stepped with
    p := (taskAt s k).p.set (i2 p) v, pReady := (taskAt s k).pReady.set (i2 p) (s.beats.wrb + lat) }

end Sys2Proof.Machine

/-- Sends and receives (R60 to R62, R66, R179, R180). SEND and SENDM on a sending channel in its slot complete: on a timed channel, or a credited one with credit, the word goes out (one credit spent)
and pn is 1; without credit nothing is sent and pn is 0. SEND's word is a quarter of v, on the C input of the next running beat; SENDM reads 16 aligned bytes at issue + 1. RECV and RECVM on a
receiving channel in its slot complete: the capture is under way for the next running beat, and pn (and v) are usable at issue + 2. -/
def Obligations.StreamAccessesComplete : Prop :=
  (∀ (k : TaskAt) (g : Guard) (ch : BitVec 3) (pn : BitVec 2) (v : BitVec 3) (q : BitVec 2) (gr : BitVec 4) (off : BitVec 13) (s : State),
    Due s k → Passes s k g → UsableP s k pn →
    let c := (tileAt s k.tile).chans[i3 ch]
    let sent := !c.cfg.cred || decide (c.credit ≠ 0)
    let spend (y : Tile) : Tile :=
      if c.cfg.cred && sent then { y with chans := y.chans.set (i3 ch) { c with credit := c.credit - 1 } } else y
    let b := s.beats.wrb
    c.cparity = false →
    (UsableV s k v → chanFaults s k ch 1 false = [] →
      ∃ t, exec (.send k g ch pn v q) s = .next t ∧ taskAt t k = wrotePredAt s k pn sent 1 ∧
        OwnFrame s t k spend (if sent then { s with
          links := s.links ++ [{ dst := k.tile, port := 4, beat := b + 1,
                                 word := { data := (rdV (taskAt s k) v).extractLsb' (128 * q.toNat) 128, v := true,
                                           ep := epochAt s k.tile, bad := 0 } }] } else s)) ∧
    (let a := (rdG (taskAt s k) gr).toNat + 16 * off.toNat
     UsableG s k gr → chanFaults s k ch 2 false = [] → a % 16 = 0 → a + 16 ≤ 64 * (cfgAt s k).lbound → WideFree s k (b + 1) →
      ∃ t, exec (.sendm k g ch pn gr off) s = .next t ∧ taskAt t k = wrotePredAt s k pn sent 1 ∧
        OwnFrame s t k (fun y =>
          let y := spend { y with wide := y.wide ++ [b + 1] }
          if sent then { y with
            acts := y.acts ++ [{ due := b + 1, early := false, by_ := byInstr k (.sendm k g ch pn gr off), act := .sendRead (64 * (cfgAt s k).lbase + a) (epochAt s k.tile) }] }
          else y) s)) ∧
  (∀ (k : TaskAt) (g : Guard) (ch : BitVec 3) (pn : BitVec 2) (v : BitVec 3) (q : BitVec 2) (gr : BitVec 4) (off : BitVec 13) (s : State),
    Due s k → Passes s k g → UsableP s k pn → chanFaults s k ch 1 true = [] →
    let b := s.beats.wrb
    let ready := if pn = 0 then (taskAt s k).pReady else (taskAt s k).pReady.set (i2 pn) (b + 2)
    (UsableV s k v →
      ∃ t, exec (.recv k g ch pn v q) s = .next t ∧
        taskAt t k = { (taskAt s k).stepped with pReady := ready, vReady := (taskAt s k).vReady.set (i3 v) (b + 2) } ∧
        OwnFrame s t k (fun y => { y with
          acts := y.acts ++ [{ due := b + 1, early := false, by_ := byInstr k (.recv k g ch pn v q), act := .capture k.task (i3 ch) (i2 pn) (i3 v) q.toNat }] }) s) ∧
    (let a := (rdG (taskAt s k) gr).toNat + 16 * off.toNat
     UsableG s k gr → a % 16 = 0 → a + 16 ≤ 64 * (cfgAt s k).lbound → WideFree s k (b + 2) →
      ∃ t, exec (.recvm k g ch pn gr off) s = .next t ∧ taskAt t k = { (taskAt s k).stepped with pReady := ready } ∧
        OwnFrame s t k (fun y => { y with
          wide := y.wide ++ [b + 2],
          acts := y.acts ++ [{ due := b + 1, early := false, by_ := byInstr k (.recvm k g ch pn gr off), act := .captureMem k.task (i3 ch) (i2 pn) (64 * (cfgAt s k).lbase + a) }] }) s))

/-- A capture on a timed channel delivers the C output of its beat and sets pn; on a credited channel it pops the queue's oldest word and sets pn, or, the
queue being empty, writes nothing and clears pn; p0 discards it (R62, R180). -/
def Obligations.CaptureDelivers : Prop :=
  ∀ (t : TileAt) (who : Reader) (task : Fin 4) (ch : Fin 8) (pn : Fin 4) (v : Fin 8) (q : Nat) (s : State), q < 4 →
    let c := (tileAt s t).chans[ch]
    let k : TaskAt := { tile := t, task := task }
    let s' := runAct t who (.capture task ch pn v q) s
    let word (d : Quad) : Prop :=
      ((taskAt s' k).v[v]).extractLsb' (128 * q) 128 = d ∧
      (∀ r, r ≠ q → r < 4 → ((taskAt s' k).v[v]).extractLsb' (128 * r) 128 = ((taskAt s k).v[v]).extractLsb' (128 * r) 128) ∧
      (∀ u : Fin 8, u ≠ v → (taskAt s' k).v[u] = (taskAt s k).v[u])
    (c.cfg.cred = false → word (tileAt s t).router.cOut.data ∧ (pn ≠ 0 → (taskAt s' k).p[pn] = true)) ∧
    (∀ w l, c.cfg.cred = true → c.queue = w :: l →
      word w.data ∧ ((tileAt s' t).chans[ch]).queue = l ∧ (pn ≠ 0 → (taskAt s' k).p[pn] = true)) ∧
    (c.cfg.cred = true → c.queue = [] →
      (taskAt s' k).v = (taskAt s k).v ∧ (pn ≠ 0 → (taskAt s' k).p[pn] = false) ∧ (taskAt s' k).g = (taskAt s k).g)

/-! ## The core: steering, segments and counters (R63 to R69, R247, R248) -/

/-- NOP, SEG, SEGE, HALT, RDCNT and LDCODE complete: NOP does nothing; SEG opens a segment of which its own beat is the first; SEGE at own beat k ≤ n
pads the rest; HALT outside a segment stops the task; RDCNT reads its counter; LDCODE reads 64 aligned bytes for a line that does not hold it (R63 to R69). -/
def Obligations.SteeringResults : Prop :=
  ∀ (k : TaskAt) (g : Guard) (s : State), Due s k → Passes s k g →
    (∃ t, exec (.nop k g) s = .next t ∧ TaskFrame s t k ∧ taskAt t k = (taskAt s k).stepped) ∧
    (guardAlways g = true →
      (∀ n : BitVec 16, n ≠ 0 → (taskAt s k).seg = none →
        ∃ t, exec (.seg k g n) s = .next t ∧ TaskFrame s t k ∧ taskAt t k = { (taskAt s k).stepped with seg := some (n.toNat, 1) }) ∧
      (∀ n m, (taskAt s k).seg = some (n, m) →
        ∃ t, exec (.sege k g) s = .next t ∧ TaskFrame s t k ∧ taskAt t k = { (taskAt s k).stepped with seg := none, pad := n - (m + 1) }) ∧
      ((taskAt s k).seg = none →
        ∃ t, exec (.halt k g) s = .next t ∧ TaskFrame s t k ∧ taskAt t k = { (taskAt s k).stepped with halted := true }) ∧
      (∀ (line : BitVec 4) (cl : BitVec 9),
        let c := cfgAt s k
        let a := 4 * c.ibase + 64 * cl.toNat
        line.toNat < c.lbCount → lineOf (tileAt s k.tile) c (taskAt s k).pc.toNat ≠ some line.toNat →
        a % 64 = 0 → a + 64 ≤ 64 * c.lbound → WideFree s k (s.beats.wrb + 1) →
        ∃ t, exec (.ldcode k g line cl) s = .next t ∧ taskAt t k = (taskAt s k).stepped ∧
          OwnFrame s t k (fun y => { y with
            wide := y.wide ++ [s.beats.wrb + 1],
            acts := y.acts ++ [{ due := s.beats.wrb + 1, early := false, by_ := byInstr k (.ldcode k g line cl),
                                 act := .codeRead (c.lbFirst + line.toNat) (16 * cl.toNat) (64 * c.lbase + a) }] }) s)) ∧
    (∀ gd sel : BitVec 4, sel.toNat < 6 → UsableG s k gd →
      ∃ t, exec (.rdcnt k g gd sel) s = .next t ∧ TaskFrame s t k ∧
        let x := tileAt s k.tile
        let v := match sel.toNat with
          | 0 => beatAt s k.tile % 2 ^ 32
          | 1 => beatAt s k.tile / 2 ^ 32 % 2 ^ 32
          | 2 => ((taskAt s k).own + 1) % 2 ^ 32
          | 3 => x.inexact
          | 4 => x.prow
          | _ => x.pcol
        taskAt t k = { (taskAt s k).stepped with
          g := (taskAt s k).g.set (i4 gd) (BitVec.ofNat 32 v), gReady := (taskAt s k).gReady.set (i4 gd) (s.beats.wrb + 1) })

/-- At its port beat a narrow load puts the little-endian bytes at its address into its register, sign- or zero-extended, and a narrow store writes its register's low bytes there, lowest first,
and no other byte of the tile; a load touches no memory (R55, R82). At its beats a line operation reads its line and writes it as it was read: a line read schedules the write of the line's contents, and a line write stores its 64 bytes
and no other (R57, R117, R119). An LDCODE's line keeps its old contents through issue + 2: the read at issue + 1 puts the 64 bytes with their tag into the line from the start of the second
beat after it (R65). The lines' check words hold no error. -/
def Obligations.MemoryActsTakeEffect : Prop :=
  (∀ (t : TileAt) (who : Reader) (s : State) (addr : Nat),
    (∀ op ∈ loadTable, ∀ (task : Fin 4) (gv : Fin 16),
      (tileAt s t).ecc.filter (touched .sram addr op.2.2.1) = [] →
      let s' := runAct t who (.load task gv addr op.2.1) s
      let b (i : Nat) : Byte := readByte (tileAt s t).sram (addr + i)
      taskAt s' { tile := t, task := task } =
        { taskAt s { tile := t, task := task } with
          g := (taskAt s { tile := t, task := task }).g.set gv (op.2.2.2 (b 0) (b 1) (b 2) (b 3)) } ∧
      ∀ u m a, readByte (memOf (tileAt s' u) m) a = readByte (memOf (tileAt s u) m) a) ∧
    (∀ op ∈ storeTable, ∀ data : Word, Memory.wf (tileAt s t).sram →
      let s' := runAct t who (.store addr op.2 data) s
      (∀ i, i < op.2 → readByte (tileAt s' t).sram (addr + i) = data.extractLsb' (8 * i) 8) ∧
      (∀ a, (a < addr ∨ addr + op.2 ≤ a) → readByte (tileAt s' t).sram a = readByte (tileAt s t).sram a) ∧
      (∀ a, readByte (tileAt s' t).slab a = readByte (tileAt s t).slab a) ∧ (∀ u, u ≠ t → tileAt s' u = tileAt s u) ∧
      Memory.wf (tileAt s' t).sram)) ∧
  (∀ (t : TileAt) (who : Reader) (s : State) (sp dsp : MemSpace) (line dline wr : Nat) (v : Line),
    ((tileAt s t).ecc.filter (touched sp (64 * line) 64) = [] →
      runAct t who (.lineRead sp line dsp dline wr) s =
        schedule t wr false who (.lineWrite dsp dline (readLine (memOf (tileAt s t) sp) line)) s) ∧
    (Memory.wf (memOf (tileAt s t) sp) →
      let s' := runAct t who (.lineWrite sp line v) s
      (∀ i, i < 64 → readByte (memOf (tileAt s' t) sp) (64 * line + i) = v.extractLsb' (8 * i) 8) ∧
      (∀ a, (a < 64 * line ∨ 64 * line + 64 ≤ a) → readByte (memOf (tileAt s' t) sp) a = readByte (memOf (tileAt s t) sp) a) ∧
      (∀ m, m ≠ sp → memOf (tileAt s' t) m = memOf (tileAt s t) m) ∧ (∀ u, u ≠ t → tileAt s' u = tileAt s u) ∧
      Memory.wf (memOf (tileAt s' t) sp))) ∧
  (∀ (t : TileAt) (who : Reader) (line tag addr : Nat) (data : Line) (s : State),
    ((tileAt s t).ecc.filter (touched .sram addr 64) = [] →
      runAct t who (.codeRead line tag addr) s =
        schedule t (s.beats.wrb + 2) true who (.codeInstall line tag (BitVec.ofNat 512 (readLE (tileAt s t).sram addr 64))) s) ∧
    (line < 16 →
      let s' := runAct t who (.codeInstall line tag data) s
      (tileAt s' t).code[line]? = some { tag := some tag, words := data } ∧
      (∀ j, j ≠ line → (tileAt s' t).code[j]? = (tileAt s t).code[j]?) ∧ (tileAt s' t).tasks = (tileAt s t).tasks ∧
      (tileAt s' t).sram = (tileAt s t).sram ∧ ∀ u, u ≠ t → tileAt s' u = tileAt s u))

/-- ITER completes: issued by the program's marker task at program beat b, the first closes the fill and each later one adds an iteration and sets
BEATS_RUN to the beats since the first; issued by another task it counts nothing (R63, R247, R248). -/
def Obligations.IterCountsAtMarker : Prop :=
  ∀ (k : TaskAt) (g : Guard) (s : State) (p : Prog), Due s k → Passes s k g → prog? s (tileAt s k.tile).pslot = some p →
    ((p.place.mkTile ≠ k.tile ∨ p.place.mkTask ≠ k.task) →
      ∃ t, exec (.iter k g) s = .next t ∧ TaskFrame s t k ∧ taskAt t k = (taskAt s k).stepped) ∧
    (p.place.mkTile = k.tile → p.place.mkTask = k.task →
      ∃ t q, exec (.iter k g) s = .next t ∧ taskAt t k = (taskAt s k).stepped ∧ prog? t (tileAt s k.tile).pslot = some q ∧
        (p.firstM = none → q.firstM = some (progBeat s p) ∧ q.iters = p.iters ∧ q.beatsRun = p.beatsRun) ∧
        (∀ f, p.firstM = some f → q.firstM = some f ∧ q.iters = (p.iters + 1) % 2 ^ 64 ∧ q.beatsRun = (progBeat s p - f) % 2 ^ 64) ∧
        (∀ j : Fin 8, j ≠ (tileAt s k.tile).pslot → prog? t j = prog? s j))

/-! ## The core: the matrix unit (R70 to R76, R86 to R95) -/

/-- MLDS and MMA of the matrix owner (R66, R70 to R74, R542). An MLDS of a format that its mode loads, from aligned local bytes, with its port beats free, completes: entry e is usable at issue + 3,
or + 4 in the sparse modes 2, 3 and 5. An MMA of two loaded entries of one class, with blk in the class's range and the unit free, completes: rep + 1 product beats from the beat after issue, with
slices (sa + i) mod 8 and (sb + i) mod 8, busy to the last and complete three beats after it. -/
def Obligations.MatrixIssues : Prop :=
  (∀ (k : TaskAt) (g : Guard) (e mode : BitVec 3) (ga gb fmt off : BitVec 4) (s : State), Due s k → Passes s k g →
    UsableG s k ga → UsableG s k gb → (tileAt s k.tile).mown = k.task →
    let m := mode.toNat
    let sparse : Bool := m == 2 || m == 3 || m == 5
    let b := s.beats.wrb
    let u := if sparse then b + 4 else b + 3
    let a := (rdG (taskAt s k) ga).toNat + 64 * off.toNat
    let r := (rdG (taskAt s k) gb).toNat
    let n := if m = 3 then 32 else 16
    m < 6 → fmt ≠ 15 → (m = 0 → gb = 0) → loadable m fmt.toNat = true → breaksClass (tileAt s k.tile) (i3 e) fmt.toNat u = false →
    a % 64 = 0 → a + (if sparse then 64 else valueBytes fmt.toNat) ≤ 64 * (cfgAt s k).lbound →
    (sparse = true → r % n = 0 ∧ r + n ≤ 64 * (cfgAt s k).lbound ∧ WideFree s k (b + 2)) → WideFree s k (b + 1) →
    ∃ t, exec (.mlds k g e mode ga gb fmt off) s = .next t ∧ taskAt t k = (taskAt s k).stepped ∧
      OwnFrame s t k (fun y => { y with
        wide := y.wide ++ (if sparse then [b + 1, b + 2] else [b + 1]), stageReady := y.stageReady.set (i3 e) u,
        acts := y.acts ++ [{ due := b + 1, early := false, by_ := byInstr k (.mlds k g e mode ga gb fmt off),
                             act := .stageRead (i3 e) m fmt ((64 * (cfgAt s k).lbase + a) / 64) (rdG (taskAt s k) gb)
                               (64 * (cfgAt s k).lbase + r) }] }) s) ∧
  (∀ (k : TaskAt) (g : Guard) (ea eb sa sb rep : BitVec 3) (blk : BitVec 4) (s : State) (c : Nat), Due s k → Passes s k g →
    (tileAt s k.tile).mown = k.task → mmaClass (tileAt s k.tile) ea eb = some c →
    blk.toNat ≤ (if c = 4 then 3 else if c = 5 then 15 else 0) →
    (tileAt s k.tile).mmaBusy ≤ s.beats.wrb → (tileAt s k.tile).stageReady[i3 ea] ≤ s.beats.wrb → (tileAt s k.tile).stageReady[i3 eb] ≤ s.beats.wrb →
    ∃ t, exec (.mma k g ea eb sa sb rep blk) s = .next t ∧ taskAt t k = (taskAt s k).stepped ∧
      OwnFrame s t k (fun y => { y with
        mmaBusy := s.beats.wrb + 1 + rep.toNat, mmaDone := s.beats.wrb + 1 + rep.toNat + 3,
        acts := y.acts ++ (List.range (rep.toNat + 1)).map fun i =>
          { due := s.beats.wrb + 1 + i, early := false, by_ := byInstr k (.mma k g ea eb sa sb rep blk),
            act := .product k.task (i3 ea) (i3 eb) ((sa.toNat + i) % 8) ((sb.toNat + i) % 8) blk.toNat } }) s)

/-- MCLR, MWIN and MRD of the matrix owner, once every MMA's accumulators are complete, take effect in their issue beat: MCLR clears A, its residue, state and WIN_INEXACT of the
64 lanes and keeps W, MWIN sets W alone, and MRD writes the rounded lanes to its registers, clearing them as MCLR when CLR is 1 (R76, R93, R94, R108). -/
def Obligations.AccumulatorResults : Prop :=
  ∀ (k : TaskAt) (g : Guard) (s : State), Due s k → Passes s k g → (tileAt s k.tile).mown = k.task → (tileAt s k.tile).mmaDone ≤ s.beats.wrb →
    let clear (l : Lane) : Lane := { a := 0, w := l.w, st := .finite, inexact := false, res := 0 }
    (∃ t, exec (.mclr k g) s = .next t ∧ taskAt t k = (taskAt s k).stepped ∧ OwnFrame s t k (fun y => { y with lanes := y.lanes.map clear }) s) ∧
    (∀ gr : BitVec 4, UsableG s k gr →
      ∃ t, exec (.mwin k g gr) s = .next t ∧ taskAt t k = (taskAt s k).stepped ∧
        OwnFrame s t k (fun y => { y with lanes := y.lanes.map fun l => { l with w := (rdG (taskAt s k) gr).extractLsb' 0 8 } }) s) ∧
    (∀ (vd : BitVec 3) (bf : BitVec 1) (rnd : BitVec 2) (clr : BitVec 1),
      let n := if bf = 0 then 4 else 2
      let d := drawsFor rnd.toNat 64 (tileAt s k.tile).rng
      let res := readLanes (laneFmt bf) rnd.toNat d.1 (tileAt s k.tile).lanes
      vd.toNat % n = 0 → (∀ i, i < n → UsableV s k (vd + BitVec.ofNat 3 i)) →
      ∃ t, exec (.mrd k g vd bf rnd clr) s = .next t ∧
        OwnFrame s t k (fun y => { y with rng := d.2, lanes := if clr = 1 then y.lanes.map clear else y.lanes }) s ∧
        taskAt t k = { (taskAt s k).stepped with v := (taskAt t k).v, vReady := (taskAt t k).vReady } ∧
        (∀ i, i < n → rdV (taskAt t k) (vd + BitVec.ofNat 3 i) = packLanes bf ((res.drop (i * laneCount bf)).take (laneCount bf)) ∧
          (taskAt t k).vReady[i3 (vd + BitVec.ofNat 3 i)] = s.beats.wrb + 6) ∧
        (∀ r : BitVec 3, r.toNat / n ≠ vd.toNat / n →
          rdV (taskAt t k) r = rdV (taskAt s k) r ∧ (taskAt t k).vReady[i3 r] = (taskAt s k).vReady[i3 r]))

/-! ## Program faults and fetching (R42, R43, R50, R64, R77 to R79) -/

/-- Program faults (R45, R47, R48, R67, R77, R78, R441). A narrow load faults with its lowest code: ALIGN_FAULT (0x06) for a misaligned address, LBOUND_FAULT (0x07) beyond the task's region,
PORT_CONFLICT (0x0A) when the wide port is claimed at issue + 1. A fault stops its task and changes no other register, memory, accumulator or predicate: every tile is as it was but for the
task's fault mark; it fences the program's domain with cause 3, sets the PROGRAM_FAULT attention event, and logs one DOMAIN_LOST record with the fault's code and place. MGMT is open, the
program resident and its domain open. -/
def Obligations.ProgramFaultResults : Prop :=
  (∀ op ∈ loadTable, ∀ (k : TaskAt) (g : Guard) (gv gb : BitVec 4) (off : BitVec 14) (s : State),
    Due s k → Passes s k g → UsableG s k gb → UsableG s k gv →
    let a := nAddr s k gb off
    let word := ((encodeCore (op.1 k g gv gb off)).getD 0).toNat
    let fault (code : Nat) : Prop := exec (op.1 k g gv gb off) s = .next (programFault k code word (countOwn k s))
    (a % op.2.2.1 ≠ 0 → fault 0x06) ∧
    (a % op.2.2.1 = 0 → 64 * (cfgAt s k).lbound < a + op.2.2.1 → fault 0x07) ∧
    (a % op.2.2.1 = 0 → a + op.2.2.1 ≤ 64 * (cfgAt s k).lbound → ¬ WideFree s k (s.beats.wrb + 1) → fault 0x0A)) ∧
  (∀ (k : TaskAt) (code word : Nat) (s : State) (p : Prog), isOpen s mgmtCode = true →
    let x := tileAt s k.tile
    prog? s x.pslot = some p → isOpen s (progCode x.pslot.val) = true →
    let t := programFault k code word s
    taskAt t k = { taskAt s k with faulted := true } ∧
    { tileAt t k.tile with tasks := x.tasks } = x ∧ (∀ j, j ≠ k.task → (tileAt t k.tile).tasks[j] = x.tasks[j]) ∧
    (∀ u, u ≠ k.tile → tileAt t u = tileAt s u) ∧
    (dom t (progCode x.pslot.val)).st = .closing ∧ (dom t (progCode x.pslot.val)).cause = 3 ∧
    (dom t (progCode x.pslot.val)).rseq = s.log.next ∧ t.hostif.events.getLsbD 3 = true ∧
    (∃ r ∈ t.log.recs, r.src = 0x01 ∧ r.sev = 2 ∧ r.ecode = code ∧ r.task = k.task.val ∧ r.pslot = x.pslot.val ∧ r.lcol = k.tile.col.val))

/-- TASK_OWN_BEAT runs the instruction that the loop-buffer line tagged for the task's pc holds, as the command of its own; with no such line it faults CODE_MISS (0x0B), with
a word that is no instruction ILLEGAL_INSTRUCTION (0x01); an idle or reserved pattern entry changes nothing (R42, R50, R64, R77). -/
def Obligations.OwnBeatRunsFetchedInstruction : Prop :=
  ∀ (t : TileAt) (s : State),
    let e := ((tileAt s t).pattern.extractLsb' (3 * (beatAt s t % 16)) 3).toNat
    (4 ≤ e → exec (.taskOwnBeat t) s = .next s) ∧
    (∀ k : TaskAt, k.tile = t → k.task.val = e →
      (∀ w i, fetchWord (tileAt s t) (cfgAt s k) (taskAt s k).pc.toNat = some w → decodeCore k w = some i →
        exec (.taskOwnBeat t) s = exec i s) ∧
      (Due s k → fetchWord (tileAt s t) (cfgAt s k) (taskAt s k).pc.toNat = none →
        exec (.taskOwnBeat t) s = .next (programFault k 0x0B 0 (countOwn k s))) ∧
      (∀ w, Due s k → fetchWord (tileAt s t) (cfgAt s k) (taskAt s k).pc.toNat = some w → decodeCore k w = none →
        exec (.taskOwnBeat t) s = .next (programFault k 0x01 w.toNat (countOwn k s))))

/-- R43: in a hold beat no task issues: an own beat of any task, whichever instruction is due, leaves the whole state alone; and passing the hold beat moves on neither the program beat
number of any program nor any task or latency: WRB, every tile and every word in flight stay. With a clock running and h of the hold count giving this beat, the hold beat
completes: CBN counts, one beat period passes, and each program between its start and its stop counts one hold (R163, R164, R229). -/
def Obligations.HoldBeatsStopTheCores : Prop :=
  (∀ (s : State) (i : Instr) (k : TaskAt), holdNow s = true → i.task = some k → exec i s = .next s) ∧
  (∀ (s : State) (t : TileAt), holdNow s = true → exec (.taskOwnBeat t) s = .next s) ∧
  (∀ s : State, ∃ t, exec .holdBeat s = .next t ∧ t.beats.wrb = s.beats.wrb ∧ t.tiles = s.tiles ∧ t.links = s.links) ∧
  (∀ s : State, anyRuns s = true → holdNow s = true →
    ∃ t, exec .holdBeat s = .next t ∧ t.beats = { s.beats with cbn := s.beats.cbn + 1 } ∧ t.time = s.time + period s.pwr.eff ∧
      t.tiles = s.tiles ∧ t.links = s.links ∧
      ∀ k, prog? t k = (prog? s k).map fun g => if progRuns s g then { g with holds := g.holds + 1, winHolds := g.winHolds + 1 } else g)

/-! ## Power, holds and clocks (R164, R165, R385 to R409) -/

/-- The evaluation and the steps of a change of operating point (R388 to R390), the ceiling's write (R389) and the thermal cap's steps (R406). A slower point is
announced at once, 64 beats ahead; a faster one ramps the rails first and waits for 1 ms after the latest landing. The stop comes at the announced CBN, or at once where no
parcel runs. -/
def Obligations.OperatingPointResults : Prop :=
  ∀ s : State,
    let w := s.pwr
    let with_ (c : OpChange) : State := { s with pwr := { w with change := some c } }
    let rails (t : State) (op : Nat) : Prop := ∀ p : Fin 12,
      t.parcels[p] = if (s.parcels[p]).logicOn then { s.parcels[p] with vmv := railMv s.parcels[p] op } else s.parcels[p]
    (w.flow = none → isOpen s mgmtCode = true → w.change = none →
      (w.eff < effRule s → exec .opEvaluate s = .next (with_ { target := effRule s, step := .announced, stopAt := s.beats.cbn + 64, at_ := s.time })) ∧
      (effRule s < w.eff → w.landedAt + ms 1 ≤ s.time →
        exec .opEvaluate s = .next (with_ { target := effRule s, step := .ramp, stopAt := 0, at_ := s.time })) ∧
      (effRule s = w.eff → exec .opEvaluate s = .next s)) ∧
    (∀ c, w.change = some c →
      (c.step = .ramp → Gives .railRampEnd s fun t => t.pwr = { w with change := some { c with step := .announced, stopAt := s.beats.cbn + 64 } } ∧
        rails t c.target ∧ { t with pwr := s.pwr, parcels := s.parcels } = s) ∧
      (c.step = .announced → c.stopAt ≤ s.beats.cbn ∨ anyRuns s = false → exec .opChangeStop s = .next (with_ { c with step := .stopped })) ∧
      (c.step = .stopped → Gives .opChangeLand s fun t => t.pwr.eff = c.target ∧ t.pwr.landedAt = s.time ∧
        (w.eff < c.target → t.parcels = s.parcels) ∧ (c.target ≤ w.eff → rails t c.target) ∧
        { t with pwr := s.pwr, parcels := s.parcels } = s) ∧
      (c.step = .landed → Gives .opChangeEnd s fun t => t.pwr.eff = w.eff ∧ rails t w.eff ∧ (∀ d, t.pwr.change = some d → d.at_ = s.time) ∧
        { t with pwr := s.pwr, parcels := s.parcels } = s)) ∧
    (∀ c, isOpen s hostifCode = true → exec (.ceil c) s = .next (evaluate { s with pwr := { w with ceil := c.toNat } })) ∧
    (∀ t0, w.paused = false → isOpen s mgmtCode = true →
      (w.hotAt = some t0 → t0 + ms 1 ≤ s.time →
        exec .tcapSlower s = .next (evaluate { s with pwr := { w with tcap := min 7 (w.tcap + 1), hotAt := some (t0 + ms 1) } })) ∧
      (w.coolAt = some t0 → t0 + ms 10 ≤ s.time →
        exec .tcapFaster s = .next (evaluate { s with pwr := { w with tcap := w.tcap - 1, coolAt := some (t0 + ms 10) } })))

/-- Hold commands and current limits (R164, R165, R397, R398): a sample recomputes h_lim within 0 to 56 from the ratios and commands the greatest component
64 beats ahead; a rail above 1.25 × I_lim commands 56 until its mean has stayed low for 1 µs; a parcel that receives no good copy of a command stops at its beat S and
its programs are fenced. -/
def Obligations.HoldCommandResults : Prop :=
  ∀ s : State,
    (∀ tel, isOpen s mgmtCode = true → Gives (.currentSample tel) s fun t =>
      t.pwr.hLim = nextHLim (ratios s tel) (hForce s) s.pwr.hLim ∧ t.pwr.hLim ≤ 56 ∧
      t.pwr.pin = tel.pIn / 10000 ∧ t.pwr.vin = tel.vIn ∧ (∀ p : Fin 12, (t.parcels[p]).iMeas = (tel.iMean[p.val]?).getD 0 / 1000) ∧
      t.pwr.cmds = (if holdWant t = hForce s then s.pwr.cmds else { at_ := s.beats.cbn + 64, h := holdWant t } :: s.pwr.cmds) ∧
      { t with pwr := s.pwr, parcels := s.parcels, hostif := s.hostif, out := s.out } = s) ∧
    (∀ p : Fin 12, p ∉ s.pwr.fast → (s.parcels[p]).logicOn = true → Gives (.fastOvercurrent p) s fun t =>
      t.pwr = { s.pwr with fast := s.pwr.fast ++ [p], cmds := { at_ := s.beats.cbn + 64, h := 56 } :: s.pwr.cmds } ∧
      .hold (s.beats.cbn + 64) 56 ∈ t.out ∧ Notified 2 s t) ∧
    (∀ p t0, p ∈ s.pwr.fast → (p, t0) ∈ s.pwr.fastLow → t0 + us 1 ≤ s.time → Gives (.fastHoldRelease p) s fun t =>
      (∀ q, q ∈ t.pwr.fast ↔ q ∈ s.pwr.fast ∧ q ≠ p) ∧ OnlyPower s t) ∧
    (∀ p at_ h good0 good1, (good0 || good1) = true → exec (.holdCommandArrival p at_ h good0 good1) s = .next s) ∧
    (∀ p at_ h, onNow s p = true → { at_ := at_, h := h } ∈ s.pwr.cmds → (s.parcels[p]).stopAt = none →
      Gives (.holdCommandArrival p at_ h false false) s fun t =>
        (t.parcels[p]).stopAt = some at_ ∧ Fencing t (parcelCode p.val) 4 (nextRseq s) ∧
        (∀ k ∈ progsIn s p, isOpen s (progCode k.val) = true → Fencing t (progCode k.val) 5 (nextRseq s)) ∧ t.pwr = s.pwr)

/-- Regulator alerts, shorts and clock losses (R387, R401, R402, R406): an alert forces h = 56 and, with the last one cleared and 1 ms passed, the forced state
lifts; a short or a lost PLL takes its parcel out of service, OFF and closed with the cause of R410 and R441; a hub's short closes its domain and a PHY die's its rail. -/
def Obligations.AlertAndLossResults : Prop :=
  ∀ s : State,
    let lost (t : State) (p : Fin 12) (cause : Nat) : Prop :=
      (t.parcels[p]).st = .off ∧ (t.parcels[p]).cause = cause ∧ (t.parcels[p]).logicOn = false ∧
      (dom t (parcelCode p.val)).st = .closed ∧ (dom t (parcelCode p.val)).cause = 4
    (∀ (g : Fin 48) cur volt, s.pwr.iso.getLsbD g = false → s.pwr.asserted.getLsbD g = false → Gives (.alertAssert g cur volt) s fun t =>
      t.pwr.forced = true ∧ t.pwr.asserted.getLsbD g = true ∧ t.pwr.latch.getLsbD g = true ∧
      t.pwr.cmds = { at_ := s.beats.cbn + 64, h := 56 } :: s.pwr.cmds ∧ Notified 2 s t ∧
      Recorded s t fun r => r.src = 0x15 ∧ r.ukind = 6 ∧ r.unit = g.val) ∧
    (∀ g : Fin 48, s.pwr.asserted.getLsbD g = true → Gives (.alertClear g) s fun t =>
      t.pwr.asserted.getLsbD g = false ∧ (∀ j, j ≠ g.val → t.pwr.asserted.getLsbD j = s.pwr.asserted.getLsbD j) ∧
      (t.pwr.asserted = 0 → t.pwr.clearAt = s.time ∧ t.pwr.lastGrp = g) ∧ OnlyPower s t) ∧
    (∀ cur volt, s.pwr.forced = true → s.pwr.asserted = 0 → s.pwr.clearAt + ms 1 ≤ s.time → Gives (.forcedStateLift cur volt) s fun t =>
      t.pwr.forced = false ∧ Notified 2 s t ∧ Recorded s t fun r => r.src = 0x15 ∧ r.unit = s.pwr.lastGrp.val) ∧
    (∀ d t0, d ∈ s.pwr.dies → (d, t0) ∈ s.pwr.dieLow → t0 + ms 1 ≤ s.time → Gives (.dieForceLift d) s fun t =>
      d ∉ t.pwr.dies ∧ Notified 2 s t ∧ Recorded s t fun r => r.src = 0x17 ∧ r.unit = (dieGroup d.val).val) ∧
    (∀ g : Fin 48, s.pwr.asserted.getLsbD g = true → s.pwr.iso.getLsbD g = false →
      (∀ p : Fin 12, g.val = 2 * p.val ∨ g.val = 2 * p.val + 1 → Gives (.railShort g) s fun t =>
        lost t p 3 ∧ t.pwr.iso.getLsbD (2 * p.val) = true ∧ t.pwr.iso.getLsbD (2 * p.val + 1) = true) ∧
      (∀ p : Fin 12, g.val = 24 + p.val → Gives (.railShort g) s fun t =>
        lost t p 4 ∧ (t.parcels[p]).cellarOn = false ∧ (dom t (cellarCode p.val)).st = .closed ∧ t.pwr.iso.getLsbD g = true) ∧
      (g.val = 36 → Gives (.railShort g) s fun t => t.module.fatal.isSome = true ∧ t.module.attnLow = true) ∧
      (∀ h, 1 ≤ h → h < 4 → g.val = 36 + h → isOpen s (hubCode h) = true → Gives (.railShort g) s fun t =>
        t.module.hrails.getLsbD h = false ∧ Fencing t (hubCode h) 6 (nextRseq s) ∧ (dom t (hubCode h)).readmit = true) ∧
      (∀ h x, h < 4 → x < 2 → g.val = 40 + 4 * x + h → Gives (.railShort g) s fun t =>
        t.module.phys.getLsbD (2 * h + x) = false ∧
        ∀ n : Fin 24, n.val / 3 = 2 * h + x → (portOf s n).st ≠ .disabled ∨ isOpen s (hubCode h) = true ∧ reach s h = true → (portOf t n).st = .failed)) ∧
    (∀ p, onNow s p = true → Gives (.pllLockLoss p) s fun t => lost t p 6) ∧
    (s.pwr.bref = true → Gives .beatReferenceLoss s fun t => t.pwr.bref = false ∧ (∀ p, onNow s p = true → lost t p 6) ∧
      ∀ k : Fin 8, (prog? s k).isSome = true → isOpen s (progCode k.val) = true → (dom t (progCode k.val)).st = .closing ∧ (dom t (progCode k.val)).cause = 5)

/-- Temperature, evacuation, ageing and coolant flow (R282, R395, R403, R405 to R408). An evacuated parcel whose slabs have been moved is marked UNREACHABLE by a table
change of its own, and its logic rail goes off, OFF with cause 1, when that change has drained (R282). -/
def Obligations.HeatAndFlowResults : Prop :=
  ∀ s : State,
    (∀ f, Gives (.sensorSample f) s fun t =>
      let hot := hottest { s with pwr := { s.pwr with sens := poweredFrame s f } }
      t.pwr.sens = poweredFrame s f ∧ t.pwr.sampled = s.time ∧
      (∀ x, hot = some x →
        (t.pwr.warn = true ↔ 380 ≤ x ∨ (s.pwr.warn = true ∧ 372 ≤ x)) ∧ t.pwr.hTherm = (if t.pwr.warn then min 56 (8 + 4 * (x / 4) - 380) else 0)) ∧
      (hot = none → t.pwr.warn = s.pwr.warn ∧ t.pwr.hTherm = s.pwr.hTherm) ∧
      ∀ p : Fin 12, parcelHot (poweredFrame s f) p.val ≠ 0x8000 → 460 ≤ parcelHot (poweredFrame s f) p.val → (s.parcels[p]).st ≠ .off →
        (t.parcels[p]).st = .off ∧ (t.parcels[p]).cause = 2 ∧ (dom t (parcelCode p.val)).st = .closed) ∧
    (∀ p i t0, s.pwr.flow = none → isOpen s mgmtCode = true → (s.parcels[p]).st = .on → (i, t0) ∈ (s.parcels[p]).hot105 → t0 + ms 10 ≤ s.time →
      Gives (.evacuationTrigger p) s fun t => (t.parcels[p]).st = .evacuating ∧ Fencing t (parcelCode p.val) 4 (nextRseq s) ∧
        (t.placing.drop s.placing.length).map (fun x => (x.slot, x.evac)) = (progsIn s p).map (fun k => (k, some p)) ∧ t.tiles = s.tiles) ∧
    (∀ p, (s.parcels[p]).st = .evacuating → (s.parcels[p]).parting = false → evacPending s p = false → s.pwr.flow = none →
      cxlBusy s (slabIn p) = false → Gives (.evacuationComplete p) s fun t =>
        (t.parcels[p]).parting = true ∧ (t.parcels[p]).st = .evacuating ∧ (t.parcels[p]).logicOn = (s.parcels[p]).logicOn ∧ routed t p.val = false ∧
        (s.snet.change = none → t.snet.change = some { mask := wantMask t, step := 3, at_ := s.time } ∧ t.snet.epoch = !s.snet.epoch) ∧
        (∀ c, s.snet.change = some c → t.snet.change = some c ∧ t.snet.queued = s.snet.queued ++ [wantMask t])) ∧
    (∀ (p : Fin 12) (c : TblChange), s.snet.change = some c → drained s = true → (s.parcels[p]).parting = true → c.mask.getLsbD p.val = true → Gives .tableDrained s fun t =>
      (t.parcels[p]).st = .off ∧ (t.parcels[p]).cause = 1 ∧ (t.parcels[p]).logicOn = false ∧ (dom t (parcelCode p.val)).st = .closed) ∧
    (∀ c pc, isOpen s mgmtCode = true →
      (ownersOf (tileAt s c) = [] → physCol s c.row.val c.col.val = some pc → (find? s.pwr.rating (ratingKey c.row.val pc)).getD 0 < 7 →
        Gives (.ageingScan [c]) s fun t => t.pwr.lowMargin = [c] ∧
          find? t.pwr.rating (ratingKey c.row.val pc) = some ((find? s.pwr.rating (ratingKey c.row.val pc)).getD 0 + 1)) ∧
      ((tileAt s c).placed = true → c ∈ s.pwr.lowMargin → onNow s (parcelOf c) = true → (s.parcels[parcelOf c]).trim < 4 →
        Gives (.ageingScan [c]) s fun t => (t.parcels[parcelOf c]).trim = (s.parcels[parcelOf c]).trim + 1)) ∧
    (s.pwr.flowEn = true → s.pwr.flow = none → s.pwr.change = none → Gives .flowStop s fun t =>
      (∃ f, t.pwr.flow = some f ∧ f.cbn = s.beats.cbn) ∧ clocksHeld t = true ∧ Notified 1 s t ∧
      (∀ p, onNow s p = true → (t.parcels[p]).st = .retained ∧ (dom t (parcelCode p.val)).st = .closed ∧ (dom t (parcelCode p.val)).held = true) ∧
      ∀ k : Fin 8, (prog? s k).isSome = true → isOpen s (progCode k.val) = true →
        (dom t (progCode k.val)).st = .closed ∧ (dom t (progCode k.val)).held = true ∧ (dom t (progCode k.val)).cause = 7) ∧
    (∀ en, isOpen s hostifCode = true → Gives (.flowEn en) s fun t => t.pwr.flowEn = en ∧ OnlyPower s t) ∧
    (∀ f, s.pwr.flow = some f → s.pwr.flowEn = true → Gives .flowResume s fun t => t.pwr.flow = none ∧ Notified 1 s t ∧
      (∀ p ∈ f.wasOn, (s.parcels[p]).st = .retained → p ∉ f.evac → (t.parcels[p]).st = .on ∧ (dom t (parcelCode p.val)).st = .opened) ∧
      ∀ k ∈ f.progs, (dom s (progCode k.val)).held = true → (dom t (progCode k.val)).st = .opened ∧ (dom t (progCode k.val)).held = false)

/-! ## The trellis router (R138 to R149, R160, R169 to R173) -/

/-- A router's running beat applies its current entry once: each output drives its word onto the link to the facing input, one beat on inside a parcel and five across a
boundary; the C output holds its word; the sequencer moves on by R146, a headland router's staying at period 64; an entry that is invalid or fails its parity drives nothing and
fences the programs it drives for with cause 4. The words are the inputs as they have passed the pipeline (R168). No memory changes (R140, R143 to R146, R153, R160). A hub's
headland has 80 exit links, 64 across its inner edge and 8 at each end, and no other link leads out of it (R161). -/
def Obligations.RouterBeatResults : Prop :=
  (∀ h : Fin 4, (exitLinks h.val).length = 80 ∧ (exitLinks h.val).countP (fun e => e.2 == innerPort h.val) = 64 ∧
    ∀ o : Fin 4, o.val % 2 ≠ innerPort h.val % 2 → (exitLinks h.val).countP (fun e => e.2 == o.val) = 8) ∧
  (∀ (h o : Fin 4) (c u : TileAt), headlandOf c = some h.val → neighbour c o.val = some u → headlandOf u ≠ some h.val → (c, o.val) ∈ exitLinks h.val) ∧
  ∀ (c : TileAt) (s : State), routerRuns s c = true →
    let r := (tileAt s c).router
    let pos := posNow s c
    let idx := (r.phases[(⟨pos.1 % 4, Nat.mod_lt _ (by decide)⟩ : Fin 4)]).base + pos.2
    let entry := lookupD 0 r.table idx
    let e := entry.toNat
    let ws := (takeInputs c pos s).1
    let sb := pipeAt r 5
    let fired := (steer r ((List.range 5).any fun o => opOf e o == 3) (pushOf s c 1 (pick ws (ctlSrc e))).1 (pushOf s c 2 (pick ws (datSrc e))).1).2.2
    let moved (t : State) : Prop := (tileAt t c).router.ran = some s.beats.wrb ∧
      (r.owner ≠ 8 → ((tileAt t c).router.p, (tileAt t c).router.k, (tileAt t c).router.done) = seqNext r.phases (r.p, r.k, r.done)) ∧
      (∀ u m, memOf (tileAt t u) m = memOf (tileAt s u) m) ∧ exec (.sequencerBeat c) t = .next t
    (r.badEnt.contains idx = false → entryValid e = true → Gives (.sequencerBeat c) s fun t => moved t ∧
      (tileAt t c).router.cOut = outWord e ws sb fired 4 ∧
      ∀ o u, o < 4 → neighbour c o = some u → inGap s u = false → netOn s (parcelOf u).val = true → outWord e ws sb fired o ≠ TWord.empty →
        { dst := u, port := (o + 2) % 4, beat := s.beats.wrb + (if parcelOf u = parcelOf c then 1 else 5), word := outWord e ws sb fired o } ∈ t.links) ∧
    (r.badEnt.contains idx = true ∨ entryValid e = false → Gives (.sequencerBeat c) s fun t => moved t ∧
      t.links = s.links ∧ (tileAt t c).router.cOut = r.cOut ∧
      ∀ k ∈ entryProgs s c idx, (prog? s k).isSome = true → isOpen s (progCode k.val) = true →
        Fencing t (progCode k.val) 4 (nextRseq (takeInputs c pos s).2))

/-! ## The narrow port, repairs, reserved areas and the staging window (R120 to R137, R293, R536) -/

/-- Service-side accesses, writebacks, scrubbing, repair, retirement and the rebuilding of a reserved area (R120 to R129, R134). A repair and a retirement are of a tile in no
footprint whose slab has been vacated; a rebuilding reads a surviving copy without an uncorrectable word. -/
def Obligations.CellarResults : Prop :=
  ∀ (c : TileAt) (s : State),
    let x := tileAt s c
    (∀ m e rest, narrowFree s c m = true → inRow x m < 3 → popNarrow m x.narrow = some (e, rest) → keptOut s c e.pkt = false →
      (∀ b, e.wdata = some b → Gives (.narrowAccess c m) s fun t =>
        memOf (tileAt t c) m = writeBytes (memOf x m) e.addr b ∧ (∀ n, n ≠ m → memOf (tileAt t c) n = memOf x n) ∧
        ∀ u, u ≠ c → ∀ n, memOf (tileAt t u) n = memOf (tileAt s u) n) ∧
      (∀ q, e.wdata = none → msgOf s e.pkt = some q → q.parts = [] → q.got = 0 → q.total = some e.pkt.payload.length → q.refuse = none →
        eccBad x m e.addr e.pkt.payload.length = false → Gives (.narrowAccess c m) s fun t =>
          (∃ p, .packet p ∈ t.out ∧ p.opc = 0x21 ∧ p.dst = e.pkt.src ∧ p.tag = e.pkt.tag ∧ p.addr = 0 ∧
            p.payload = readBytes (memOf x m) e.addr e.pkt.payload.length) ∧
          ∀ u n, memOf (tileAt t u) n = memOf (tileAt s u) n)) ∧
    (∀ m e, minorTurn s c m = true → x.ecc.find? (fun e => e.space == m && e.met && e.bit.isSome) = some e → Gives (.eccWriteback c m) s fun t =>
      (tileAt t c).ecc = x.ecc.filterMap (fun k => if k = e then (if e.stuck then some { e with met := false } else none) else some k) ∧
      (e.space, e.word, e.bit) ∈ (tileAt t c).mended ∧ (∀ u n, memOf (tileAt t u) n = memOf (tileAt s u) n) ∧ { t with tiles := s.tiles } = s) ∧
    (∀ m, minorTurn s c m = true → (x.ecc.any fun e => e.space == m && e.met && e.bit.isSome) = false → Gives (.scrub c m) s fun t =>
      (m = .sram → (tileAt t c).scrubL = (x.scrubL + 1) % 4096) ∧ (m = .slab → (tileAt t c).scrubC = (x.scrubC + 1) % 1024) ∧
      ∀ u n, memOf (tileAt t u) n = memOf (tileAt s u) n) ∧
    (∀ row : Fin 512, row.val ∈ x.toRepair → ownersOf x = [] → inStage s c = false → inReserved s c = false → isOpen s mgmtCode = true →
      x.repairs.length < 4 → Gives (.rowRepair c row) s fun t =>
      (tileAt t c).repairs = x.repairs ++ [(row.val, x.repairs.length)] ∧ row.val ∉ (tileAt t c).toRepair ∧
      (Memory.wf x.slab = true → ∀ a, 128 * row.val ≤ a → a < 128 * row.val + 128 → readByte (tileAt t c).slab a = 0) ∧ t.boot.gen = s.boot.gen + 1) ∧
    (∀ pc, x.retire = true → ownersOf x = [] → inStage s c = false → inReserved s c = false → isOpen s mgmtCode = true → physCol s c.row.val c.col.val = some pc → Gives (.tileRetirement c) s fun t =>
      (tileAt t c).retire = false ∧ (c.row.val, pc, 1) ∈ t.boot.culls) ∧
    (∀ a slabs r good bad, s.reserved.find? (fun r => r.area == a && r.copies.any (·.2) && r.copies.any (fun c => !c.2)) = some r →
      r.copies.find? (·.2) = some good → r.copies.find? (fun c => !c.2) = some bad → isOpen s mgmtCode = true → slabs.length = bad.1.length → slabs.Nodup →
      (∀ t ∈ slabs, slabFree s t = true ∧ parcelOf t ∉ good.1.map parcelOf) →
      (∀ t ∈ good.1, eccBad (tileAt s t) .slab 0 65536 = false) → Gives (.reservedCopyRebuild a slabs) s fun t =>
        (∀ e ∈ good.1.zip slabs, (tileAt t e.2).slab = (tileAt s e.1).slab) ∧ (∃ q ∈ t.reserved, q.area = a ∧ (slabs, true) ∈ q.copies) ∧
        Recorded s t fun r => r.src = 0x1B)

/-- The staging window (R135 to R137, R290, R293, R536): requests, grants and releases of granules, and the lines that CXL.mem reads and writes: one READ or WRITE of the CXL
controller over the service net, or poison and a dropped write above the window and in a lost slab. -/
def Obligations.StagingWindowResults : Prop :=
  ∀ s : State,
    (∀ v, stageOn s = true → isOpen s mgmtCode = true → exec (.winReq v) s =
      .next { s with stage := { s.stage with req := v.toNat % 128, busy := s.stage.granules.length != min 64 (v.toNat % 128) } }) ∧
    (∀ slabs, s.stage.busy = true → s.stage.granules.length < stageGoal s → isOpen s mgmtCode = true → slabs ≠ [] → granuleBad s slabs = false →
      Gives (.granuleGrant slabs) s fun t => t.stage.granules = s.stage.granules ++ [slabs] ∧ (∀ c ∈ slabs, (tileAt t c).slab = []) ∧
        (∀ c, c ∉ slabs → tileAt t c = tileAt s c) ∧ (t.stage.busy = true ↔ t.stage.granules.length ≠ stageGoal s) ∧
        { t with tiles := s.tiles, stage := s.stage } = s) ∧
    (∀ g last, s.stage.granules = g ++ [last] → s.stage.busy = true → stageGoal s < s.stage.granules.length → isOpen s mgmtCode = true →
      Gives .granuleRelease s fun t => t.stage.granules = g ∧ (∀ c ∈ last, (tileAt t c).slab = []) ∧ (∀ c, c ∉ last → tileAt t c = tileAt s c) ∧
        (∀ c ∈ last, c ∉ t.stage.lost) ∧ { t with tiles := s.tiles, stage := s.stage } = s) ∧
    (isOpen s hostifCode = true → exec .hdmCommit s = .next { s with hostif := { s.hostif with hdm := s.hostif.hdm || s.hostif.cxl } }) ∧
    (∀ off, cxlOpen s = true →
      let a := off / 64 * 64
      (stagePlace s a = none →
        (Gives (.cxlMemRead off) s fun t => .cxlPoison a ∈ t.out ∧ t.tiles = s.tiles) ∧
        ∀ d, Gives (.cxlMemWrite off d) s fun t => .cxlDone a ∈ t.out ∧ t.tiles = s.tiles) ∧
      ∀ c b, stagePlace s a = some (c, b) →
        (slabReach s c = false →
          exec (.cxlMemRead off) s = .next (emit (.cxlPoison a) s) ∧ ∀ d, exec (.cxlMemWrite off d) s = .next (emit (.cxlDone a) s)) ∧
        (slabReach s c = true → mustHold s (hubEp 0 4) = false → (s.snet.waiting.any fun q => q.1.unit == hubEp 0 4) = false →
          FreeTags s (hubEp 0 4) 1 → unreach s (epochBit s) (epRegion (coreEp c)) = false →
          let asks (t : State) (op : BitVec 6) (b' : List Byte) : Prop := ∃ p, .packet p ∈ t.out ∧ p.opc = op ∧ p.dst = coreEp c ∧ p.src = hubEp 0 4 ∧
            p.space = 1 ∧ p.countOff = 8 ∧ p.addr = BitVec.ofNat 16 (b / 8) ∧ p.payload = b'
          (Gives (.cxlMemRead off) s fun t => asks t 1 [] ∧ (∃ r ∈ t.snet.reqs, r.why = .cxlRead a ∧ r.skip = 0 ∧ r.keep = 64) ∧ t.tiles = s.tiles) ∧
          ∀ d, Gives (.cxlMemWrite off d) s fun t => asks t 2 (leBytes 64 d.toNat) ∧ (∃ r ∈ t.snet.reqs, r.why = .cxlWrite a) ∧ t.tiles = s.tiles))

/-! ## The service net (R256 to R286) -/

/-- The service net's packets (R123, R259, R266 to R273): a READ that its target takes is cut into units, none across 8 bytes of local SRAM or 64 of a slab, and a WRITE's bytes
are queued at the tile's port in order; a MSG and a response complete their message by count, whatever the order of its packets. The packet is whole, as it comes and as the
net has it, and is of no epoch that was given up; no earlier ORDERED packet of its endpoints is on its way, its router works, and no table on its way marks its region UNREACHABLE. -/
def Obligations.ServiceNetPacketResults : Prop :=
  ∀ (p : Packet) (s : State), p.headBad = false → p.bodyBad = false → overtaken s p = false → (epOk p.dst = true → routerUp s p.dst = true) →
    (inFlight s p && unreach s p.epoch (epRegion p.dst)) = false → (∀ q ∈ s.snet.wires.late, asSent q ≠ asSent p) →
    (∀ q, wayOf s p = some q → q.headBad = false ∧ q.bodyBad = false) →
    let c := epTile p.dst
    let a := 8 * (p.addr.toNat % 8192)
    let queued (t : State) : List Narrow := (tileAt t c).narrow.drop (tileAt s c).narrow.length
    let places (l : List Narrow) : List Nat := l.flatMap fun e => (List.range e.pkt.payload.length).map (e.addr + ·)
    let joins (t : State) : Prop := (tileAt s c).narrow <+: (tileAt t c).narrow ∧
      (∀ e ∈ queued t, e.space = netSpace p.space ∧ e.addr / unitBytes (netSpace p.space) = (e.addr + e.pkt.payload.length - 1) / unitBytes (netSpace p.space))
    (p.opc = 1 → p.vcr = 0 → refusal s p (8 * p.countOff.toNat) = none → epKind p.dst = 0 → p.space ≠ 2 → p.countOff ≠ 0 →
      Gives (.read_ p) s fun t => joins t ∧ places (queued t) = (List.range (8 * p.countOff.toNat)).map (a + ·) ∧ (∀ e ∈ queued t, e.wdata = none) ∧
        ∃ m, msgOf t p = some m ∧ m.total = some (8 * p.countOff.toNat) ∧ m.got = 0) ∧
    (p.opc = 1 → p.vcr = 0 → ∀ st, refusal s p (8 * p.countOff.toNat) = some st → Gives (.read_ p) s fun t => t.tiles = s.tiles ∧
      ∃ q, .packet q ∈ t.out ∧ q.opc = 0x21 ∧ q.dst = p.src ∧ q.tag = p.tag ∧ q.payload = [] ∧ q.addr = BitVec.ofNat 16 st) ∧
    (p.opc = 2 → p.vcr = 0 → p.payload ≠ [] → p.payload.length ≤ 1024 → p.payload.length % 8 = 0 → refusal s p p.payload.length = none →
      epKind p.dst = 0 → p.space ≠ 2 → badPart ((msgOf s p).getD (newMsg s p)) p = false → ((msgOf s p).isSome = true ∨ writesAt s p.dst < 4) →
      (∀ q ∈ s.snet.blocked, q.dst ≠ p.dst) →
      Gives (.write_ p) s fun t => joins t ∧ places (queued t) = (List.range p.payload.length).map (a + ·) ∧
        (queued t).flatMap (fun e => e.wdata.getD []) = p.payload ∧ ∀ u m, memOf (tileAt t u) m = memOf (tileAt s u) m) ∧
    (p.opc = 3 → p.vcr = 0 → msgRefusal s p = none → badPart ((msgOf s p).getD (newMsg s p)) p = false →
      let m := withPart ((msgOf s p).getD (newMsg s p)) p s.time
      (m.total = some m.got → Gives (.msg p) s fun t => msgOf t p = none ∧ t.tiles = s.tiles ∧
        ∃ q, .packet q ∈ t.out ∧ q.opc = 0x23 ∧ q.dst = p.src ∧ q.tag = p.tag ∧ q.addr = 0) ∧
      (m.total ≠ some m.got → Gives (.msg p) s fun t => ∃ n, msgOf t p = some n ∧ n.got = m.got ∧ n.total = m.total)) ∧
    (p.vcr = 1 → unitOpen s p.dst = true → (∀ q ∈ s.snet.waiting, q.1.unit ≠ p.dst) → s.colls = [] →
      let gone (t : State) (r : NetReq) : Prop := ∀ q ∈ t.snet.reqs, ¬(q.unit = r.unit ∧ q.tag = r.tag ∧ q.opc = r.opc)
      (∀ r d x, p.opc = 0x21 → reqOf s p 1 = some r → r.why = .desc d → descOf s d = some x → x.old = false → r.parts = [] → r.got = 0 → p.first = true →
        8 * p.countOff.toNat = p.payload.length → isOpen s hostifCode = true → (p.payload.drop r.skip).take r.keep ≠ [] → Gives (.readData p) s fun t =>
          gone t r ∧ .hostWrite (BitVec.ofNat 64 (fld x 16 8 + r.base)) ((p.payload.drop r.skip).take r.keep) ∈ t.out ∧ t.tiles = s.tiles) ∧
      (∀ r off, p.opc = 0x21 → reqOf s p 1 = some r → r.why = .cxlRead off → r.parts = [] → r.got = 0 → r.bad = none → p.first = true →
        8 * p.countOff.toNat = p.payload.length → isOpen s hostifCode = true → Gives (.readData p) s fun t => gone t r ∧ t.tiles = s.tiles ∧
          (if p.addr.toNat % 256 = 0 then .cxlData off (BitVec.ofNat 512 (ofLE p.payload)) else .cxlPoison off) ∈ t.out) ∧
      (∀ r off, p.opc = 0x22 → reqOf s p 2 = some r → r.why = .cxlWrite off → isOpen s hostifCode = true → p.addr.toNat % 256 ≠ 0x0B → Gives (.writeAck p) s fun t =>
        gone t r ∧ .cxlDone off ∈ t.out ∧ t.tiles = s.tiles) ∧
      (∀ r, p.opc = 0x23 → reqOf s p 3 = some r → r.why = .other → Gives (.msgAck p) s fun t => gone t r ∧ t.tiles = s.tiles ∧
        { t with snet := s.snet } = s))

/-- The service net's timeouts, throttle and table changes (R269, R275, R276, R280 to R282). A window of the throttle ends once its cycles have passed. A drain timeout logs
a record, and the old epoch's packets that are still on their way are given up: each is discarded and counted when it comes; tiles change only where a parcel waited for the change to be switched off. -/
def Obligations.ServiceNetTimeResults : Prop :=
  ∀ s : State,
    let n := s.snet
    (∀ u tag r d x, n.reqs.find? (fun r => r.unit == u && r.tag == tag && decide (r.at_ + ms 1 ≤ s.time) && !feeding s r) = some r → r.why = .desc d → descOf s d = some x →
      x.outc = none → x.fault = none → x.dropped = false → opcOf x ≠ 0x31 → n.reqs = [r] → n.waiting = [] → s.hostif.reads = [] → s.colls = [] → Gives (.messageTimeout u tag) s fun t =>
        t.snet.reqs = [] ∧ (u, tag, s.time + ms 2) ∈ t.snet.dead ∧ (∃ y o, descOf t d = some y ∧ y.outc = some o ∧ o.status = 0x0B) ∧
        Recorded s t fun e => e.src = 0x0D) ∧
    (∀ dst src tag m, m ∈ n.msgs → m.dst = dst → m.src = src → m.tag = tag → m.opc ≠ 1 → m.total ≠ some m.got → m.last + ms 2 ≤ s.time →
      (∀ p ∈ n.blocked, p.dst ≠ dst) → Gives (.reassemblyTimeout dst src tag) s fun t => m ∉ t.snet.msgs ∧
        (∀ q ∈ n.msgs, q.dst ≠ dst ∨ q.src ≠ src ∨ q.tag ≠ tag → q ∈ t.snet.msgs) ∧ { t with snet := s.snet } = s ∧ t.out = s.out) ∧
    (∀ h add, let i : Fin 4 := ⟨hubNum h % 4, Nat.mod_lt _ (by decide)⟩
      netNow s < n.wins[i].1 + n.wins[i].2 → exec (.throttleWindow h add) s = .next s) ∧
    (∀ h add, let i : Fin 4 := ⟨hubNum h % 4, Nat.mod_lt _ (by decide)⟩
      n.wins[i].1 + n.wins[i].2 ≤ netNow s → Gives (.throttleWindow h add) s fun t =>
      let sums := (gatewaySums s i.val).zipIdx.map fun e => e.1 + (add[e.2]?).getD 0
      let a := n.act[i]
      let level := min n.level[i] a.2.1
      let lev (l q : Nat) : Prop := (t.snet.level)[i] = (if n.en then min l (min 4 n.floor) else 0) ∧ (t.snet.quiet)[i] = q
      (a.2.2 = false → lev 0 0) ∧
      (a.2.2 = true → (∃ x ∈ sums, a.1 < x) → lev (min a.2.1 (level + 1)) 0) ∧
      (a.2.2 = true → (∀ x ∈ sums, x ≤ a.1 / 2) → if n.quiet[i] + 1 = 4 then lev (level - 1) 0 else lev level (n.quiet[i] + 1)) ∧
      (a.2.2 = true → (∀ x ∈ sums, x ≤ a.1) → (∃ x ∈ sums, a.1 / 2 < x) → lev level 0) ∧
      (t.snet.act)[i] = (min 80 n.thresh, min 4 n.floor, n.en) ∧ (t.snet.wins)[i] = (netNow s, 32 * 2 ^ n.window) ∧ { t with snet := s.snet } = s) ∧
    (∀ v, isOpen s hostifCode = true → exec (.snetThrottle v) s = .next { s with snet := { n with
      thresh := v.toNat % 128, window := v.toNat / 256 % 4, floor := v.toNat / 65536 % 8, en := v.getLsbD 31 } }) ∧
    (∀ c, n.change = some c →
      let next (t : State) (mask : BitVec 16) : Prop :=
        (n.queued = [] → t.snet.change = none ∧ t.snet.banks = n.banks.set (idleBank s) mask ∧ t.snet.epoch = n.epoch) ∧
        (∀ m l, n.queued = m :: l → t.snet.change.map (·.mask) = some m ∧ t.snet.queued = l ∧ t.snet.epoch = !n.epoch ∧
          (t.snet.banks)[idleBank s] = m) 
      let stays : Prop := ∀ p : Fin 12, (s.parcels[p]).parting = true → c.mask.getLsbD p.val = false
      (drained s = true → Gives .tableDrained s fun t => next t c.mask ∧ (stays → t.tiles = s.tiles)) ∧
      (drained s = false → c.at_ + ms 2 ≤ s.time → ∀ lost, Gives (.tableDrainTimeout lost) s fun t => next t 0xFFFF ∧
        (isOpen s mgmtCode = true → ∃ e ∈ t.log.recs, e.src = 0x0E) ∧
        (stays → t.tiles = s.tiles ∧ ∀ p ∈ n.flight, p.epoch = oldEpoch s → p ∈ t.snet.wires.late)))

/-! ## Rings, records and signals (R292 to R301, R310, R313, R314, R454, R532 to R535) -/

/-- Doorbells and ring setup (R296 to R299, R321, R535): a tail or head that may be published is, any other sets DB_ERR; setting EN resets the pointers,
the sequence number and the phase; a CQ to which an enabled SQ is bound stays enabled. -/
def Obligations.RingSetupResults : Prop :=
  ∀ s : State, isOpen s hostifCode = true →
    (∀ (p : Fin 64) (v : Word),
      let q := sqOf s p
      let n := 2 ^ q.log2
      let w := v.toNat % 65536
      (q.en = false ∨ n ≤ w → exec (.sqDoorbell p v) s = .next (setSq p { q with dbErr := true } s)) ∧
      (q.en = true → w < n → w = q.tail → exec (.sqDoorbell p v) s = .next s) ∧
      (q.en = true → w < n → w ≠ q.tail → sqReady q ≤ (w + n - q.head) % n → exec (.sqDoorbell p v) s = .next (setSq p { q with tail := w, dbErr := false } s)) ∧
      (q.en = true → w < n → w ≠ q.tail → (w + n - q.head) % n < sqReady q → exec (.sqDoorbell p v) s = .next (setSq p { q with dbErr := true } s))) ∧
    (∀ (p : Fin 64) (v : Word),
      let q := cqOf s p
      let n := 2 ^ q.log2
      let w := v.toNat % 65536
      (q.en = false ∨ n ≤ w → exec (.cqDoorbell p v) s = .next (setCq p { q with dbErr := true } s)) ∧
      (q.en = true → w < n → w ≠ q.head → cqUsed q < (w + n - q.head) % n → exec (.cqDoorbell p v) s = .next (setCq p { q with dbErr := true } s)) ∧
      (q.en = true → w < n → w ≠ q.head → (w + n - q.head) % n ≤ cqUsed q → Gives (.cqDoorbell p v) s fun t =>
        (cqOf t p).head = w ∧ (cqOf t p).dbErr = false ∧ (∀ i, i ≠ p → cqOf t i = cqOf s i) ∧ { t with hostif := s.hostif, out := s.out } = s)) ∧
    (∀ (p : Fin 64) (v : Word),
      let q := sqOf s p
      let lg := v.toNat % 32
      let cq := fin64 (v.toNat / 256)
      let set : Sq := { q with log2 := lg, cq := cq, weight := v.toNat / 65536 % 16 }
      6 ≤ lg → lg ≤ 16 →
        (q.en = false → (cqOf s cq).en = true → Gives (.sqEnable p v) s fun t =>
          sqOf t p = { set with en := true, head := 0, tail := 0, seq := 0, era := q.era + 1, wait := false, waitDom := 0, credit := share set, moved := s.time } ∧
          (∀ i, i ≠ p → sqOf t i = sqOf s i) ∧ (∀ w ∈ t.watches, w ∈ s.watches ∧ w.1 ≠ 256 + p.val) ∧ { t with hostif := s.hostif, watches := s.watches } = s) ∧
        (q.en = false → (cqOf s cq).en = false → exec (.sqEnable p v) s = .next (setSq p set s)) ∧
        (q.en = true → exec (.sqDisable p v) s = .next (setSq p { q with en := false } s) ∧ exec (.sqEnable p v) s = .next s)) ∧
    (∀ (p : Fin 64) (v : Word),
      let q := cqOf s p
      let lg := v.toNat % 32
      6 ≤ lg → lg ≤ 16 →
        (q.en = false → Gives (.cqEnable p v) s fun t =>
          (cqOf t p).en = true ∧ (cqOf t p).head = 0 ∧ (cqOf t p).log2 = lg ∧ (cqOf t p).vec = v.toNat / 256 % 64 ∧ (cqOf t p).nudgeEn = v.getLsbD 14 ∧
          ((∀ r ∈ s.hostif.held, r.cq ≠ p) → (cqOf t p).widx = 0 ∧ (cqOf t p).phase = true) ∧ { t with hostif := s.hostif, out := s.out } = s) ∧
        (q.en = true → (∀ i : Fin 64, (sqOf s i).en = true → (sqOf s i).cq ≠ p) → exec (.cqDisable p v) s = .next (setCq p { q with en := false } s)) ∧
        (q.en = true → (∃ i : Fin 64, (sqOf s i).en = true ∧ (sqOf s i).cq = p) → exec (.cqDisable p v) s = .next s))

/-- Host registers (R313, R314, R532, R536, R537) and MSI-X unmasking: a 1 written to an attention bit clears it and SEQ stays; held records are dropped; a cleared mask sends the
pending signals it held back. -/
def Obligations.HostRegisterResults : Prop :=
  ∀ s : State, isOpen s hostifCode = true →
    (∀ v : Word, exec (.attn v) s = .next { s with hostif := { s.hostif with events := s.hostif.events &&& ~~~(v.setWidth 8) } }) ∧
    (∀ v : Word, v.getLsbD 0 = true → (Gives (.heldDiscard v) s fun t => t.hostif.held = []) ∧
      ((isOpen s mgmtCode = true → s.hostif.descs.find? (heldDue s) = none) →
        exec (.heldDiscard v) s = .next { s with hostif := { s.hostif with held := [] } })) ∧
    (∀ v : Fin 64, Gives (.msixUnmask (.vector v)) s fun t => ((t.hostif.msix)[v]).mask = false ∧
      (s.hostif.fmask = false → s.hostif.pba.getLsbD v.val = true → .msix v.val ∈ t.out ∧ t.hostif.pba.getLsbD v.val = false) ∧
      { t with hostif := s.hostif, out := s.out } = s) ∧
    (Gives (.msixUnmask .function) s fun t => t.hostif.fmask = false ∧ t.hostif.msixEn = true ∧
      ∀ v : Fin 64, ((s.hostif.msix)[v]).mask = false → s.hostif.pba.getLsbD v.val = true → .msix v.val ∈ t.out ∧ t.hostif.pba.getLsbD v.val = false) ∧
    (isOpen s mgmtCode = true →
      (∀ v : Word, (∀ n : Fin 24, (portOf s n).st = .disabled) → exec (.engineId v) s = .next { s with edge := { s.edge with engineId := v.toNat % 256 } }) ∧
      (∀ (v : Word) (n : Fin 24), (portOf s n).st ≠ .disabled → exec (.engineId v) s = .next s) ∧
      (∀ (d : Fin 128) (v : DWord), Gives (.route d v) s fun t => (t.edge.routes)[d] = v.setWidth 24 ∧ (∀ i : Fin 128, i ≠ d → (t.edge.routes)[i] = (s.edge.routes)[i]) ∧
        t.tiles = s.tiles) ∧
      (∀ v : Word, s.sec.tmux = true → Gives (.tmuxCtl v) s fun t => t.dbg.ctl = v &&& 0x8000071F ∧ t.dbg.sel = s.dbg.sel ∧
        { t with dbg := s.dbg, free := s.free } = s) ∧
      (∀ (n : Fin 16) (v : Word), s.sec.tmux = true → Gives (.sel n v) s fun t => t.dbg.sel = s.dbg.sel.set n v ∧ t.dbg.ctl = s.dbg.ctl ∧
        { t with dbg := s.dbg, free := s.free } = s)) ∧
    (s.sec.tmux = false → ∀ (n : Fin 16) (v : Word), exec (.tmuxCtl v) s = .next s ∧ exec (.sel n v) s = .next s) ∧
    (∀ v : DWord, exec (.registerWrite 0x00008 4 v) s = .next { s with hostif := { s.hostif with vec := v.toNat % 64, vecEn := v.getLsbD 8 } }) ∧
    (∀ (p : Fin 64) (v : DWord), (sqOf s p).en = false →
      exec (.registerWrite (0x10000 + 32 * p.val) 8 v) s = .next (setSq p { sqOf s p with base := v.extractLsb' 6 58 } s)) ∧
    (isOpen s mgmtCode = true → ∀ v : DWord, exec (.registerWrite 0x90008 4 v) s = .next { s with edge := { s.edge with timeout := v.toNat % 2 ^ 20 } }) ∧
    (isOpen s mgmtCode = false → ∀ v : DWord, exec (.registerWrite 0x90008 4 v) s =
      .next { s with deferred := put 0x90008 ((v.setWidth 32).setWidth 64) s.deferred })

/-- Fetching, starting and completing a descriptor (R291, R292, R297, R300 to R304, R310, R311, R421, R422, R454). A fetched descriptor joins the fetch order, with a CQ entry reserved and the head moved on; one whose payload holds an uncorrectable
word ends DATA_UNCORRECTABLE with DETAIL 0 and a record; NOP and
FENCE_ACK end OK, and while FENCE_WAIT stands a descriptor ends FENCED; a record is written for the oldest descriptor of its SQ once its outcome is decided: after a read of the last
host byte written for it, by three memory writes in PCIe mode and into an owned line of the device cache in CXL mode (R291, R292); the record of one that a host-interface
reset has outlived is held, with the address that must be read back before it goes out (R321). -/
def Obligations.DescriptorLifeResults : Prop :=
  ∀ s : State,
    (∀ (p : Fin 64) rd, s.marks = [] → eligible s p = true → ((sqOf s p).credit ≠ 0 ∨ ∀ i, eligible s i = true → (sqOf s i).credit = 0) →
      let q := sqOf s p
      let d : DescRef := { sq := p, seq := q.seq, era := q.era }
      (∀ x ∈ s.hostif.descs, x.ref ≠ d) → Gives (.descriptorFetch p rd) s fun t =>
        (sqOf t p).head = (q.head + 1) % sqSize q ∧ (sqOf t p).seq = q.seq + 1 ∧ (cqOf t q.cq).resv = (cqOf s q.cq).resv + 1 ∧
        (∃ x, t.hostif.descs = s.hostif.descs ++ [x] ∧ x.ref = d ∧ x.cq = q.cq ∧ x.started = false ∧ x.old = false ∧
          (∀ b, rd = .data b → b.length = 64 → x.bytes = b ∧
            (opcListed (opcOf x) = true → (s.boot.ready = true ∨ opcEarly (opcOf x) = true) → x.outc = none) ∧
            (opcListed (opcOf x) = false → x.outc = some { status := 0x02, detail := 0, time := nsNow s }) ∧
            (opcListed (opcOf x) = true → s.boot.ready = false → opcEarly (opcOf x) = false → x.outc = some { status := 0x03, detail := 1, time := nsNow s })) ∧
          (∀ b, rd = .poison b → x.outc = some { status := 0x09, detail := 1, time := nsNow s }) ∧
          (rd = .errorCompletion → x.outc = some { status := 0x0F, detail := 0x200, time := nsNow s })) ∧ t.tiles = s.tiles) ∧
    (∀ (p : Fin 64) b m, s.marks = [m] → m.hub = 0 → m.use = .payload → m.unc = true → eligible s p = true → (sqOf s p).credit ≠ 0 →
      let d : DescRef := { sq := p, seq := (sqOf s p).seq, era := (sqOf s p).era }
      (∀ x ∈ s.hostif.descs, x.ref ≠ d) → Gives (.descriptorFetch p (.data b)) s fun t =>
        (∃ x, t.hostif.descs = s.hostif.descs ++ [x] ∧ x.ref = d ∧ x.outc = some { status := 0x09, detail := 0, time := nsNow s }) ∧ t.marks = [] ∧
        Recorded s t fun r => r.src = 0x0F ∧ r.sev ≤ 1) ∧
    (∀ d x, Starts s 0 d x → Gives (.nopDescriptor d) s fun t => Ended t d 0x00 0 ∧ t.tiles = s.tiles) ∧
    (∀ d x, Starts s 1 d x → sameEra s d = true → Gives (.fenceAck d) s fun t => Ended t d 0x00 0 ∧ (sqOf t d.sq).wait = false ∧ t.tiles = s.tiles) ∧
    (∀ d x, descOf s d = some x → canStart s 1 x = true → sameEra s d = true → (sqOf s d.sq).wait = true → Gives (.fenceAck d) s fun t =>
      Ended t d 0x00 0 ∧ (sqOf t d.sq).wait = false) ∧
    (∀ d x, descOf s d = some x → canStart s 0 x = true → sameEra s d = true → (sqOf s d.sq).wait = true → (∀ y ∈ earlier s d, opcOf y ≠ 1) →
      Gives (.nopDescriptor d) s fun t => EndedAs t d 0x05 ∧ (sqOf t d.sq).wait = true) ∧
    (∀ (p : Fin 64) x o, s.hostif.descs.find? (fun x => x.ref.sq == p) = some x → x.outc = some o → x.old = true → x.after = [] → isOpen s mgmtCode = true →
      isOpen s hostifCode = false → s.hostif.held.length + s.hostif.descs.length ≤ 65536 → Gives (.completionWrite p) s fun t =>
        (∃ r ∈ t.hostif.held, r.ref = x.ref ∧ r.cq = x.cq ∧ r.tag = tagOf x ∧ r.last = x.last) ∧ ∀ y ∈ t.hostif.descs, y.ref ≠ x.ref) ∧
    (∀ (p : Fin 64) x o, (isOpen s mgmtCode = true → s.hostif.descs.find? (heldDue s) = none) →
      s.hostif.descs.find? (fun x => x.ref.sq == p) = some x → x.outc = some o → x.old = false → x.last = none → mayWrite s x = true →
      p ∉ s.hostif.spoilt → (∀ e ∈ s.hostif.owed, e.1 ≠ p) → (sqOf s p).wait = false → Gives (.completionWrite p) s fun t =>
        let c := cqOf s x.cq
        let b := recordBytes (attnWord s) c.phase x.ref (tagOf x) o
        let at_ (i : Nat) : DWord := BitVec.ofNat 64 (64 * c.base.toNat + 32 * c.widx + i)
        .record x.cq c.widx b ∈ t.out ∧
        (s.hostif.cxl = false → .hostWrite (at_ 24) (b.drop 24) ∈ t.out ∧ .hostWrite (at_ 0) (b.take 23) ∈ t.out ∧ .hostWrite (at_ 23) ((b.drop 23).take 1) ∈ t.out) ∧
        (s.hostif.cxl = true → ∃ y ∈ t.hostif.cache, y.line = c.base.toNat + c.widx / 2 ∧ y.own = true ∧
          (if c.widx % 2 = 1 then y.hi else y.lo) = some b) ∧
        (∀ y ∈ t.hostif.descs, y.ref ≠ x.ref) ∧ (cqOf t x.cq).widx = ((cqOf s x.cq).widx + 1) % cqSize (cqOf s x.cq) ∧
        ((cqOf t x.cq).phase = (cqOf s x.cq).phase ↔ ((cqOf s x.cq).widx + 1) % cqSize (cqOf s x.cq) ≠ 0) ∧
        ((sqOf t p).wait = true ↔ (o.status = 0x05 ∨ o.status = 0x0C) ∧ sameEra s x.ref = true)) ∧
    (∀ (p : Fin 64) x o (a : DWord), (isOpen s mgmtCode = true → s.hostif.descs.find? (heldDue s) = none) → s.hostif.descs.find? (fun x => x.ref.sq == p) = some x → x.outc = some o → x.old = false → x.last = some a →
      mayWrite s x = true → (s.hostif.reads.any fun r => r.desc == x.ref && r.why == .flush) = false → Gives (.completionWrite p) s fun t =>
        Reads t x.ref .flush a.toNat 1 ∧ t.hostif.descs = s.hostif.descs ∧ t.hostif.cqs = s.hostif.cqs ∧ t.tiles = s.tiles)

/-! ## Resets of the host interface (R288, R293, R313, R314, R316, R320 to R322, R442, R541) -/

/-- Every reset of the HOSTIF domain closes it with its cause, takes the link down, gives the HOSTIF and RING registers their Reset values, ends with RESET_ABORTED the work that
needs host memory, and keeps every other descriptor for a held record; training the link opens the domain again (R288, R320, R321, R442). -/
def Obligations.HostResetResults : Prop :=
  ∀ s : State,
    let closes (c : Instr) (cause : Nat) : Prop := Gives c s fun t =>
      (dom t hostifCode).st = .closing ∧ (dom t hostifCode).cause = cause ∧ t.hostif.link = false ∧ t.hostif.hdm = false ∧ t.hostif.reads = [] ∧
      t.hostif.msixEn = false ∧ t.hostif.vecEn = false ∧ t.hostif.pba = 0 ∧
      (∀ p : Fin 64, (sqOf t p).en = false ∧ (sqOf t p).base = 0 ∧ (sqOf t p).log2 = 6 ∧ cqOf t p = Cq.reset) ∧
      (t.snet.thresh, t.snet.window, t.snet.floor, t.snet.en) = (40, 1, 4, true) ∧
      t.hostif.descs.map (·.ref) = s.hostif.descs.map (·.ref) ∧ (∀ y ∈ t.hostif.descs, y.old = true) ∧
      (∀ x ∈ s.hostif.descs, x.outc = none → needsHost s x = true → ∃ y ∈ t.hostif.descs, y.ref = x.ref ∧ y.outc.map (·.status) = some 0x0C) ∧
      t.hostif.held = s.hostif.held ∧ t.tiles = s.tiles
    (isOpen s hostifCode = true →
      closes .perstAssert 1 ∧ closes .linkLoss 0 ∧ closes .functionLevelReset 1 ∧ closes .hotReset 1 ∧
      (∀ t0, s.hostif.resetAt = some t0 → t0 + us 10 ≤ s.time → closes .hostifReset 1) ∧
      (s.hostif.link = true → Gives .linkLoss s fun t => Notified 4 s t)) ∧
    (Gives .perstAssert s fun t => t.hostif.perst = true) ∧
    exec .perstDeassert s = .next { s with hostif := { s.hostif with perst := false } } ∧
    (∀ cxl (width speed : BitVec 2), s.hostif.perst = false → s.module.running = true → s.module.fatal = none → s.hostif.link = false → width ≠ 3 → speed ≠ 3 →
      Gives (.linkTrained cxl width speed) s fun t => t.hostif.link = true ∧ t.hostif.width = width.toNat ∧ t.hostif.speed = speed.toNat ∧
        (t.hostif.cxl = true ↔ cxl = true ∧ width = 2 ∧ speed = 2) ∧ Notified 4 s t ∧
        ((dom s hostifCode).st = .off ∨ (dom s hostifCode).st = .closed → (dom t hostifCode).st = .opened) ∧ t.tiles = s.tiles) ∧
    (∀ h, s.moving.getLsbD (hubNum h) = true → Gives (.bufferMoveEnd h) s fun t => t.moving = s.moving &&& ~~~(1#4 <<< hubNum h) ∧ t.tiles = s.tiles)

/-! ## Programs (R189 to R194, R222, R235 to R247, R305 to R307, R373, R384) -/

/-- The program descriptors (R240, R246, R305 to R307, R373): a load into a free slot and a reconfiguration read their image, a removal begins its epoch barrier or waits for the one in
progress, the report and the counters are written and end with the DETAIL of R306 (with RESET_ABORTED where HOSTIF drops the write, log 123), a press table is read. -/
def Obligations.ProgramDescriptorResults : Prop :=
  ∀ (d : DescRef) (x : Desc) (s : State), isOpen s mgmtCode = true →
    (∀ k, Starts s 0x10 d x → slotOf x = some k → (dom s (progCode k.val)).st ≠ .closing → (dom s (progCode k.val)).st ≠ .closed →
      (slotBusy s k = true → Gives (.progLoad d) s fun t => Ended t d 0x08 (5 + 2 ^ 16 * 0xFFFFFFFF)) ∧
      (slotBusy s k = false → fld x 24 8 < 352 ∨ 48 * 2 ^ 30 < fld x 24 8 → Gives (.progLoad d) s fun t => Ended t d 0x08 (3 + 2 ^ 16 * 0xFFFFFFFF)) ∧
      (slotBusy s k = false → 352 ≤ fld x 24 8 → fld x 24 8 ≤ 48 * 2 ^ 30 → Gives (.progLoad d) s fun t => Reads t d .image (fld x 16 8) (fld x 24 8))) ∧
    (∀ k g, OnProg s x k g →
      (Starts s 0x11 d x → fld x 52 4 ≤ 4096 → 352 ≤ fld x 24 8 → fld x 24 8 ≤ 48 * 2 ^ 30 → Gives (.progReconfig d) s fun t =>
        Reads t d .image (fld x 16 8) (fld x 24 8) ∧ (fld x 52 4 ≠ 0 → Reads t d .plots (fld x 56 8) (2 * fld x 52 4))) ∧
      (Starts s 0x12 d x → Gives (.progRemove d) s fun t => ∃ h, prog? t k = some h ∧
        (g.bar.isSome = true → h = { g with waiting := g.waiting ++ [d] }) ∧
        (g.bar = none → g.running = true → ∃ b, h = { g with bar := some b, haltAt := some b.t } ∧ b.kind = .remove ∧ b.desc = some d ∧ b.step = .accepted ∧
          progBeat s g + 128 ≤ b.s ∧ (basePeriod g ≠ 0 → b.s % basePeriod g = 0 ∧ b.s < progBeat s g + 128 + basePeriod g) ∧
          b.t = b.s + flushBeats g + drainBeats g)) ∧
      (fld x 40 4 ≠ 0 →
        (isOpen s hostifCode = true → x.old = false →
          (Starts s 0x13 d x → g.report ≠ [] → Gives (.progReport d) s fun t =>
            let n := g.report.length
            Ended t d 0x00 (n % 2 ^ 32 + if fld x 40 4 < n then 2 ^ 32 else 0) ∧
            .hostWrite (BitVec.ofNat 64 (fld x 32 8)) ((reportBytes g (decide (fld x 40 4 < n))).take (fld x 40 4)) ∈ t.out) ∧
          (Starts s 0x14 d x → Gives (.progCounters d) s fun t =>
            Ended t d 0x00 (min (counterBlock s k g).length (fld x 40 4)) ∧
            .hostWrite (BitVec.ofNat 64 (fld x 32 8)) ((counterBlock s k g).take (fld x 40 4)) ∈ t.out)) ∧
        (isOpen s hostifCode = false ∨ x.old = true →
          (Starts s 0x13 d x → g.report ≠ [] → Gives (.progReport d) s fun t => EndedAs t d 0x0C) ∧
          (Starts s 0x14 d x → Gives (.progCounters d) s fun t => EndedAs t d 0x0C))) ∧
      (Starts s 0x33 d x → fld x 24 2 ≤ 4095 → fld x 26 2 ≠ 0 → fld x 24 2 + fld x 26 2 ≤ 4096 → Gives (.pressTable d) s fun t =>
        Reads t d .pressTbl (fld x 16 8) (64 * fld x 26 2)))

/-- Epoch barriers and placements (R190 to R194, R234, R235, R238, R240 to R242, R306): the ingress stops at S; at T, once the slot's collectives have ended, the residues are counted and discarded,
the routers go off and the epoch flips, or a removed program is gone; the domain restarts at a WRB that is a multiple of 64 with the new placement; the reconfiguration ends with the words
discarded. A placement whose configuration words fail R234
is refused with IMAGE_CONTENT, one whose objects or credit loops fail their rules with the reason of that rule; one that Jarbor cannot come to changes nothing, one whose resources are gone
starts again (R239); one that ends well makes its program resident, running from a WRB that is a multiple of 64, and the load completes with the report once that beat has come (R241, R246). -/
def Obligations.BarrierAndPlacementResults : Prop :=
  ∀ (k : Fin 8) (s : State),
    (∀ g b, prog? s k = some g → g.bar = some b →
      (b.step = .accepted → b.s ≤ progBeat s g → exec (.barrierStop k) s = .next (setProg k (some { g with bar := some { b with step := .stopped } }) s)) ∧
      (b.step = .stopped → b.t ≤ progBeat s g → isOpen s mgmtCode = true → (barHolds b = true → ∀ c ∈ s.colls, c.live = true → c.slot ≠ k) →
        (b.kind = .remove → Gives (.barrierHalt k) s fun t => prog? t k = none ∧ (dom t (progCode k.val)).st = .off ∧
          ∀ d x, b.desc = some d → descOf s d = some x → x.outc = none → x.fault = none → x.dropped = false → Ended t d 0x00 (min (haltWords k s) 0xFFFFFFFF)) ∧
        (b.kind ≠ .remove → Gives (.barrierHalt k) s fun t =>
          (∃ h, prog? t k = some h ∧ { h with img := g.img } = { g with
            running := false, epoch := !g.epoch, haltAt := some b.t, bar := some { b with step := .halted, disc := haltWords k s }, winHolds := 0,
            slots := g.slots.map fun e => (e.1, { e.2 with outQ := [], outPend := 0 }) }) ∧
          ∀ c, inFoot k (tileAt s c) = true → (tileAt t c).router.en = false ∧ (tileAt t c).router.ctlQ = [] ∧ (tileAt t c).router.datQ = [] ∧
            (tileAt t c).acts = [] ∧ (tileAt t c).sram = (tileAt s c).sram ∧ (tileAt t c).slab = (tileAt s c).slab)) ∧
      (∀ p, b.step = .halted → b.wants = false → b.place = some p → (∀ y ∈ s.placing, y.slot = k → y.evac = none) → isOpen s mgmtCode = true →
        s.beats.wrb % 64 = 0 → s.marks = [] → (b.evac = [] ∨ collAccess s k = false) → (∀ u ∈ leaving g p, (tileAt s u).ecc = []) →
        (∀ c ∈ p.tiles, (tileAt s c.at_).ecc = []) →
        (g.stuck = false ∨ newImage s b = true → Gives (.barrierRestart k) s fun t => ∃ h, prog? t k = some h ∧ h.running = true ∧ h.epoch = g.epoch ∧
          h.place = p ∧ h.haltAt = none ∧ h.start = s.beats.wrb - b.t ∧ h.restartB = b.t ∧ h.repSeq = g.repSeq + 1 ∧ h.iters = g.iters ∧
          h.winInex = winInexact s k g ∧
          (∃ c, h.bar = some c ∧ c.step = .restarted ∧ c.again = s.beats.wrb ∧ c.place = none ∧ c.disc = b.disc ∧ c.late = 0)) ∧
        (g.stuck = true → newImage s b = false → g.waiting = [] → Gives (.barrierRestart k) s fun t => ∃ h, prog? t k = some h ∧ h.running = g.running ∧
          h.place = p ∧ h.bar = none ∧ h.repSeq = g.repSeq + 1)) ∧
      (b.step = .restarted → b.again + b.lmax ≤ s.beats.wrb → g.waiting = [] → s.marks = [] → Gives (.barrierComplete k) s fun t =>
        (∃ h, prog? t k = some h ∧ h.bar = none) ∧
        ∀ d x, b.desc = some d → descOf s d = some x → x.outc = none → x.fault = none → x.dropped = false → isOpen s hostifCode = true → x.old = false →
          fld x 40 4 ≠ 0 → g.report ≠ [] →
          Ended t d 0x00 (min b.disc 0xFFFFFFFF + 2 ^ 32 * min b.late 0xFFFFFFFF) ∧
          .hostWrite (BitVec.ofNat 64 (fld x 32 8)) ((reportBytes g (decide (fld x 40 4 < g.report.length))).take (fld x 40 4)) ∈ t.out)) ∧
    (∀ p d x v, curPlacing s = some p → p.live = some v → p.fresh = true → p.evac = none → p.desc = some d → p.slot = k → descOf s d = some x → x.outc = none →
      isOpen s mgmtCode = true →
      let new (r : PlaceResult) : Prop := ∀ e ∈ s.memo, e.1 = jarborIn s p v → e.2 = r
      let m := imgOf (sectBytes p.image)
      (s.time < p.at_ + ms 20000 →
        (∀ reason (index : Word), reason = 4 ∨ recordRefusal (restricts x) m = none →
          (refusalFits (restricts x) m reason index.toNat = true → new (.refused reason index) → Gives (.placementDone (.refused reason index)) s fun t =>
            Ended t d 0x08 (reason + 2 ^ 16 * index.toNat) ∧ t.tiles = s.tiles) ∧
          (refusalFits (restricts x) m reason index.toNat = false → exec (.placementDone (.refused reason index)) s = .next s)) ∧
        (∀ reason (index : Word) e, reason ≠ 4 → recordRefusal (restricts x) m = some e → new (.refused e.1 (BitVec.ofNat 32 e.2)) →
          Gives (.placementDone (.refused reason index)) s fun t => Ended t d 0x08 (e.1 + 2 ^ 16 * (e.2 % 2 ^ 32)) ∧ t.tiles = s.tiles) ∧
        (∀ pl e, placeRefusal (restricts x) m pl = some e → new (.refused e.1 (BitVec.ofNat 32 e.2)) → Gives (.placementDone (.placed pl)) s fun t =>
          Ended t d 0x08 (e.1 + 2 ^ 16 * (e.2 % 2 ^ 32)) ∧ t.tiles = s.tiles) ∧
        (∀ pl, placeRefusal (restricts x) m pl = none → possible s p v pl = false → exec (.placementDone (.placed pl)) s = .next s) ∧
        (∀ pl, placeRefusal (restricts x) m pl = none → possible s p v pl = true → new (.placed pl) → prog? s k = none →
          (placeUsable s k pl = false → Gives (.placementDone (.placed pl)) s fun t => t.tiles = s.tiles ∧ prog? t k = none ∧ descOf t d = some x) ∧
          (placeUsable s k pl = true → Gives (.placementDone (.placed pl)) s fun t =>
            (dom t (progCode k.val)).st = .opened ∧ ∃ g, prog? t k = some g ∧ g.running = true ∧ g.place = pl ∧ g.start % 64 = 0 ∧
              s.beats.wrb < g.start ∧ g.start ≤ s.beats.wrb + 64 ∧ g.iters = 0 ∧ g.bar = none ∧ g.load = some d))) ∧
      (p.at_ + ms 20000 ≤ s.time → Gives .searchLimit s fun t => Ended t d 0x08 (0x13 + 2 ^ 16 * 0xFFFFFFFF) ∧ t.tiles = s.tiles)) ∧
    (∀ g d x, prog? s k = some g → g.load = some d → g.start ≤ s.beats.wrb → isOpen s mgmtCode = true → isOpen s hostifCode = true → descOf s d = some x →
      x.outc = none → x.fault = none → x.dropped = false → x.old = false → fld x 40 4 ≠ 0 → g.report ≠ [] →
      Ended (loadStarted s k) d 0x00 (g.report.length % 2 ^ 32 + if fld x 40 4 < g.report.length then 2 ^ 32 else 0) ∧
      .hostWrite (BitVec.ofNat 64 (fld x 32 8)) ((reportBytes g (decide (fld x 40 4 < g.report.length))).take (fld x 40 4)) ∈ (loadStarted s k).out)

/-! ## Data between host memory and a program (R302, R308, R309, R317, R318, R422, R423) -/

namespace Sys2Proof.Machine

/-- A READ of a core's memory for a descriptor is on the service net, with the request that waits for it (R260, R308). -/
def SendsRead (t : State) (d : DescRef) (c : TileAt) (m : MemSpace) (a n : Nat) : Prop :=
  ∃ r ∈ t.snet.reqs, r.why = .desc d ∧ r.opc = 1 ∧ r.keep = n ∧ ∃ p, .packet p ∈ t.out ∧ p.tag = r.tag ∧ p.opc = 1 ∧ p.vcr = 0 ∧
    p.dst = coreEp c ∧ p.space = spaceBits m ∧ p.addr = BitVec.ofNat 16 (a / 8) ∧ p.countOff.toNat = ((a + n + 7) / 8 - a / 8) % 2 ^ 24
/-- HUB-W's ring engine may inject at once: nothing of its old epoch is open and nothing is held (R280). -/
def RingFree (s : State) : Prop := (∀ r ∈ s.snet.reqs, r.unit = ringUnit → r.epoch = s.snet.epoch) ∧ ∀ w ∈ s.snet.waiting, w.1.unit ≠ ringUnit
/-- The service net reaches a tile's parcel in the present epoch (R278). -/
def Reaches (s : State) (c : TileAt) : Prop := unreach s (epochBit s) (epRegion (coreEp c)) = false
/-- A read of host memory is outstanding for an undecided descriptor. -/
structure Awaits (s : State) (tag : Nat) (r : HostReq) (x : Desc) : Prop where
  found : s.hostif.reads.find? (fun q => q.tag == tag) = some r
  desc  : descOf s r.desc = some x
  live  : x.outc = none
  link  : isOpen s hostifCode = true

end Sys2Proof.Machine

/-- The data descriptors (R302, R308, R309, R317, R318). A STREAM_XFER's input joins the units of its port's slot; MEM_READ and OBJ_READ send READs of the core, and of every run
of the object's first copy; MEM_WRITE and OBJ_WRITE read their data from host memory first. No tile changes in any of these steps. -/
def Obligations.DataDescriptorResults : Prop :=
  ∀ (d : DescRef) (x : Desc) (k : Fin 8) (g : Prog) (s : State), OnProg s x k g →
    (∀ p sl, s.marks = [] → Starts s 0x20 d x → xferBehind s x = false → (xferChecks x g).find? (·.1) = none → bindOf g (xferPort x) = some p → slotAt s k p.slot = some sl →
      slotBlocked s p sl = none → xferIn x ≠ 0 → Gives (.streamXfer d) s fun t => t.tiles = s.tiles ∧ ∃ sl', slotAt t k p.slot = some sl' ∧
        sl'.landing = sl.landing ∧ sl'.units.length = sl.units.length + 1 ∧ ∃ u, sl'.units.getLast? = some u ∧ u.desc = d ∧ u.host = true ∧ u.len = xferIn x ∧ u.read = 0) ∧
    (∀ c, RingFree s → FreeTags s ringUnit 1 → Reaches s c → Starts s 0x18 d x → (memChecks x g).find? (·.1) = none → memCore x g = some c → Gives (.memRead d) s fun t =>
      SendsRead t d c (memSpace x) (fld x 36 4) (fld x 24 4) ∧ t.tiles = s.tiles) ∧
    (Starts s 0x19 d x → (memChecks x g).find? (·.1) = none → Gives (.memWrite d) s fun t => Reads t d .memData (fld x 16 8) (fld x 24 4) ∧ t.tiles = s.tiles) ∧
    (∀ o, RingFree s → Starts s 0x1A d x → (objChecks x g).find? (·.1) = none → objAt g (fld x 48 4) = some o →
      FreeTags s ringUnit (firstRuns o (fld x 40 8) (fld x 24 4)).length → (∀ p ∈ firstRuns o (fld x 40 8) (fld x 24 4), Reaches s p.tile) → Gives (.objRead d) s fun t =>
        (∀ p ∈ firstRuns o (fld x 40 8) (fld x 24 4), SendsRead t d p.tile p.mem p.at_ p.len) ∧ t.tiles = s.tiles) ∧
    (Starts s 0x1B d x → (objChecks x g).find? (·.1) = none → Gives (.objWrite d) s fun t => Reads t d .objData (fld x 16 8) (fld x 24 4) ∧ t.tiles = s.tiles)

/-- Completions of host reads (R309, R318, R422, R423). Stream bytes land in their slot in order, a failed read's as zeros, those of another hub's slot as a MSG message to it (R22); the data of a MEM_WRITE goes to the core as WRITE packets;
a failed read of anything else ends its descriptor ACCESS_FAULT with DETAIL 0x200, and poisoned control data ends it DATA_UNCORRECTABLE with nothing done. -/
def Obligations.HostReadResults : Prop :=
  ∀ (tag : Nat) (r : HostReq) (x : Desc) (s : State), Awaits s tag r x →
    (∀ (k : Fin 8) g p sl, r.why = .streamIn → slotOf x = some k → prog? s k = some g → bindOf g (xferPort x) = some p → slotAt s k p.slot = some sl →
      (p.slot / 128 = 0 →
        (∀ b, Gives (.hostReadCompletion tag (.data b)) s fun t => ∃ sl', slotAt t k p.slot = some sl' ∧ sl'.landing = sl.landing ++ padTo r.len b ∧ t.tiles = s.tiles) ∧
        (Gives (.completionTimeout tag) s fun t => (∃ sl', slotAt t k p.slot = some sl' ∧ sl'.landing = sl.landing ++ zeros r.len) ∧ t.tiles = s.tiles ∧
          ∃ y, descOf t r.desc = some y ∧ y.fault.isSome = true)) ∧
      (p.slot / 128 ≠ 0 → p.slot < 512 → 0 < r.len → FreeTags s (hubEp 0 2) 1 → unreach s (epochBit s) (12 + p.slot / 128) = false → ∀ b,
        Gives (.hostReadCompletion tag (.data b)) s fun t => t.tiles = s.tiles ∧ slotAt t k p.slot = some sl ∧
          ∃ q, .packet q ∈ t.out ∧ q.opc = 3 ∧ q.cls = 1 ∧ q.first = true ∧ q.src = hubEp 0 2 ∧ q.dst = hubEp (p.slot / 128) 2 ∧
            q.payload = (padTo r.len b ++ zeros ((8 - r.len % 8) % 8)).take 1024)) ∧
    (∀ (k : Fin 8) g c b, r.why = .memData → opcOf x = 0x19 → OnProg s x k g → RingFree s → FreeTags s ringUnit 1 → Reaches s c → (memChecks x g).find? (·.1) = none →
      memCore x g = some c → r.len = fld x 24 4 → Gives (.hostReadCompletion tag (.data b)) s fun t => t.tiles = s.tiles ∧
        ∃ q ∈ t.snet.reqs, q.why = .desc r.desc ∧ q.opc = 2 ∧ ∃ p, .packet p ∈ t.out ∧ p.tag = q.tag ∧ p.opc = 2 ∧ p.dst = coreEp c ∧
          p.space = spaceBits (memSpace x) ∧ p.first = true ∧ p.addr = BitVec.ofNat 16 (fld x 36 4 / 8) ∧ p.payload = (padTo r.len b).take 1024) ∧
    (r.why ≠ .streamIn → r.why ≠ .flush →
      (Gives (.hostReadCompletion tag .errorCompletion) s fun t => Ended t r.desc 0x0F 0x200 ∧ t.tiles = s.tiles) ∧
      (Gives (.completionTimeout tag) s fun t => Ended t r.desc 0x0F 0x200 ∧ t.tiles = s.tiles)) ∧
    (∀ b, isData r.why = false → Gives (.hostReadCompletion tag (.poison b)) s fun t => Ended t r.desc 0x09 1 ∧ t.tiles = s.tiles)

/-! ## Reset domains (R420, R433 to R450, R461) -/

namespace Sys2Proof.Machine

/-- A DOMAIN_CTL waits for its domain's state, with whether it is a pending reopen accepted in CLOSING (R441). -/
def Asks (t : State) (d : DescRef) (c : Nat) (r : Bool) : Prop := (d, r) ∈ (dom t c).askers

end Sys2Proof.Machine

/-- DOMAIN_CTL (R407, R437, R439 to R442): QUERY answers the state word; RESET and DISABLE close what is OPEN with cause 1, RESET of HOSTIF completes first, DISABLE of a parcel stops it
with cause 7; ENABLE opens what is OFF, pends a reopen of what closes, is refused where READMIT is needed, and ends at once where the domain is OPEN; EVACUATE begins an evacuation. An action that
lasts leaves its descriptor waiting for the domain. -/
def Obligations.DomainControlResults : Prop :=
  ∀ (d : DescRef) (x : Desc) (s : State), Starts s 0x42 d x → codeOk (ctlDom x) = true → (∀ e ∈ (dom s (ctlDom x)).askers, e.1 ≠ d) →
    let c := ctlDom x
    let unit : Prop := c / 256 = 3 ∨ c / 256 = 4
    let closes (t : State) : Prop := (dom t c).st = .closing ∧ (dom t c).cause = 1 ∧ Asks t d c false
    (ctlAction x = 0 → Gives (.query d) s fun t => Ended t d 0x00 (stateWord (dom s c)) ∧ t.doms = s.doms ∧ t.tiles = s.tiles) ∧
    (5 ≤ ctlAction x → Gives (.query d) s fun t => Ended t d 0x02 18 ∧ t.doms = s.doms ∧ t.tiles = s.tiles) ∧
    (ctlAction x = 1 →
      (unit → (dom s c).st = .opened → Gives (.reset d) s fun t => closes t ∧ (dom t c).reopen = true ∧ t.tiles = s.tiles) ∧
      (c = mgmtCode → (dom s c).st = .opened → Gives (.reset d) s fun t => closes t ∧ t.pwr.mgmtForce = true ∧ .hold (s.beats.cbn + 64) 56 ∈ t.out) ∧
      (c = hostifCode → Gives (.reset d) s fun t => Ended t d 0x00 (stateWord { dom s c with st := .opened }) ∧ t.doms = s.doms) ∧
      (∀ k : Fin 8, c = progCode k.val → prog? s k = none → (dom s c).st ≠ .closing → (dom s c).st ≠ .closed → Gives (.reset d) s fun t => EndedAs t d 0x04)) ∧
    (ctlAction x = 2 →
      (unit → (dom s c).st = .opened → Gives (.disable d) s fun t => closes t ∧ (dom t c).reopen = false ∧ t.tiles = s.tiles) ∧
      (∀ k : Fin 8, c = progCode k.val → (prog? s k).isSome = true → (dom s c).st ≠ .closing → (dom s c).st ≠ .closed → Gives (.disable d) s fun t => closes t) ∧
      (∀ p : Fin 12, c = parcelCode p.val → s.parcels[p].st ≠ .off → Gives (.disable d) s fun t => t.parcels[p].st = .off ∧ t.parcels[p].cause = 7 ∧
        t.parcels[p].logicOn = false ∧ (dom t c).st = .closed ∧ (dom t c).cause = 1 ∧ Asks t d c false)) ∧
    (ctlAction x = 3 → unit →
      ((dom s c).st = .off → (dom s c).readmit = false → Gives (.enable d) s fun t => (dom t c).st = .opening ∧ Asks t d c false ∧ t.tiles = s.tiles) ∧
      ((dom s c).st = .off → (dom s c).readmit = true → Gives (.enable d) s fun t => Ended t d 0x02 18 ∧ t.doms = s.doms) ∧
      ((dom s c).st = .opened → Gives (.enable d) s fun t => Ended t d 0x00 (stateWord (dom s c)) ∧ (dom t c).st = .opened) ∧
      ((dom s c).st = .closing ∨ (dom s c).st = .closed → Gives (.enable d) s fun t =>
        (dom t c).st = (dom s c).st ∧ (dom t c).pend = true ∧ Asks t d c ((dom s c).st == .closing))) ∧
    (ctlAction x = 4 → ∀ p : Fin 12, c = parcelCode p.val → s.parcels[p].st = .on → Gives (.evacuate d) s fun t => t.parcels[p].st = .evacuating ∧ closes t ∧
      (∀ k : Fin 8, (prog? s k).isSome = true → touches s k p = true → ∃ y ∈ t.placing, y.slot = k ∧ y.evac = some p) ∧ t.tiles = s.tiles)

/-- Fences and reopenings (R424, R435 to R438, R447 to R450, R461, R495). At its halt a program's queues are empty and its domain CLOSED; a closed domain goes OFF, frees a program's slot and zero-fills
its memory, and opens again where the action calls for it; one that fails its initialisation is OFF and, a hub, re-admitted only by READMIT. MGMT reopens if the image verifies, with what waited for it;
two seconds after its close the engine is FATAL. -/
def Obligations.DomainLifeResults : Prop :=
  ∀ s : State,
    (∀ (k : Fin 8) g, (dom s (progCode k.val)).st = .closing → prog? s k = some g → haltReached s g = true →
      Gives (.fenceHalt (BitVec.ofNat 16 (progCode k.val))) s fun t => (dom t (progCode k.val)).st = .closed ∧ (∃ h, prog? t k = some h ∧ h.running = false) ∧
        ∀ u, inFoot k (tileAt s u) = true → (tileAt t u).router.en = false ∧ (tileAt t u).router.ctlQ = [] ∧ (tileAt t u).router.datQ = [] ∧ (tileAt t u).acts = [] ∧
          (∀ i : Fin 8, ((tileAt t u).chans[i]).queue = []) ∧ (tileAt t u).sram = (tileAt s u).sram ∧ (tileAt t u).slab = (tileAt s u).slab) ∧
    (∀ c : BitVec 16, (1 ≤ c.toNat / 256 ∧ c.toNat / 256 ≤ 4) → (dom s c.toNat).st = .closing → Gives (.fenceHalt c) s fun t =>
      (dom t c.toNat).st = .closed ∧ (dom t c.toNat).cause = (dom s c.toNat).cause ∧ t.tiles = s.tiles) ∧
    (∀ (k : Fin 8) ok, (dom s (progCode k.val)).st = .closed → (dom s (progCode k.val)).held = false →
      Gives (.domainReset (BitVec.ofNat 16 (progCode k.val)) ok) s fun t => (dom t (progCode k.val)).st = .off ∧ prog? t k = none ∧
        ∀ u, (tileAt s u).placed = true → (tileAt s u).pslot = k → (tileAt t u).placed = false ∧ (tileAt t u).sram = [] ∧ (tileAt t u).slab = []) ∧
    (∀ c : BitVec 16, codeOk c.toNat = true → (c.toNat / 256 = 3 ∨ c.toNat / 256 = 4) → (dom s c.toNat).st = .closed → (dom s c.toNat).held = false → (dom s c.toNat).readmit = false →
      s.marks = [] →
      ((dom s c.toNat).pend = true ∨ (dom s c.toNat).reopen = true →
        (Gives (.domainReset c true) s fun t => (dom t c.toNat).st = .opened ∧ (dom t c.toNat).pend = false) ∧
        (c.toNat ≠ hubCode 0 → Gives (.domainReset c false) s fun t => (dom t c.toNat).st = .off ∧ (dom t c.toNat).cause = 4 ∧
          ((dom t c.toNat).readmit = true ↔ c.toNat / 256 = 3))) ∧
      ((dom s c.toNat).pend = false → (dom s c.toNat).reopen = false → ∀ ok, Gives (.domainReset c ok) s fun t => (dom t c.toNat).st = .off ∧ t.tiles = s.tiles)) ∧
    (∀ ok, (dom s hostifCode).st = .closed → (dom s hostifCode).held = false → s.hostif.link = true → s.hostif.perst = false →
      Gives (.domainReset (BitVec.ofNat 16 hostifCode) ok) s fun t => (dom t hostifCode).st = .opened ∧ t.tiles = s.tiles) ∧
    ((dom s mgmtCode).st = .closed → s.sec.staged = none → fwHolds s = true → Gives .mgmtReopen s fun t =>
      (dom t mgmtCode).st = .opened ∧ (dom t mgmtCode).pend = false ∧ t.pwr.mgmtForce = false ∧ t.log.buf = [] ∧ t.deferred = []) ∧
    ((dom s mgmtCode).st = .closed → s.sec.staged = none → fwHolds s = false → exec .mgmtReopen s = .next s) ∧
    ((dom s mgmtCode).st = .closing ∨ (dom s mgmtCode).st = .closed → (dom s mgmtCode).since + ms 2000 ≤ s.time → Gives .mgmtReopenTimeout s fun t =>
      (∃ e, t.module.fatal = some e ∧ e.src = 0x22 ∧ e.info = if (dom s mgmtCode).cause = 2 then 3 else 2) ∧ t.hostif.link = false ∧
      ∀ p : Fin 12, t.parcels[p].st = .off ∧ t.parcels[p].logicOn = false)

/-- Progress watches, heartbeats and the policy (R426, R443 to R446). A watch that expires takes its program, or the SQ's oldest descriptor's program or HOSTIF, out of service with cause 2 and ends that
descriptor TIMEOUT; a hub unit without a heartbeat closes its domain with cause 2; WATCH_SET answers the previous window, POLICY_SET the previous setting. -/
def Obligations.WatchAndPolicyResults : Prop :=
  ∀ s : State,
    let live (k : Fin 8) : Prop := (dom s (progCode k.val)).st ≠ .closing ∧ (dom s (progCode k.val)).st ≠ .closed
    (∀ k : Fin 8, watchDue s k.val = true → (prog? s k).isSome = true → live k → Gives (.programWatchExpiry k) s fun t =>
      Fencing t (progCode k.val) 2 (nextRseq s) ∧ Recorded s t fun e => e.src = 0x1F) ∧
    (∀ k : Fin 8, watchDue s k.val = false → exec (.programWatchExpiry k) s = .next s) ∧
    (∀ (p : Fin 64) x, watchDue s (256 + p.val) = true → 0 < sqReady (sqOf s p) → s.hostif.descs.find? (fun y => y.ref.sq == p) = some x → x.outc = none →
      Gives (.sqWatchExpiry p) s fun t => Ended t x.ref 0x0B 0 ∧ t.tiles = s.tiles ∧
        (∀ k : Fin 8, slotOf x = some k → (prog? s k).isSome = true → live k → Fencing t (progCode k.val) 2 (nextRseq s)) ∧
        (smallest s x = hostifCode → isOpen s hostifCode = true → Fencing t hostifCode 2 (nextRseq s))) ∧
    (∀ p : Fin 64, watchDue s (256 + p.val) = false ∨ sqReady (sqOf s p) = 0 → exec (.sqWatchExpiry p) s = .next s) ∧
    (∀ u : BitVec 24, epKind u = 2 → epOk u = true → isOpen s (unitDom (epHub u) (epUnit u)) = true → Gives (.heartbeatWatch u) s fun t =>
      Fencing t (unitDom (epHub u) (epUnit u)) 2 (nextRseq s) ∧ t.tiles = s.tiles) ∧
    (∀ d x, Starts s 0x43 d x → (watchChecks x).find? (·.1) = none →
      (fld x 16 1 = 1 → (prog? s (fin8 (fld x 17 1))).isSome = true ∧ live (fin8 (fld x 17 1))) → Gives (.watchSet d) s fun t =>
        Ended t d 0x00 (match find? s.watches (watchKey x) with
          | some w => w.win
          | none => 0) ∧
        find? t.watches (watchKey x) = (if fld x 20 4 = 0 then none else some { win := fld x 20 4, counted := 0, seen := watchSeen s (watchKey x) }) ∧
        { t with watches := s.watches, hostif := s.hostif } = s) ∧
    (∀ d x, Starts s 0x45 d x → fld x 18 2 ≠ 0 → fld x 18 2 ≤ 8760 → Gives (.policySet d) s fun t =>
      Ended t d 0x00 (s.boot.policy % 2 + 2 ^ 16 * s.boot.recurH) ∧ t.boot.policy = fld x 16 1 % 2 ∧ t.boot.recurH = fld x 18 2 ∧
      { t with boot := s.boot, hostif := s.hostif } = s)

/-! ## Management descriptors and security (R426, R455, R456, R460, R475, R480, R482, R484, R487, R491 to R505) -/

/-- The management descriptors (R456, R460, R480, R482, R484, R487, R498): the log's records from an RSEQ on and the lees record are written with what they count; the current records are written as
a block; firmware, a parameter block, a topology and a certificate chain are read. Read firmware that verifies starts in stage 5, if none runs; firmware that fails a check ends AUTH_FAIL with that
check's number. -/
def Obligations.ManagementResults : Prop :=
  ∀ (d : DescRef) (x : Desc) (s : State), isOpen s mgmtCode = true → isOpen s hostifCode = true → x.old = false →
    let sent (t : State) (b : List Byte) : Prop := b ≠ [] → .hostWrite (BitVec.ofNat 64 (fld x 16 8)) b ∈ t.out
    let n := fld x 24 4
    (Starts s 0x40 d x → 64 ≤ n → n ≤ 262144 → n % 64 = 0 → Gives (.logFetch d) s fun t =>
      let l := fromRseq s (fld x 28 4) (n / 64)
      Ended t d 0x00 (((l.head?.map (·.rseq)).getD (fld x 28 4)) + 2 ^ 32 * l.length) ∧ sent t (l.flatMap recBytes) ∧
      { t with hostif := s.hostif, out := s.out } = s) ∧
    (Starts s 0x41 d x → 64 ≤ n → n ≤ 16777216 → fld x 28 4 % 64 = 0 → Gives (.leesFetch d) s fun t => EndedAs t d 0x00) ∧
    (Starts s 0x41 d x → 64 ≤ n → n ≤ 16777216 → fld x 28 4 % 64 = 0 →
      (∀ r ∈ s.reserved, r.area = .lees → ∀ c ∈ r.copies, ∀ u ∈ c.1, (tileAt s u).ecc = []) → Gives (.leesFetch d) s fun t =>
      { t with hostif := s.hostif, out := s.out, lees := s.lees } = s ∧
      (s.lees = none → Ended t d 0x00 0 ∧ t.lees = none) ∧
      (∀ l, s.lees = some l → let b := (l.bytes.drop (fld x 28 4)).take n
        Ended t d 0x00 (b.length + 2 ^ 32 * l.seq) ∧ sent t b ∧ t.lees = if fld x 32 1 % 2 = 1 then none else some l)) ∧
    (Starts s 0x54 d x → Gives (.recordsFetch d) s fun t =>
      let b := paramBlock s (recordSections s)
      Ended t d 0x00 (b.length + if n < b.length then 2 ^ 32 else 0) ∧ sent t (b.take n) ∧ { t with hostif := s.hostif, out := s.out } = s) ∧
    (Starts s 0x50 d x → 5 ≤ s.boot.stage → 4096 ≤ n → n ≤ 33554432 → Gives (.fwLoad d) s fun t => Reads t d .firmware (fld x 16 8) n) ∧
    (Starts s 0x51 d x → n ≠ 0 → n ≤ 2097152 → Gives (.paramSupply d) s fun t => Reads t d .block (fld x 16 8) n) ∧
    (Starts s 0x52 d x → Gives (.topologySet d) s fun t => Reads t d .topology (fld x 16 8) 192) ∧
    (Starts s 0x53 d x → n ≠ 0 → n ≤ 16384 → Gives (.certChain d) s fun t => Reads t d .chain (fld x 16 8) n) ∧
    (∀ tag r b, Awaits s tag r x → r.why = .firmware → x.fault = none → x.dropped = false → b.length = r.len → r.len = n →
      (∀ c, fwFault s b n = some c → Gives (.hostReadCompletion tag (.data b)) s fun t => Ended t r.desc 0x0D (c + 256) ∧ t.sec = s.sec) ∧
      (fwFault s b n = none → s.boot.stage = 5 → s.sec.fw = none → Gives (.hostReadCompletion tag (.data b)) s fun t =>
        Ended t r.desc 0x00 ((fwOf b).ver.toNat + 2 ^ 32 * (fwOf b).arb) ∧ t.sec = { s.sec with fw := some (fwOf b) }))

/-- The DOE mailbox and the PHY firewall (R497, R500, R501, R503 to R505): a request before the firmware runs is answered 1, one of another length 2; ATTEST answers the signed report, GET_CHAIN the
chain, UNLOCK_CHALLENGE a fresh challenge, and UNLOCK unlocks what an accepted token names, once per challenge. A dropped PHY access is counted; more than 1,024 within a second isolate the die. -/
def Obligations.SecurityResults : Prop :=
  ∀ s : State, isOpen s hostifCode = true →
    let answers (c : Instr) (st : Byte) (b : List Byte) : Prop := exec c s = .next { s with out := .doe ([st, 0, 0, 0] ++ b) :: s.out }
    (∀ req, doeReady s = false → answers (.attest req) 1 [] ∧ answers (.getChain req) 1 [] ∧ answers (.unlockChallenge req) 1 [] ∧ answers (.unlock req) 1 []) ∧
    (∀ req, doeReady s = true →
      (req.length = 32 → answers (.attest req) 0 (reportBody s req ++ idSign s (reportBody s req))) ∧ (req.length ≠ 32 → answers (.attest req) 2 []) ∧
      (req = [] → answers (.getChain req) 0 s.sec.chain) ∧ (req ≠ [] → answers (.getChain req) 2 [] ∧ answers (.unlockChallenge req) 2 []) ∧
      (req = [] → Gives (.unlockChallenge req) s fun t => ∃ c : List Byte, c.length = 32 ∧ .doe ([0, 0, 0, 0] ++ c) ∈ t.out ∧ t.sec = { s.sec with chal := some c } ∧
        { t with out := s.out, sec := s.sec, free := s.free } = s) ∧
      (req.length ≠ 296 → answers (.unlock req) 2 []) ∧
      (req.length = 296 → tokenOk s req = true → Gives (.unlock req) s fun t => .doe [0, 0, 0, 0] ∈ t.out ∧
        t.sec = { s.sec with chal := none, jtag := s.sec.jtag || (byteAt req 7).testBit 0, tmux := s.sec.tmux || (byteAt req 7).testBit 1, debug := true } ∧ t.tiles = s.tiles) ∧
      (req.length = 296 → tokenOk s req = false → Gives (.unlock req) s fun t => .doe [3, 0, 0, 0] ∈ t.out ∧ t.sec = { s.sec with chal := none } ∧
        { t with out := s.out, sec := s.sec } = s)) ∧
    (∀ (die : Fin 8) a, phyPasses a = true → exec (.phyAccess die a) s = .next s) ∧
    (∀ (die : Fin 8) a, phyPasses a = false → s.module.phys.getLsbD die.val = true →
      let recent := (s.sec.drops[die]).filter fun u => decide (s.time < u + ms 1000)
      (recent.length < 1024 → Gives (.phyAccess die a) s fun t => (t.sec.drops[die]) = s.time :: recent ∧ t.module = s.module ∧ t.edge = s.edge) ∧
      (1024 ≤ recent.length → Gives (.phyAccess die a) s fun t => t.module.phys.getLsbD die.val = false ∧ (t.sec.drops[die]) = [] ∧
        ∀ n : Fin 24, n.val / 3 = die.val → ((portOf t n).st = .disabled ∨ (portOf t n).st = .failed) ∧
          ((portOf s n).st ≠ .disabled ∨ isOpen s (hubCode (hubOf n.val)) = true ∧ reach s (hubOf n.val) = true → (portOf t n).st = .failed)))

/-! ## Edge ports (R324 to R330, R343, R344, R352, R353, R518) -/

namespace Sys2Proof.Machine

/-- The other edge ports are as they were. -/
def OtherPorts (s t : State) (n : Fin 24) : Prop := ∀ m : Fin 24, m ≠ n → portOf t m = portOf s m
/-- A flit that its receiver takes: its codewords decode and its CRC holds (R331, R334). -/
structure CleanFlit (f : Flit) : Prop where
  fec : f.uncorr = false
  fix : f.fixed = 0
  crc : flitOk f = true

end Sys2Proof.Machine

/-- The states of an edge port (R326, R327, R329, R330, R343, R344, R353, R518): EN takes a served port to ID_READ and, cleared, to DISABLED; of a bank's ports one at a time has its identity page read; a good identity page, or none where it is not asked for, leads
to TRAINING, an allowed lane group to HELLO, three HELLOs sent after a valid one came to UP; every bound that passes, a bad page, an own ID or an excess current leads to FAILED; after 1 s a FAILED port
starts again; a port that loses its cable in UP retrains, and comes UP again with an allowed lane group. -/
def Obligations.PortStateResults : Prop :=
  ∀ (n : Fin 24) (s : State),
    let p := portOf s n
    let fails (c : Instr) : Prop := Gives c s fun t => (portOf t n).st = .failed ∧ (portOf t n).power = 0 ∧ (portOf t n).width = 0 ∧ (portOf t n).replay = []
    (isOpen s hostifCode = true → isOpen s mgmtCode = true → ∀ v,
      (p.st = .disabled → portServed s n = true → isOpen s (edgeCode n.val) = true → Gives (.portEnable n v) s fun t => (portOf t n).st = .idRead ∧ (portOf t n).en = true ∧
        (portOf t n).minw = v.toNat / 4 % 4 ∧ (portOf t n).noid = v.getLsbD 1 ∧ (portOf t n).tsync = v.getLsbD 4 ∧ OtherPorts s t n) ∧
      (p.st ≠ .disabled → isOpen s (hubCode (hubOf n.val)) = true → reach s (hubOf n.val) = true → Gives (.portEnable n v) s fun t =>
        (portOf t n).st = p.st ∧ (portOf t n).en = true ∧ (portOf t n).minw = v.toNat / 4 % 4 ∧ OtherPorts s t n) ∧
      (Gives (.portDisable n v) s fun t => (portOf t n).st = .disabled ∧ (portOf t n).en = false)) ∧
    (isOpen s hostifCode = true → isOpen s mgmtCode = false → ∀ v, Gives (.portDisable n v) s fun t =>
      find? t.deferred (0x90100 + 0x40 * n.val) = some (BitVec.ofNat 64 (v.toNat / 2 * 2)) ∧ { t with deferred := s.deferred } = s) ∧
    (∀ page, busPort s (n.val / 6) ≠ some n → exec (.identityRead n page) s = .next s) ∧
    (∀ page, p.st = .idRead → busPort s (n.val / 6) = some n →
      (pageFault p page = none → Gives (.identityRead n page) s fun t => (portOf t n).st = .training ∧ (portOf t n).idok = true ∧ some (portOf t n).idpage = page ∧ OtherPorts s t n) ∧
      (pageFault p page ≠ none → p.noid = true → Gives (.identityRead n page) s fun t => (portOf t n).st = .training ∧ (portOf t n).idok = false ∧ OtherPorts s t n) ∧
      (pageFault p page ≠ none → p.noid = false → fails (.identityRead n page))) ∧
    (∀ tr, p.st = .training →
      (∀ g, trainGroup p tr = some g → Gives (.trainingDone n tr) s fun t => (portOf t n).st = .hello ∧ (portOf t n).width = g.1 ∧ (portOf t n).base = g.2 ∧
        (portOf t n).rev = (heardOrder tr == LaneOrder.reversed) ∧ (portOf t n).inv = tr.inverted ∧ (portOf t n).heard = false ∧ OtherPorts s t n) ∧
      (trainGroup p tr = none → fails (.trainingDone n tr))) ∧
    (∀ b, stBound s p = some b → p.at_ + b ≤ s.time →
      (p.st = .idRead → p.noid = true → Gives (.trainingTimeout n) s fun t => (portOf t n).st = .training ∧ OtherPorts s t n) ∧
      (p.st ≠ .idRead ∨ p.noid = false → fails (.trainingTimeout n))) ∧
    (p.st = .failed → p.en = true → p.at_ + ms 1000 ≤ s.time → portServed s n = true → isOpen s (edgeCode n.val) = true →
      Gives (.failedRetry n) s fun t => (portOf t n).st = .idRead ∧ (portOf t n).at_ = s.time ∧ OtherPorts s t n) ∧
    (p.st = .hello →
      (Gives (.helloSend n) s fun t => ∃ f, .flit n f ∈ t.out ∧ f.ftype = 2 ∧ f.body = padTo 240 (helloBody s n)) ∧
      (p.hellos < 2 → Gives (.helloSend n) s fun t => (portOf t n).st = .hello ∧ (portOf t n).hellos = p.hellos + (if p.heard then 1 else 0)) ∧
      (p.heard = true → p.hellos = 2 → ownId s ≤ 127 → s.boot.ready = false → Gives (.helloSend n) s fun t => (portOf t n).st = .up) ∧
      (∀ f, CleanFlit f → p.cwBad = false → f.ftype = 2 → byteAt f.body 0 = 1 → ownId s ≤ 127 →
        (byteAt f.body 1 = ownId s → fails (.hello n f)) ∧
        (byteAt f.body 1 ≠ ownId s → byteAt f.body 4 = 1 → byteAt f.body 3 % 2 = 0 → Gives (.hello n f) s fun t => (portOf t n).heard = true ∧
          (portOf t n).peerId = byteAt f.body 1 ∧ (portOf t n).peerPort = byteAt f.body 2 ∧ (portOf t n).st = .hello ∧
          (∀ i : Fin 4, ((portOf t n).txCred[i]) = fieldLE f.body (20 + 2 * i.val) 2) ∧ OtherPorts s t n))) ∧
    (∀ tr, p.st = .retrain →
      (∀ g, trainGroup p tr = some g → s.boot.ready = false → Gives (.retrainDone n tr) s fun t => (portOf t n).st = .up ∧ (portOf t n).width = g.1 ∧
        (portOf t n).base = g.2 ∧ (portOf t n).rev = (heardOrder tr == LaneOrder.reversed)) ∧
      (trainGroup p tr = none → fails (.retrainDone n tr)) ∧
      (p.at_ + ms 10 ≤ s.time → fails (.retrainTimeout n)) ∧ (s.time < p.at_ + ms 10 → exec (.retrainTimeout n) s = .next s)) ∧
    (Gives (.cableRemoval n) s fun t => (portOf t n).power = 0 ∧ (p.st = .up → (portOf t n).st = .retrain ∧ (portOf t n).replay = p.replay.map (fun e => (e.1, 0))) ∧
      (p.st ≠ .up → (portOf t n).st = p.st) ∧ OtherPorts s t n) ∧
    (p.power ≠ 0 → fails (.cblOvercurrent n)) ∧ (p.power = 0 → exec (.cblOvercurrent n) s = .next s)

/-! ## Flits and time probes (R331 to R338, R348, R349) -/

namespace Sys2Proof.Machine

/-- A CTRL flit with a body has left a port (R337). -/
def SendsCtrl (t : State) (n : Fin 24) (b : List Byte) : Prop := ∃ g, .flit n g ∈ t.out ∧ g.ftype = 2 ∧ g.body = padTo 240 b
/-- A held DATA flit has left a port again (R335). -/
def Resends (t : State) (n : Fin 24) (f : Flit) : Prop := ∃ g, .flit n g ∈ t.out ∧ g.ftype = 1 ∧ g.seq = f.seq ∧ g.vc = f.vc ∧ g.thdr = f.thdr ∧ g.body = padTo 240 f.body

end Sys2Proof.Machine

/-- The link layer of a port in UP with nothing waiting to go (R334 to R338). A DATA flit in sequence moves the expected SEQ on and its packet reaches the transport; one out of sequence, or with a bad CRC, is
discarded, counted and answered by a NAK with the expected SEQ; every good flit's ACK frees what it acknowledges and its credits are added; a NAK, and 4 µs without ACK progress, have every unacknowledged
flit sent again, and when one has been sent again sixteen times the port retrains. -/
def Obligations.LinkLayerResults : Prop :=
  ∀ (n : Fin 24) (s : State), (portOf s n).st = .up → (portOf s n).txq = [] → (portOf s n).cwBad = false →
    let p := portOf s n
    let nak : List Byte := [2] ++ leBytes 2 p.rxSeq.toNat
    let refused (f : Flit) : Prop := Gives (.data n f) s fun t => (portOf t n).rxSeq = p.rxSeq ∧ (portOf t n).inbox = p.inbox ∧
      (portOf t n).crcErr = sat32 (p.crcErr + 1) ∧ (p.nakAt = none → SendsCtrl t n nak)
    let replays (c : Instr) : Prop :=
      ((∀ e ∈ p.replay, e.2 < 15) → Gives c s fun t => (∀ e ∈ p.replay, Resends t n e.1) ∧ (portOf t n).st = .up ∧
        (portOf t n).replay = p.replay.map (fun e => (e.1, e.2 + 1)) ∧ (portOf t n).replays = sat32 (p.replays + 1)) ∧
      ((∃ e ∈ p.replay, 15 ≤ e.2) → Gives c s fun t => (∀ e ∈ p.replay, Resends t n e.1) ∧ (portOf t n).st = .retrain ∧
        (portOf t n).replay = p.replay.map fun e => (e.1, 0))
    (∀ f, CleanFlit f → f.ftype = 1 →
      (f.seq = p.rxSeq → Gives (.data n f) s fun t => (portOf t n).rxSeq = p.rxSeq + 1 ∧
        let q := pktOf f.thdr.toNat (f.body.take (min 240 (bitsOf f.thdr.toNat 48 8)))
        (bitsOf f.thdr.toNat 40 5 = 0 → bitsOf f.thdr.toNat 45 1 = 1 → partFits f.vc.toNat f.thdr.toNat q 0 = true → (portOf t n).inbox = p.inbox ++ [q])) ∧
      (f.seq ≠ p.rxSeq → refused f)) ∧
    (∀ f, f.uncorr = false → f.fixed = 0 → flitOk f = false → f.ftype = 1 → refused f) ∧
    (∀ f, CleanFlit f → f.ftype = 0 → Gives (.idle n f) s fun t => OtherPorts s t n ∧ (portOf t n).rxSeq = p.rxSeq ∧ (portOf t n).inbox = p.inbox ∧
      (∀ i : Fin 4, ((portOf t n).txCred[i]) = (p.txCred[i]) + if i.val = f.cvc.toNat then f.ccnt.toNat else 0) ∧
      (∀ g r, p.replay = g :: r → (f.ack - g.1.seq).toNat ≤ p.replay.length → (portOf t n).replay = p.replay.drop (f.ack - g.1.seq).toNat) ∧
      (∀ g r, p.replay = g :: r → p.replay.length < (f.ack - g.1.seq).toNat → (portOf t n).replay = p.replay)) ∧
    (∀ f g r, CleanFlit f → f.ftype = 2 → byteAt f.body 0 = 2 → p.replay = g :: r → f.ack = g.1.seq → replays (.nak n f)) ∧
    (p.replay ≠ [] → p.ackAt + us 4 ≤ s.time → replays (.replayTimeout n)) ∧ (s.time < p.ackAt + us 4 → exec (.replayTimeout n) s = .next s)

/-- Time probes (R348, R349): a probe carries its time of sending, an answer carries it back with the times of its receipt and sending, and offset and delay follow from the four times; a probe without an
answer for 100 µs is given up and the registers stay. -/
def Obligations.TimeProbeResults : Prop :=
  ∀ (n : Fin 24) (s : State), (portOf s n).st = .up → (portOf s n).txq = [] → (portOf s n).cwBad = false →
    let p := portOf s n
    (p.tsync = true → ∀ d, probeDst s p = some d → Gives (.tsyncProbe n) s fun t => (portOf t n).probe = some (s.time, BitVec.ofNat 64 (stamp s)) ∧
      SendsCtrl t n ([3] ++ leBytes 1 d ++ leBytes 1 (ownId s) ++ zeros 5 ++ leBytes 8 (stamp s)) ∧ OtherPorts s t n) ∧
    (p.tsync = false → exec (.tsyncProbe n) s = .next s) ∧
    (∀ f, CleanFlit f → f.ftype = 2 →
      (byteAt f.body 0 = 3 → p.tsync = true → Gives (.tprobe n f) s fun t => SendsCtrl t n ([4] ++ leBytes 1 (byteAt f.body 2) ++ leBytes 1 (ownId s) ++ zeros 5 ++
        leBytes 8 (fieldLE f.body 8 8) ++ leBytes 8 (stamp s) ++ leBytes 8 (stamp s) ++ leBytes 8 (fieldLE f.body 32 8))) ∧
      (∀ at_ t1, byteAt f.body 0 = 4 → p.probe = some (at_, t1) →
        let i (o : Nat) : Int := (BitVec.ofNat 64 (fieldLE f.body o 8)).toInt
        let t4 : Int := (BitVec.ofNat 64 (stamp s)).toInt
        let off := (i 16 - t1.toInt - i 32) - (t4 - i 24 - i 40)
        let dly := t4 - t1.toInt - (i 24 - i 16) - i 32 - i 40
        (s.time ≤ at_ + us 100 → fieldLE f.body 8 8 = t1.toNat → Gives (.treply n f) s fun t => (portOf t n).probe = none ∧
          (off % 2 = 0 → (portOf t n).toff = BitVec.ofInt 64 (off / 2)) ∧ (dly % 2 = 0 → (portOf t n).tdly = BitVec.ofInt 32 (dly / 2)) ∧ OtherPorts s t n) ∧
        (fieldLE f.body 8 8 ≠ t1.toNat → Gives (.treply n f) s fun t => (portOf t n).probe = p.probe ∧ (portOf t n).toff = p.toff ∧ (portOf t n).tdly = p.tdly))) ∧
    (∀ at_ t1, p.probe = some (at_, t1) → at_ + us 100 ≤ s.time → Gives (.probeTimeout n) s fun t => (portOf t n).probe = none ∧ (portOf t n).toff = p.toff ∧
      (portOf t n).tdly = p.tdly ∧ OtherPorts s t n)

/-! ## The edge transport (R338 to R342, R345, R346, R351, R381 to R383) -/

namespace Sys2Proof.Machine

/-- An edge descriptor passes its checks: its fields, its program's where it names one, and its peer has a route and is up (R311, R342, R345, R346). -/
structure EdgeReady (s : State) (x : Desc) : Prop where
  turn   : edgeBehind s x = false
  fields : (edgeChecks x s).find? (·.1) = none
  prog   : edgeKind x = 0 ∨ ∃ k g, OnProg s x k g ∧ (edgeProgChecks x g).find? (·.1) = none
  route  : s.edge.routes[fin128 (edgePeer x)] ≠ 0
  up     : (peerOf s (edgePeer x)).down = none
/-- A descriptor has no collective and no edge message of its own yet. -/
structure Unbound (s : State) (d : DescRef) : Prop where
  colls : ∀ c ∈ s.colls, c.desc ≠ d
  sends : ∀ e ∈ s.edge.chans, ∀ m ∈ e.2.tx, m.desc ≠ some d
  posts : ∀ e ∈ s.edge.chans, ∀ r ∈ e.2.rx, r.desc ≠ some d
/-- No table change is under way on the service net, and nothing is held for one (R280). -/
def NetQuiet (s : State) : Prop := (∀ r ∈ s.snet.reqs, r.epoch = s.snet.epoch) ∧ s.snet.waiting = []
/-- A READ of a run of an object for an EDGE_SEND is on the service net, from the ring engine of the hub that has its channel's port (R23, R260, R345). -/
def EdgeReads (t : State) (x : Desc) (p : Piece) : Prop :=
  ∃ r ∈ t.snet.reqs, r.unit = portRing t (edgeKey x) ∧ r.why = .edgeRead x.ref (p.off - fld x 16 8) ∧ r.opc = 1 ∧ r.keep = p.len ∧
    ∃ q, .packet q ∈ t.out ∧ q.tag = r.tag ∧ q.opc = 1 ∧ q.src = r.unit ∧ q.dst = coreEp p.tile ∧ q.space = spaceBits p.mem ∧ q.addr = BitVec.ofNat 16 (p.at_ / 8)
/-- The message of an EDGE_SEND stands in its channel (R338, R345). -/
def Queued (t : State) (x : Desc) : Prop := ∃ m ∈ (echan t (edgeKey x)).tx, m.desc = some x.ref ∧ m.len = edgeLen x
/-- A peer is down with a cause, and what was under way with it has ended PEER_DOWN: the sends on its channels and the running collectives of its groups (R342, R346, R382). -/
structure Lost (s t : State) (peer cause : Nat) : Prop where
  down  : (peerOf t peer).down = some cause
  sends : ∀ k, k / 256 = peer → ∀ m ∈ (echan s k).tx, ∀ d y, m.desc = some d → descOf s d = some y → y.outc = none → EndedAs t d 0x07
  colls : ∀ c ∈ s.colls, c.live = true → c.group.contains peer = true → ∀ y, descOf s c.desc = some y → y.outc = none → EndedAs t c.desc 0x07

end Sys2Proof.Machine

/-- Edge descriptors and peers (R302, R339, R342, R345, R346, R381 to R383). Each of the six commands completes, with its own effect: EDGE_SEND queues its message on its channel and reads its bytes from
host memory, or from its object over the service net; EDGE_RECV posts a receive; PEER_DOWN, TRANSPORT_TIMEOUT and HEARTBEAT_LOST take a peer down with their cause and end what was under way with it; PEER_UP
opens its channels anew under the incarnation given. -/
def Obligations.EdgeDescriptorResults : Prop :=
  ∀ s : State,
    (∀ (d : DescRef) (x : Desc), EdgeReady s x → Unbound s d →
      (Starts s 0x30 d x → ∃ t, exec (.edgeSend d) s = .next t ∧ Queued t x ∧ t.tiles = s.tiles) ∧
      (Starts s 0x30 d x → edgeKind x = 0 → edgeLen x ≠ 0 → ∃ t, exec (.edgeSend d) s = .next t ∧ Reads t d .edgeData (fld x 16 8) (edgeLen x) ∧
        ∃ m ∈ (echan t (edgeKey x)).tx, m.desc = some d ∧ m.len = edgeLen x ∧ m.sent = 0 ∧ m.done = false) ∧
      (∀ k g o, Starts s 0x30 d x → edgeKind x = 2 → OnProg s x k g → objAt g (fld x 36 4) = some o → NetQuiet s →
        (∀ h, FreeTags s (hubEp h 1) (firstRuns o (fld x 16 8) (edgeLen x)).length) →
        (∀ p ∈ firstRuns o (fld x 16 8) (edgeLen x), Reaches s p.tile) → ∃ t, exec (.edgeSend d) s = .next t ∧
          ∀ p ∈ firstRuns o (fld x 16 8) (edgeLen x), EdgeReads t x p) ∧
      (Starts s 0x31 d x → ∃ t, exec (.edgeRecv d) s = .next t ∧
        (∃ r ∈ (echan t (edgeKey x)).rx, r.desc = some d ∧ r.len = edgeLen x ∧ r.come = 0 ∧ r.live = true) ∧
        ((∀ r ∈ (echan s (edgeKey x)).rx, isSpare r = false) → (echan t (edgeKey x)).posted = (echan s (edgeKey x)).posted + 1))) ∧
    (∀ (d : DescRef) (x : Desc), Unbound s d → fld x 16 1 ≤ 127 → fld x 16 1 ≠ ownId s →
      (Starts s 0x34 d x →
        ((peerOf s (fld x 16 1)).down = none → ∃ t, exec (.peerDown d) s = .next t ∧ EndedAs t d 0x00 ∧ Lost s t (fld x 16 1) 3) ∧
        ((peerOf s (fld x 16 1)).down ≠ none → ∃ t, exec (.peerDown d) s = .next t ∧ Ended t d 0x00 0 ∧ t.edge = s.edge)) ∧
      (Starts s 0x35 d x →
        ((peerOf s (fld x 16 1)).down ≠ none ∨ (peerOf s (fld x 16 1)).inc ≠ fld x 17 1 % 16 → ∃ t, exec (.peerUp d) s = .next t ∧ EndedAs t d 0x00 ∧
          peerOf t (fld x 16 1) = { down := none, inc := fld x 17 1 % 16, heard := none, beat := none } ∧
          ∀ e ∈ t.edge.chans, e.1 / 256 = fld x 16 1 → e.2.tx = [] ∧ e.2.rx = [] ∧ e.2.unack = [] ∧ e.2.txPsn = 0 ∧ e.2.rxPsn = 0) ∧
        ((peerOf s (fld x 16 1)).down = none → (peerOf s (fld x 16 1)).inc = fld x 17 1 % 16 → ∃ t, exec (.peerUp d) s = .next t ∧ Ended t d 0x00 0 ∧ t.edge = s.edge))) ∧
    (∀ peer : Fin 128, (peerOf s peer.val).down = none →
      let late : Prop := ∃ e ∈ s.edge.chans, e.1 / 256 = peer.val ∧ ∃ u ∈ e.2.unack, u.2 + tmo s < s.time
      (late → ∃ t, exec (.transportTimeout peer) s = .next t ∧ Lost s t peer.val 1) ∧ (¬late → exec (.transportTimeout peer) s = .next s) ∧
      (∀ u, (peerOf s peer.val).heard = some u → u + tmo s < s.time → ∃ t, exec (.heartbeatLost peer) s = .next t ∧ Lost s t peer.val 2) ∧
      ((peerOf s peer.val).heard = none → exec (.heartbeatLost peer) s = .next s) ∧
      (∀ u, (peerOf s peer.val).heard = some u → s.time ≤ u + tmo s → exec (.heartbeatLost peer) s = .next s)) ∧
    (∀ peer : Fin 128, (peerOf s peer.val).down ≠ none → exec (.transportTimeout peer) s = .next s ∧ exec (.heartbeatLost peer) s = .next s)

/-- Packets of the edge transport (R338 to R340, R345, R351): the expected packet of a channel goes to its receive, written to host memory at the bytes already come (from another hub's port by way of HUB-W, R22), and with the message's last packet the
descriptor ends; a packet ahead of the expected PSN, or of no peer that is up, is discarded and counted; a TACK frees the packets below its PSN, raises the grant, and ends a send whose message it covers; a TACK due that
no port can carry stays due (R339); a heartbeat marks its peer as heard. -/
def Obligations.EdgePacketResults : Prop :=
  ∀ (n : Fin 24) (s : State),
    let counted (t : State) (i : Nat) : Prop := (portOf t n).crcErr = sat32 ((portOf s n).crcErr + 1) ∧ (portOf t n).inbox = (portOf s n).inbox.eraseIdx i
    (∀ i q, nextMsg s n = some (i, q) → q.kind = 0 →
      let c := echan s (pktKey q)
      (pktGood s q = true → q.psn = c.rxPsn % 65536 → ∀ r d x, curPost c = some r → r.desc = some d → descOf s d = some x → r.live = true → edgeKind x = 0 →
        Gives (.edgeMsgPacket n) s fun t =>
          (echan t (pktKey q)).rxPsn = c.rxPsn + 1 ∧ (peerOf t q.src).heard = some s.time ∧ (portOf t n).inbox = (portOf s n).inbox.eraseIdx i ∧
          (fitting r q ≠ [] → hubOf n.val = 0 → isOpen s hostifCode = true → x.old = false →
            .hostWrite (BitVec.ofNat 64 (fld x 16 8 + r.come)) (fitting r q) ∈ t.out) ∧
          (fitting r q ≠ [] → hubOf n.val ≠ 0 → FreeTags s (hubEp (hubOf n.val) 6) 1 → unreach s (epochBit s) 12 = false → ∃ p, .packet p ∈ t.out ∧ p.opc = 3 ∧ p.cls = 1 ∧ p.src = hubEp (hubOf n.val) 6 ∧
            p.dst = hubEp 0 1 ∧ p.first = true ∧ p.payload = (fitting r q ++ zeros ((8 - (fitting r q).length % 8) % 8)).take 1024) ∧
          (hubOf n.val = 0 → busyDesc s d = false → isOpen s hostifCode = true → x.old = false → x.dropped = false → x.outc = none → x.fault = none → q.mlast = true →
            (r.come + q.bytes.length ≤ r.len → Ended t d 0x00 (r.come + q.bytes.length + if q.abort then 2 ^ 32 else 0)) ∧
            (r.len < r.come + q.bytes.length → Ended t d 0x0E 24))) ∧
      (pktGood s q = true → q.psn ≠ c.rxPsn % 65536 → 32768 ≤ (c.rxPsn + 65536 - q.psn) % 65536 → Gives (.edgeMsgPacket n) s fun t =>
        counted t i ∧ (echan t (pktKey q)) = c) ∧
      (pktGood s q = false → Gives (.edgeMsgPacket n) s fun t => counted t i ∧ t.edge.chans = s.edge.chans ∧ t.edge.peers = s.edge.peers)) ∧
    (∀ i q, firstOf s n 1 = some (i, q) → pktGood s q = true →
      let c := echan s (pktKey q)
      let up := (fieldLE q.bytes 2 2 + 65536 - c.grant % 65536) % 65536
      (Gives (.tack n) s fun t => (echan t (pktKey q)).grant = (if up < 32768 then c.grant + up else c.grant) ∧ (peerOf t q.src).heard = some s.time) ∧
      (∀ m d x, c.tx = [m] → m.done = true → m.desc = some d → descOf s d = some x → x.outc = none → x.fault = none → x.dropped = false →
        (∀ e l, c.unack = e :: l → (fieldLE q.bytes 0 2 + 65536 - e.1.psn) % 65536 = c.unack.length) → Gives (.tack n) s fun t => Ended t d 0x00 m.sent)) ∧
    (∀ i q, firstOf s n 2 = some (i, q) →
      (pktGood s q = true → Gives (.heartbeat n) s fun t => (peerOf t q.src).heard = some s.time ∧ (portOf t n).inbox = (portOf s n).inbox.eraseIdx i ∧
        t.edge.chans = s.edge.chans ∧ OtherPorts s t n) ∧
      (pktGood s q = false → Gives (.heartbeat n) s fun t => counted t i ∧ t.edge.peers = s.edge.peers)) ∧
    (∀ (peer : Fin 128) (chan : BitVec 8) u, (echan s (chanKey peer.val chan.toNat)).ackDue = some u →
      (u + us 1 ≤ s.time → choosePort s (chanKey peer.val chan.toNat) ≠ none → Gives (.tackTimer peer chan) s fun t =>
        (echan t (chanKey peer.val chan.toNat)).ackDue = none ∧ (echan t (chanKey peer.val chan.toNat)).since = 0) ∧
      (u + us 1 ≤ s.time → choosePort s (chanKey peer.val chan.toNat) = none → Gives (.tackTimer peer chan) s fun t =>
        (echan t (chanKey peer.val chan.toNat)).ackDue = some u ∧ (echan t (chanKey peer.val chan.toNat)).tackDue = true ∧ t.out = s.out) ∧
      (s.time < u + us 1 → exec (.tackTimer peer chan) s = .next s)) ∧
    (∀ peer : Fin 128, s.edge.routes[peer] ≠ 0 → peer.val ≠ ownId s → ownId s ≤ 127 → choosePort s (chanKey peer.val 0) = some n → (portOf s n).st = .up →
      (portOf s n).txq = [] → ((portOf s n).txCred[(3 : Fin 4)]) ≠ 0 → (portOf s n).replay.length < 512 → Gives (.heartbeatSend peer) s fun t =>
        (peerOf t peer.val).beat = some s.time ∧ ∃ f, .flit n f ∈ t.out ∧ f.ftype = 1 ∧ f.vc = 3 ∧ bitsOf f.thdr.toNat 56 3 = 2 ∧
          bitsOf f.thdr.toNat 8 8 = peer.val ∧ bitsOf f.thdr.toNat 0 8 = ownId s)

/-! ## Collectives (R354 to R371, R378, R427) -/

namespace Sys2Proof.Machine

/-- A whole message waits on channel `k`, from the ring predecessor of the present phase of the collective that holds the channel and has begun the phase; no other collective waits to start,
and none has an access that failed (R339, R359 to R361). -/
structure AtMessage (s : State) (k : Nat) (b : List Byte) (c : Coll) : Prop where
  msg   : msgOn s k = some b
  coll  : collOn s k = some c
  first : collOf s c.desc = some c
  live  : ∀ y ∈ s.colls, y.live = true
  pred  : predKey c c.phase = k
  runs  : c.phase ≠ endPhase
  begun : c.begun = true
  sound : ∀ y ∈ s.colls, y.fail = none
  clean : s.marks = []
/-- A collective has ended with a status and a DETAIL, and runs no more. -/
def CollEnded (t : State) (c : Coll) (status detail : Nat) : Prop := Ended t c.desc status detail ∧ ∀ y ∈ t.colls, sameColl c y = false
/-- A segment with these elements after its header goes to the successor of the present phase (R361, R364): it joins the channel where the working hub has its port, else it
goes as a MSG message to the hub that has it (R366). -/
def Forwards (s t : State) (c : Coll) (f : Fmt) (l : List Nat) : Prop :=
  let h := hubFor s c
  let p := portHub s (succKey c c.phase)
  let b := packBits f.width l
  (p = h → ∃ m ∈ (echan t (succKey c c.phase)).tx, m.desc = none ∧ m.bytes.drop 64 = b) ∧
  (p ≠ h → unreach s (epochBit s) (12 + p) = false → FreeTags s (hubEp h 3) 1 → ∃ q, .packet q ∈ t.out ∧ q.opc = 3 ∧ q.cls = 1 ∧ q.first = true ∧ q.src = hubEp h 3 ∧ q.dst = hubEp p 6 ∧
    q.payload.drop 64 = (b ++ zeros ((8 - b.length % 8) % 8)).take 960)
/-- The hub that has the successor's channel can be reached from the working hub (R366, R279). -/
def CanSend (s : State) (c : Coll) : Prop :=
  let p := portHub s (succKey c c.phase)
  p = hubFor s c ∨ unreach s (epochBit s) (12 + p) = false
/-- The WRITEs by which a member puts elements into an object (R211, R309). -/
def elemWords (s : State) (o : ObjPlace) (f : Fmt) (i : Nat) (l : List Nat) : Nat :=
  let p := elemSpan f i l.length
  (objWords s o p.1 (withElems f i l (objRead o p.1 p.2 (ahead s)).1)).length
/-- The words of an object that elements change go out as WRITEs of the working hub, as they are to stand (R211, R309, R366). -/
def ElemsSent (s t : State) (c : Coll) (o : ObjPlace) (f : Fmt) (i : Nat) (l : List Nat) : Prop :=
  let p := elemSpan f i l.length
  let b := withElems f i l (objRead o p.1 p.2 (ahead s)).1
  ∀ e ∈ objWords s o p.1 b, ∃ q, .packet q ∈ t.out ∧ q.opc = 2 ∧ q.first = true ∧ q.src = collUnit s c ∧ q.dst = coreEp e.1 ∧ q.space = spaceBits e.2.1 ∧
    q.addr = BitVec.ofNat 16 (e.2.2.1 / 8) ∧ q.payload = (readBytes (memOf (tileAt (objWrite o p.1 b (ahead s)) e.1) e.2.1) e.2.2.1 e.2.2.2).take 1024
/-- DETAIL of SEAL_ERROR: sender, receiver, channel, step, which check, whether the press had applied (R369). -/
def sealDetail (s : State) (c : Coll) (k : Nat) (b : List Byte) (count : Bool) : Nat :=
  k / 256 + 256 * ownId s + 2 ^ 16 * (k % 256) + 2 ^ 24 * fieldLE b 2 1 + (if count then 2 ^ 32 else 0) + (if c.applied then 2 ^ 33 else 0)

end Sys2Proof.Machine

/-- Collectives (R356, R360, R361, R364, R368 to R371, R378, R384, R427). COLLECTIVE reads its group table, and is NOT_READY with no adder in service. A segment whose header disagrees ends the collective BAD_DESCRIPTOR
with that field's offset, of a kind that the schedule awaits or not; one that fails its seal SEAL_ERROR; a good reduce segment is added element by element to the member's own and forwarded, or kept at the last step; a good
gather segment goes as WRITEs to the destination and is forwarded unchanged; norms are kept by rank; a seal notice takes the adders of the hub that worked out of service under the policy RETIRE, and under COMPENSATE first
raises that hub's rail; an abort ends the collective as it says, but for one of an earlier collective. The segments' cases are of cores that are not being moved. -/
def Obligations.CollectiveResults : Prop :=
  ∀ s : State,
    (∀ (d : DescRef) x k g, OnProg s x k g → Starts s 0x32 d x → collOf s d = none → (collChecks x).find? (·.1) = none →
      (bitsOf (fld x 52 1) 3 1 = 1 → (find? g.press (fld x 58 2)).isSome = true) →
      (s.adders ≠ 0 → Gives (.collective d) s fun t => Reads t d .group (fld x 16 8) (fld x 54 1) ∧ t.tiles = s.tiles) ∧
      (s.adders = 0 → Gives (.collective d) s fun t => Ended t d 0x03 5 ∧ t.tiles = s.tiles)) ∧
    (∀ (peer : Fin 128) (chan : BitVec 8) b c, let k := chanKey peer.val chan.toNat
      AtMessage s k b c → (∃ x, descOf s c.desc = some x ∧ x.outc = none) →
        (byteAt b 3 = 0 → isReduce c c.phase = true → coresMove s c.slot = false → ∀ st q g, (dueNow c)[c.got]? = some (st, q, g) → pressWaits s c st = false →
          let f := baseFmt c
          let r := segOf f (chunkRange c c.phase q).2 g
          let start := (chunkRange c c.phase q).1 + r.1
          let sum := ((unpackBits f.width r.2 (b.drop 64)).zip (ownElems c c.phase start r.2)).map fun z => addF f 0 0 z.1 z.2
          (∀ o, headFault c b = some o → Gives (.reduceSegment peer chan) s fun t => CollEnded t c 0x02 o) ∧
          (∀ y, headFault c b = none → sealFault f c.bf r.2 b = some y → Gives (.reduceSegment peer chan) s fun t => CollEnded t c 0x0A (sealDetail s c k b y)) ∧
          (headFault c b = none → sealFault f c.bf r.2 b = none → haveAll c (ownSpans c c.phase start r.2) = true →
            (st + 2 < ringLen c c.phase → Gives (.reduceSegment peer chan) s fun t => Forwards s t c f sum) ∧
            (ringLen c c.phase ≤ st + 2 → c.press = false → (c.torus = false ∨ c.phase ≠ 0) → c.got + 1 < (dueNow c).length → Gives (.reduceSegment peer chan) s fun t =>
              ∃ c', collOf t c.desc = some c' ∧ c'.got = c.got + 1 ∧ c'.shard = c.shard ++ sum))) ∧
        (byteAt b 3 = 1 → isReduce c c.phase = false → c.phase ≠ 8 → c.phase ≠ 9 → coresMove s c.slot = false → ∀ st q g, (dueNow c)[c.got]? = some (st, q, g) →
          let f := segFmt c (workFmt c) c.phase
          let r := segOf f (chunkRange c c.phase q).2 g
          let at_ := c.dstOff + ((chunkRange c c.phase q).1 + r.1)
          let l := unpackBits f.width r.2 (b.drop 64)
          (∀ o, headFault c b = some o → Gives (.gatherSegment peer chan) s fun t => CollEnded t c 0x02 o) ∧
          (∀ y, headFault c b = none → sealFault f (c.bf && !c.press) r.2 b = some y → Gives (.gatherSegment peer chan) s fun t => CollEnded t c 0x0A (sealDetail s c k b y)) ∧
          (headFault c b = none → sealFault f (c.bf && !c.press) r.2 b = none → c.got + 1 < (dueNow c).length → NetQuiet s → (∀ u, Reaches s u) → CanSend s c →
            (Gives (.gatherSegment peer chan) s fun t => (∃ c', collOf t c.desc = some c' ∧ c'.got = c.got + 1 ∧ c'.own = false ∧
                c'.written = c.written + (if c.own then c.shard.length else 0) + r.2) ∧
              (∀ u m, memOf (tileAt t u) m = memOf (tileAt s u) m) ∧ ((∀ u, (tileAt s u).ecc = []) → t.tiles = s.tiles)) ∧
            (c.own = false → (∀ o, gatherObj s c = some o → FreeTags s (collUnit s c) (1 + elemWords s o (workFmt c) at_ l)) → Gives (.gatherSegment peer chan) s fun t =>
              (c.op ≠ 3 → st + 2 < ringLen c c.phase → Forwards s t c f l) ∧
              ∀ o, gatherObj s c = some o → r.2 ≠ 0 → ElemsSent s t c o (workFmt c) at_ l))) ∧
        (byteAt b 3 = 4 → (c.phase = 8 ∨ c.phase = 9) → coresMove s c.slot = false → ∀ st q g, (dueNow c)[c.got]? = some (st, q, g) → headFault c b = none → sealFault fp64 false 3 b = none →
          CanSend s c → c.got + 1 < (dueNow c).length → Gives (.normExchange peer chan) s fun t => ∃ c', collOf t c.desc = some c' ∧ c'.got = c.got + 1 ∧
            find? c'.norms q = some (BitVec.ofNat 64 (fieldLE b 64 8), BitVec.ofNat 64 (fieldLE b 72 8), fieldLE b 80 8 % 2 == 1)) ∧
        (∀ o, headFault c b = some o →
          (byteAt b 3 = 0 → isReduce c c.phase = false → Gives (.reduceSegment peer chan) s fun t => CollEnded t c 0x02 o) ∧
          (byteAt b 3 = 1 → c.phase = 8 ∨ c.phase = 9 ∨ isReduce c c.phase = true → Gives (.gatherSegment peer chan) s fun t => CollEnded t c 0x02 o) ∧
          (byteAt b 3 = 4 → c.phase ≠ 8 → c.phase ≠ 9 → Gives (.normExchange peer chan) s fun t => CollEnded t c 0x02 o)) ∧
        (byteAt b 3 = 3 → staleAbort c b = true → Gives (.abort_ peer chan) s fun t => ∃ c', collOf t c.desc = some c' ∧ c'.phase = c.phase ∧ c'.got = c.got) ∧
        (byteAt b 3 = 3 → staleAbort c b = false →
          (byteAt b 44 ≠ 0x0A → Gives (.abort_ peer chan) s fun t => CollEnded t c (byteAt b 44) (fieldLE b 48 8)) ∧
          (byteAt b 44 = 0x0A → c.applied = false → (fieldLE b 48 8).testBit 33 = false → Gives (.abort_ peer chan) s fun t => CollEnded t c 0x0A (fieldLE b 48 8)))) ∧
    (∀ (peer : Fin 128) (chan : BitVec 8) b c x (h : Fin 4), msgOn s (chanKey peer.val chan.toNat) = some b → byteAt b 3 = 2 → collOn s (chanKey peer.val chan.toNat) = some c →
      fieldLE b 0 2 = c.cid → (∀ y ∈ s.colls, y.live = true) → descOf s c.desc = some x → x.outc = none → c.hub = some h.val → reach s h.val = true → s.boot.policy = 0 →
      Gives (.sealNotice peer chan) s fun t => t.adders.getLsbD h.val = false ∧ CollEnded t c 0x09 0 ∧ Notified 6 s t) ∧
    (∀ (peer : Fin 128) (chan : BitVec 8) b, s.colls = [] → msgOn s (chanKey peer.val chan.toNat) = some b →
      let gone (c : Instr) : Prop := Gives c s fun t => (echan t (chanKey peer.val chan.toNat)).rx = (echan s (chanKey peer.val chan.toNat)).rx.tail ∧ t.tiles = s.tiles
      (∀ h : Fin 4, byteAt b 3 = 2 → find? s.sealHubs (noticeKey (chanKey peer.val chan.toNat) (fieldLE b 0 2)) = some h.val → reach s h.val = true →
        (s.boot.policy = 0 → Gives (.sealNotice peer chan) s fun t => t.adders = s.adders &&& ~~~(1#4 <<< h.val) ∧ Notified 6 s t) ∧
        (s.boot.policy ≠ 0 → s.pwr.hubLift[h] < 30 → Gives (.sealNotice peer chan) s fun t => t.adders = s.adders ∧
          t.pwr.hubLift = s.pwr.hubLift.set h (s.pwr.hubLift[h] + 10) ∧ Notified 6 s t)) ∧
      (byteAt b 3 = 0 → gone (.reduceSegment peer chan)) ∧ (byteAt b 3 = 1 → gone (.gatherSegment peer chan)) ∧ (byteAt b 3 = 3 → gone (.abort_ peer chan)) ∧
      (byteAt b 3 = 4 → gone (.normExchange peer chan)))

/-! ## Resets, starts, re-admission (R130, R424, R434, R462 to R474, R479, R485, R511 to R514) -/

namespace Sys2Proof.Machine

/-- The engine is as after cold reset: not running, every rail and domain off, nothing in its memories, links and log (R434). -/
def IsCold (t : State) : Prop :=
  t.module.running = false ∧ t.boot.stage = 0 ∧ t.boot.ready = false ∧ t.doms = [] ∧ t.tiles = [] ∧ t.links = [] ∧ t.edge = State.reset.edge ∧ t.log = State.reset.log ∧
  t.time = 0 ∧ ∀ p : Fin 12, t.parcels[p].st = .off ∧ t.parcels[p].logicOn = false

end Sys2Proof.Machine

/-- Resets and the stages of a start (R434, R469, R471 to R474, R479, R485, R511, R512, R514): ENGINE_RESETn low, an input out of range and the loss of standby power reset the engine cold; a start needs the input
range; each stage that ends leaves what the manual says and the next one begins; the topology check, once its wait is over, makes the engine READY or leaves it waiting with TOPOLOGY_ERROR set. -/
def Obligations.StartResults : Prop :=
  ∀ s : State,
    (s.module.running = true → Gives .engineResetAssert s fun t => IsCold t ∧ t.module.resetn = false ∧ t.pending = s.pending) ∧
    (s.module.running = false → exec .engineResetAssert s = .next { s with module := { s.module with resetn := false } }) ∧
    (∀ mV, (s.module.running = true → mV < 45000 ∨ 59000 < mV → Gives (.inputLoss mV) s IsCold) ∧ (45000 ≤ mV → mV ≤ 59000 → exec (.inputLoss mV) s = .next s)) ∧
    (s.module.standby = false → exec .standbyPowerOn s = .next { s with module := { s.module with standby := true } }) ∧
    (Gives .standbyPowerOff s fun t => IsCold t ∧ t.module.standby = false ∧ t.module.fatal = none) ∧
    (∀ mV, (s.module.running = false → s.module.standby = true → 46000 ≤ mV → mV ≤ 58000 → Gives (.start_ mV) s fun t =>
        t.module.running = true ∧ t.module.resetn = true ∧ t.module.fatal = none ∧ t.time = 0 ∧ t.boot.stage = 1 ∧ t.module.hrails = 0xF) ∧
      (mV < 46000 ∨ 58000 < mV → exec (.start_ mV) s = .next s)) ∧
    (∀ f, s.module.running = true → s.module.fatal = none →
      (s.boot.stage = 1 → s.sb.state ≠ 1 → Gives (.stageEnd f) s fun t => t.boot.stage = 2 ∧ (dom t mgmtCode).st = .opened ∧ t.module.phys = 0xFF ∧
        ∀ p : Fin 12, t.parcels[p].st = .testing ∧ t.parcels[p].logicOn = true ∧ t.parcels[p].cellarOn = true) ∧
      (s.boot.stage = 1 → s.sb.state = 1 → Gives (.stageEnd f) s fun t => t.boot.stage = 1 ∧ t.boot.wait = 1 ∧ t.parcels = s.parcels) ∧
      (isOpen s mgmtCode = true →
        (s.boot.stage = 2 → f.ok = true → Gives (.stageEnd f) s fun t => t.boot.stage = 3 ∧
          (∀ p : Fin 12, s.parcels[p].st = .off ∨ (s.parcels[p].st = .testing ∧ p ∈ f.off) → t.parcels[p].st = .off) ∧
          ((∀ e ∈ s.boot.culls ++ f.culls, e.2.2 ≠ 2) → ∀ p : Fin 12, s.parcels[p].st = .testing → p ∉ f.off → t.parcels[p].st = .on) ∧
          ∀ h : Fin 4, s.module.hrails.getLsbD h.val = true → (dom t (hubCode h.val)).st = .opened) ∧
        (s.boot.stage = 2 → f.ok = false → Gives (.stageEnd f) s fun t => t.module.fatal.isSome = true ∧ t.hostif.link = false) ∧
        (s.boot.stage = 3 → Gives (.stageEnd f) s fun t => t.boot.stage = 4 ∧ (∀ u, (tileAt t u).sram = [] ∧ (tileAt t u).slab = []) ∧
          ∀ n : Fin 24, (dom t (edgeCode n.val)).st = .opened) ∧
        (s.boot.stage = 4 → s.boot.path ≠ 2 → s.boot.fallback ≠ 5 → Gives (.stageEnd f) s fun t => t.boot.stage = 5 ∧ t.boot.wait = 2 ∧ t.tiles = s.tiles) ∧
        (s.boot.stage = 5 → s.boot.path ≠ 2 → s.sec.fw.isSome = true → Gives (.stageEnd f) s fun t => t.boot.stage = 6 ∧ t.tiles = s.tiles) ∧
        (s.boot.stage = 6 → s.pwr.flow = none → forcedNow s = false → s.boot.topo = none → Gives (.stageEnd f) s fun t => t.boot.stage = 7 ∧ t.boot.wait = 3) ∧
        (s.boot.stage = 7 → s.boot.wait ≠ 5 → s.boot.topo = none → Gives (.stageEnd f) s fun t => t.boot.stage = 7 ∧ t.boot.wait = 3))) ∧
    (s.boot.stage = 1 → s.boot.wait = 1 → s.sb.state = 1 → s.boot.topoAt + ms 30000 ≤ s.time → Gives .pbWaitTimeout s fun t =>
      t.sb.bytes = [] ∧ t.sb.state = 0 ∧ t.boot.wait = 0 ∧ { t with sb := s.sb, boot := s.boot } = s) ∧
    (s.boot.stage = 7 → s.boot.wait = 4 → s.boot.topoAt + ms 2000 ≤ s.time →
      (∀ n : Fin 24, (topoClasses s)[n.val]? = some 0) → mayReady s = true → s.boot.ready = false → Gives .topologyWaitTimeout s fun t =>
        t.boot.ready = true ∧ t.boot.stage = 8 ∧ t.boot.topoWait = []) ∧
    (s.boot.stage = 7 → s.boot.wait = 4 → s.boot.topoAt + ms 2000 ≤ s.time → (∃ c ∈ topoClasses s, c ≠ 0) → Gives .topologyWaitTimeout s fun t =>
      t.boot.wait = 5 ∧ t.boot.ready = s.boot.ready ∧ t.boot.topoWait = [] ∧ Notified 5 s t)

/-- Re-admission (R462 to R466): a unit in service ends READMIT with REASON 1, a hot one with LIMIT; otherwise it begins its first stage, each stage that passes leads to the next, the last brings the unit into
service, and a test that fails leaves it OFF. -/
def Obligations.ReadmissionResults : Prop :=
  ∀ s : State, isOpen s mgmtCode = true →
    (∀ (d : DescRef) x, Starts s 0x44 d x → (readmitChecks x).find? (·.1) = none →
      let kind := fld x 16 1
      let i := fld x 17 1
      let hot : Prop := unitTemp s kind i ≠ 0x8000 ∧ 360 ≤ unitTemp s kind i
      (inService s kind i = true → Gives (.readmit d) s fun t => Ended t d 0x00 2 ∧ { t with hostif := s.hostif } = s) ∧
      (inService s kind i = false → hot → Gives (.readmit d) s fun t => Ended t d 0x0E 16 ∧ { t with hostif := s.hostif } = s) ∧
      (inService s kind i = false → ¬hot → s.pwr.flow = none → s.placing = [] → s.boot.readmits = [] → stillClosing s kind i = false → Gives (.readmit d) s fun t =>
        (∃ r, t.boot.readmits = [r] ∧ r.desc = d ∧ r.kind = kind ∧ r.index = i ∧ r.stage = 1 ∧ r.culled = 0) ∧
        (∀ p : Fin 12, kind = 1 → p.val = i → t.parcels[p].st = .testing ∧ t.parcels[p].logicOn = true ∧ (dom t (parcelCode i)).st = .opening) ∧
        (kind = 2 → (dom t (hubCode i)).st = .opening))) ∧
    (∀ f r l, s.boot.readmits = r :: l → s.pwr.flow = none →
      let gone (t : State) : Prop := ∀ q ∈ t.boot.readmits, q.desc ≠ r.desc
      (∀ p : Fin 12, r.kind = 1 → r.index = p.val → s.parcels[p].st = .testing →
        (f.ok = true → s.snet.bypass = [] → (∀ e ∈ s.boot.culls ++ f.culls, e.2.2 ≠ 2) → r.stage < 7 → Gives (.readmitStageEnd f) s fun t => ∃ r' l', t.boot.readmits = r' :: l' ∧ r'.desc = r.desc ∧ r'.stage = r.stage + 1 ∧ r'.kind = 1 ∧ r'.index = p.val) ∧
        (f.ok = true → s.snet.bypass = [] → r.stage = 7 → Gives (.readmitStageEnd f) s fun t => t.parcels[p].st = .on ∧ (dom t (parcelCode p.val)).st = .opened ∧ gone t) ∧
        (f.ok = false → Gives (.readmitStageEnd f) s fun t => t.parcels[p].st = .off ∧ t.parcels[p].logicOn = false ∧ (dom t (parcelCode p.val)).st = .off ∧ gone t)) ∧
      (r.kind = 2 → f.ok = true → s.marks = [] → Gives (.readmitStageEnd f) s fun t => (dom t (hubCode r.index)).st = .opened ∧ (dom t (hubCode r.index)).readmit = false ∧ gone t) ∧
      (∀ d : Fin 8, r.kind = 3 → r.index = d.val → f.ok = true → Gives (.readmitStageEnd f) s fun t => t.module.phys.getLsbD d.val = true ∧ gone t))

/-- The sideband bus and the TAP (R479, R502, R511, R521 to R525): while the standby supply is on, block bytes are taken up to the end of stage 1, COMMIT checks the block and ABORT drops it; STATUS, the held
FATAL record, the module's identity and telemetry are answered; IDCODE shifts the identification code out, BYPASS selects one bit, and boundary scan is offered only with the JTAG scope unlocked.
Without the standby supply, in reset and running the pins are driven as R514 to R521 have them. -/
def Obligations.SidebandResults : Prop :=
  ∀ s : State,
    let answers (c : Instr) (b : List Byte) : Prop := exec c s = .next { s with out := .sideband b :: s.out }
    (sbTakes s = true →
      (∀ (off : Word) bytes, bytes ≠ [] → bytes.length ≤ 256 → off.toNat + bytes.length ≤ 2097152 → Gives (.pbData off bytes) s fun t =>
        t.sb.state = 1 ∧ t.sb.reason = 0 ∧ (Memory.wf s.sb.bytes = true → Memory.wf t.sb.bytes = true ∧ readBytes t.sb.bytes off.toNat bytes.length = bytes) ∧
        (∀ a, (a < off.toNat ∨ off.toNat + bytes.length ≤ a) → readByte t.sb.bytes a = readByte s.sb.bytes a) ∧ { t with sb := s.sb } = s) ∧
      (Gives .pbAbort s fun t => t.sb.bytes = [] ∧ t.sb.state = 0 ∧ { t with sb := s.sb, boot := s.boot } = s) ∧
      (∀ b, b = readBytes s.sb.bytes 0 (max 96 (min paramMax (ofLE (readBytes s.sb.bytes 8 4)))) →
        (blockFault s b = none → Gives .pbCommit s fun t => t.sb = { s.sb with state := 2, reason := 0 }) ∧
        (∀ r, blockFault s b = some r → Gives .pbCommit s fun t => t.sb = { s.sb with state := 3, reason := r }))) ∧
    (sbTakes s = false → (∀ off bytes, exec (.pbData off bytes) s = .next s) ∧ exec .pbAbort s = .next s ∧ exec .pbCommit s = .next s) ∧
    (s.module.standby = true →
      answers .status (leBytes 1 (s.sb.state + 4 * s.sb.reason) ++ leBytes 1 (bootStat s % 256) ++ zeros 2) ∧
      (s.module.fatal = none → answers .fatalRead (zeros 64)) ∧ (∀ e, s.module.fatal = some e → answers .fatalRead (recBytes e)) ∧
      answers .moduleId ([0x58, 0x57, 0x37, 0x2D, 0x41, 0x20, 0x20, 0x20] ++ s.module.sn.toList ++ leBytes 2 s.module.srev.toNat ++ leBytes 2 s.module.mrev.toNat ++ zeros 4) ∧
      answers .telemetry (telemetryBytes s) ∧
      (Gives .idcode s fun t => t.dbg.bypass = false ∧ { t with dbg := s.dbg, out := s.out } = s ∧
        ∃ b, .tdo b ∈ t.out ∧ b.length = 32 ∧ ∀ i : Fin 32, b[i.val]? = some ((idcode s).testBit i.val)) ∧
      exec .bypass s = .next { s with dbg := { s.dbg with tap := 2, bypass := true } } ∧
      exec .tapReset s = .next { s with dbg := { s.dbg with tap := 0, bypass := false } } ∧
      (∀ dr bits, s.sec.jtag = false → exec (.boundaryScan dr bits) s = .next { s with dbg := { s.dbg with tap := 2, bypass := true } }) ∧
      (∀ dr bits, s.sec.jtag = true → Gives (.boundaryScan dr bits) s fun t => (∃ b, .tdo b ∈ t.out ∧ b.length = bits.length) ∧ t.dbg.bypass = false ∧
        { t with dbg := s.dbg, out := s.out, free := s.free } = s)) ∧
    (s.module.standby = false → exec .status s = .next s ∧ exec .fatalRead s = .next s ∧ exec .moduleId s = .next s ∧ exec .telemetry s = .next s ∧
      exec .idcode s = .next s ∧ exec .bypass s = .next s) ∧
    (s.module.standby = false → ∀ n, pinNow s .htx = .highZ ∧ pinNow s (.tx n) = .highZ ∧ pinNow s (.cblPwr n) = .off ∧ pinNow s (.id3v3 n) = .off ∧
      pinNow s .sb = .released ∧ pinNow s .pwrGood = .floating ∧ pinNow s .attnOut = .floating ∧ pinNow s .tdo = .highZ ∧ pinNow s .tmClk = .highZ) ∧
    (s.module.standby = true → s.module.running = false → ∀ n, pinNow s .htx = .idle ∧ pinNow s (.tx n) = .idle ∧ pinNow s (.cblPwr n) = .off ∧ pinNow s (.id3v3 n) = .off ∧
      pinNow s .sb = .active ∧ pinNow s .attnOut = .released ∧ pinNow s .tdo = .active ∧ pinNow s .tmClk = .low) ∧
    (s.module.standby = true → s.module.running = true → ∀ n, (pinNow s (.cblPwr n) = .on ↔ 0 < (portOf s n).power) ∧
      (pinNow s (.id3v3 n) = .on ↔ (portOf s n).st ≠ .disabled) ∧ (pinNow s (.tx n) = .active ↔ lanesOn (portOf s n) = true) ∧
      (pinNow s .attnOut = .low ↔ s.module.attnLow = true) ∧ (pinNow s .pwrGood = .low ↔ s.module.good = false) ∧
      ∀ i : Fin 16, pinNow s (.tm i) = .high ↔ (s.dbg.active = true ∧ s.dbg.pins.getLsbD i.val = true)) ∧
    pinNow s .hprsnt = .ground ∧ pinNow s .present = .ground

/-! ## What commands leave alone -/

namespace Sys2Proof.Machine

/-- The commands that change no tile: no core's register, memory, accumulator, predicate or task, and no router. -/
def touchesNoTile (c : Instr) : Bool :=
  match c with
  | .ageingScan .. | .alertAssert .. | .alertClear .. | .attest .. | .attn .. | .barrierStop .. | .boundaryScan .. | .bufferMoveEnd .. | .bypass
  | .cableRemoval .. | .cblOvercurrent .. | .ceil .. | .certChain .. | .completionWrite .. | .cqDisable .. | .cqDoorbell .. | .cqEnable ..
  | .currentSample .. | .cxlMemRead .. | .cxlMemWrite .. | .data .. | .dieForceLift .. | .edgeRecv .. | .edgeSend .. | .enable .. | .engineId ..
  | .evacuate .. | .evacuationTrigger .. | .failedRetry .. | .fastHoldRelease .. | .fastOvercurrent .. | .fatalRead | .fenceAck .. | .flowEn .. | .flowResume
  | .flowStop | .forcedStateLift .. | .functionLevelReset | .fwLoad .. | .getChain .. | .hdmCommit | .heartbeat .. | .heartbeatSend .. | .heartbeatWatch ..
  | .heldDiscard .. | .hello .. | .helloSend .. | .holdBeat | .holdCommandArrival .. | .hostifReset | .hotReset | .idcode | .identityRead .. | .idle ..
  | .linkLoss | .linkTrained .. | .logFetch .. | .memRead .. | .memWrite .. | .mgmtReopen | .moduleId | .msg .. | .msixUnmask .. | .nak ..
  | .nopDescriptor .. | .objRead .. | .objWrite .. | .opChangeEnd | .opChangeLand | .opChangeStop | .opEvaluate | .paramSupply .. | .pbAbort | .pbCommit
  | .pbData .. | .pbWaitTimeout | .perstAssert | .perstDeassert | .phyAccess .. | .policySet .. | .portDisable .. | .portEnable .. | .pressTable ..
  | .probeTimeout .. | .progCounters .. | .progReconfig .. | .progRemove .. | .progReport .. | .programWatchExpiry .. | .query .. | .railRampEnd
  | .readmit .. | .recordsFetch .. | .registerWrite .. | .replayTimeout .. | .reset .. | .retrainDone .. | .retrainTimeout .. | .route .. | .sel ..
  | .snetThrottle .. | .sqDisable .. | .sqDoorbell .. | .sqEnable .. | .sqWatchExpiry .. | .standbyPowerOn | .start_ .. | .status | .streamXfer ..
  | .tackTimer .. | .tapReset | .tcapFaster | .tcapSlower | .telemetry | .throttleWindow .. | .tmuxCtl .. | .topologySet .. | .topologyWaitTimeout
  | .tprobe .. | .trainingDone .. | .trainingTimeout .. | .treply .. | .tsyncProbe .. | .unlock .. | .unlockChallenge .. | .watchSet .. | .winReq .. => true
  | _ => false

/-- The commands that may check words of a tile's memory as they read them (R124, R126), and do nothing else to a tile. -/
def checksTiles (c : Instr) : Bool :=
  match c with
  | .abort_ .. | .barrierComplete .. | .collective .. | .completionTimeout .. | .descriptorFetch .. | .edgeMsgPacket .. | .gatherSegment ..
  | .heartbeatLost .. | .hostReadCompletion .. | .leesFetch .. | .messageTimeout .. | .msgAck .. | .normExchange .. | .peerDown .. | .peerUp ..
  | .readData .. | .reduceSegment .. | .sealNotice .. | .tack .. | .transportTimeout .. | .writeAck .. => true
  | _ => false

/-- A tile as it stands but for what a check of its words leaves behind: its error marks, and that it is due for repair or retirement (R124 to R128). -/
def unchecked (x : Tile) : Tile := { x with ecc := [], retire := false, toRepair := [] }

end Sys2Proof.Machine

/-- The frame of the commands that touch no tile: each completes and leaves every register, predicate, accumulator, task, router and byte of memory of every tile as it was, so every read of a
byte gives what it gave before. One that checks memory words as it reads them completes too, and leaves all of that as it was; the words in error stay the same ones, and only that they have been met, and what is due to be repaired or
retired for them, may change. -/
def Obligations.CommandsTouchNoTile : Prop :=
  (∀ (c : Instr) (s : State), touchesNoTile c = true → Gives c s fun t => t.tiles = s.tiles ∧
    ∀ u m a, readByte (memOf (tileAt t u) m) a = readByte (memOf (tileAt s u) m) a) ∧
  (∀ (c : Instr) (s : State), checksTiles c = true → Gives c s fun t =>
    (∀ u m a, readByte (memOf (tileAt t u) m) a = readByte (memOf (tileAt s u) m) a) ∧
    ∀ u, unchecked (tileAt t u) = unchecked (tileAt s u) ∧
      (tileAt t u).ecc.map (fun e => (e.space, e.word, e.bit, e.stuck)) = (tileAt s u).ecc.map fun e => (e.space, e.word, e.bit, e.stuck))
end

