-- ==== Sys2Proof/Laws/Edge.lean ====
section
/-! SUPPORT. Laws of an edge port's line: the receiver takes from a scrambled stream the bits that were sent (R323). -/

namespace Sys2Proof.Machine

@[simp] theorem descramble_scramble (l : List Bool) : ∀ r, descramble r (scramble r l) = l := by
  induction l with
  | nil => intro r; rfl
  | cons b t ih => intro r; simp [scramble, descramble, ih]

@[simp] theorem scramble_length (l : List Bool) : ∀ r, (scramble r l).length = l.length := by
  induction l with
  | nil => intro r; rfl
  | cons b t ih => intro r; simp [scramble, ih]

end Sys2Proof.Machine
end

