-- ==== Sys2Proof/Laws/Kept.lean ====
section
/-! SUPPORT. What no operation of the engine changes: the queue of waiting commands, the fuses and the fused names
(`State.kept`), one lemma for each operation; and the operations that move fuses forward. -/

namespace Sys2Proof.Machine

@[simp] theorem kept_mk (s : State) free_ time_ beats_ tiles_ links_ parcels_ pwr_ progs_ placing_ memo_ watches_ snet_ hostif_ stage_ reserved_ edge_ colls_ nextCid_ sealHubs_ adders_ marks_ moving_ deferred_ atClose_ log_ doms_ lees_ leesSeq_ boot_ sb_ dbg_ out_  : State.kept (State.mk s.pending free_ time_ beats_ tiles_ links_ parcels_ pwr_ progs_ placing_ memo_ watches_ snet_ hostif_ stage_ reserved_ edge_ colls_ nextCid_ sealHubs_ adders_ marks_ moving_ deferred_ atClose_ log_ doms_ lees_ leesSeq_ boot_ s.sec sb_ dbg_ s.module out_) = s.kept := rfl
@[simp] theorem kept_mk_sec (s : State) free_ time_ beats_ tiles_ links_ parcels_ pwr_ progs_ placing_ memo_ watches_ snet_ hostif_ stage_ reserved_ edge_ colls_ nextCid_ sealHubs_ adders_ marks_ moving_ deferred_ atClose_ log_ doms_ lees_ leesSeq_ boot_ sb_ dbg_ out_ fw1 st1 ch1 nc1 cl1 jt1 tm1 db1 dr1 : State.kept (State.mk s.pending free_ time_ beats_ tiles_ links_ parcels_ pwr_ progs_ placing_ memo_ watches_ snet_ hostif_ stage_ reserved_ edge_ colls_ nextCid_ sealHubs_ adders_ marks_ moving_ deferred_ atClose_ log_ doms_ lees_ leesSeq_ boot_ (Sec.mk s.sec.keys s.sec.revoked s.sec.counter s.sec.secret fw1 st1 ch1 nc1 cl1 jt1 tm1 db1 dr1) sb_ dbg_ s.module out_) = s.kept := rfl
@[simp] theorem kept_mk_module (s : State) free_ time_ beats_ tiles_ links_ parcels_ pwr_ progs_ placing_ memo_ watches_ snet_ hostif_ stage_ reserved_ edge_ colls_ nextCid_ sealHubs_ adders_ marks_ moving_ deferred_ atClose_ log_ doms_ lees_ leesSeq_ boot_ sb_ dbg_ out_ sb1 ru1 re1 go1 at1 fa1 hr1 ph1 : State.kept (State.mk s.pending free_ time_ beats_ tiles_ links_ parcels_ pwr_ progs_ placing_ memo_ watches_ snet_ hostif_ stage_ reserved_ edge_ colls_ nextCid_ sealHubs_ adders_ marks_ moving_ deferred_ atClose_ log_ doms_ lees_ leesSeq_ boot_ s.sec sb_ dbg_ (Module.mk sb1 ru1 re1 go1 at1 fa1 hr1 ph1 s.module.sn s.module.srev s.module.mrev s.module.mfr) out_) = s.kept := rfl
@[simp] theorem kept_mk_both (s : State) free_ time_ beats_ tiles_ links_ parcels_ pwr_ progs_ placing_ memo_ watches_ snet_ hostif_ stage_ reserved_ edge_ colls_ nextCid_ sealHubs_ adders_ marks_ moving_ deferred_ atClose_ log_ doms_ lees_ leesSeq_ boot_ sb_ dbg_ out_ fw1 st1 ch1 nc1 cl1 jt1 tm1 db1 dr1 sb1 ru1 re1 go1 at1 fa1 hr1 ph1 : State.kept (State.mk s.pending free_ time_ beats_ tiles_ links_ parcels_ pwr_ progs_ placing_ memo_ watches_ snet_ hostif_ stage_ reserved_ edge_ colls_ nextCid_ sealHubs_ adders_ marks_ moving_ deferred_ atClose_ log_ doms_ lees_ leesSeq_ boot_ (Sec.mk s.sec.keys s.sec.revoked s.sec.counter s.sec.secret fw1 st1 ch1 nc1 cl1 jt1 tm1 db1 dr1) sb_ dbg_ (Module.mk sb1 ru1 re1 go1 at1 fa1 hr1 ph1 s.module.sn s.module.srev s.module.mrev s.module.mfr) out_) = s.kept := rfl
@[simp] theorem foldl_kept {α : Type} (f : State → α → State) (h : ∀ s a, (f s a).kept = s.kept) (l : List α) :
    ∀ s, (l.foldl f s).kept = s.kept := by
  induction l with
  | nil => intro s; rfl
  | cons a t ih => intro s; rw [List.foldl_cons, ih, h]
@[simp] theorem kept_ite (c : Prop) [Decidable c] (a b : State) : (if c then a else b).kept = if c then a.kept else b.kept := by split <;> rfl
theorem pwr_kept (s : State) (x : Pwr) : State.kept { s with pwr := x } = s.kept := rfl

@[simp] theorem setTile_kept (t : TileAt) (x : Tile) (s : State) : (setTile t x s).kept = s.kept := by
  simp [setTile]
@[simp] theorem updTile_kept (t : TileAt) (f : Tile → Tile) (s : State) : (updTile t f s).kept = s.kept := by
  simp [updTile]
@[simp] theorem updParcel_kept (p : Fin 12) (f : Parcel → Parcel) (s : State) : (updParcel p f s).kept = s.kept := by
  simp [updParcel]
@[simp] theorem setProg_kept (k : Fin 8) (p : Option Prog) (s : State) : (setProg k p s).kept = s.kept := by
  simp [setProg]
@[simp] theorem updProg_kept (k : Fin 8) (f : Prog → Prog) (s : State) : (updProg k f s).kept = s.kept := by
  simp [updProg]
@[simp] theorem freeDWord_kept (s : State) : (freeDWord s).2.kept = s.kept := by
  simp [freeDWord]
@[simp] theorem setDom_kept (c : Nat) (d : Dom) (s : State) : (setDom c d s).kept = s.kept := by
  simp [setDom]
@[simp] theorem updDom_kept (c : Nat) (f : Dom → Dom) (s : State) : (updDom c f s).kept = s.kept := by
  simp [updDom]
@[simp] theorem domTo_kept (c : Nat) (st : DomSt) (s : State) : (domTo c st s).kept = s.kept := by
  simp [domTo]
@[simp] theorem emit_kept (o : Out) (s : State) : (emit o s).kept = s.kept := by
  simp [emit]
@[simp] theorem signal_kept (v : Nat) (s : State) : (signal v s).kept = s.kept := by
  unfold signal; (repeat' split) <;> simp
@[simp] theorem attnApply_kept (b : Nat) (s : State) : (attnApply b s).kept = s.kept := by
  unfold attnApply; simp only []; (repeat' split) <;> first | (simp; done) | (rw [foldl_kept] <;> intros <;> simp; done)
@[simp] theorem attn_kept (b : Nat) (s : State) : (attn b s).kept = s.kept := by
  unfold attn; (repeat' split) <;> simp
@[simp] theorem logNow_kept (e : ErrRec) (s : State) : (logNow e s).kept = s.kept := by
  unfold logNow; (repeat' split) <;> simp
@[simp] theorem logBuffer_kept (e : ErrRec) (ds : List Nat) (s : State) : (logBuffer e ds s).kept = s.kept := by
  unfold logBuffer; (repeat' split) <;> simp
@[simp] theorem logRec_kept (e : ErrRec) (s : State) : (logRec e s).kept = s.kept := by
  unfold logRec; (repeat' split) <;> simp
@[simp] theorem logFor_kept (e : ErrRec) (ds : List Nat) (s : State) : (logFor e ds s).kept = s.kept := by
  unfold logFor; (repeat' split) <;> simp
@[simp] theorem logEvent_kept (cls : Nat) (low : Nat) (s : State) : (logEvent cls low s).kept = s.kept := by
  simp [logEvent]
@[simp] theorem updDesc_kept (d : DescRef) (f : Desc → Desc) (s : State) : (updDesc d f s).kept = s.kept := by
  simp [updDesc]
@[simp] theorem decideDesc_kept (d : DescRef) (status : Nat) (detail : Nat) (s : State) : (decideDesc d status detail s).kept = s.kept := by
  simp [decideDesc]
@[simp] theorem countIn_kept (p : Packet) (s : State) : (countIn p s).kept = s.kept := by
  unfold countIn; (repeat' split) <;> simp
@[simp] theorem countOut_kept (p : Packet) (s : State) : (countOut p s).kept = s.kept := by
  unfold countOut; (repeat' split) <;> simp
@[simp] theorem countLost_kept (s : State) : (countLost s).kept = s.kept := by
  simp [countLost]
@[simp] theorem setVc_kept (key : Nat) (v : NetVc) (s : State) : (setVc key v s).kept = s.kept := by
  simp [setVc]
@[simp] theorem setOut_kept (key : Nat) (o : NetOut) (s : State) : (setOut key o s).kept = s.kept := by
  simp [setOut]
@[simp] theorem markSent_kept (f : Packet → Packet) (p : Packet) (s : State) : (markSent f p s).kept = s.kept := by
  simp [markSent]
@[simp] theorem markGone_kept (v0 : Packet) (v1 : State) : (markGone v0 v1).kept = v1.kept := by
  simp [markGone]
@[simp] theorem markBad_kept (v0 : Packet) (v1 : State) : (markBad v0 v1).kept = v1.kept := by
  simp [markBad]
@[simp] theorem netLoss_kept (p : Packet) (ejected : Bool) (s : State) : (netLoss p ejected s).kept = s.kept := by
  simp [netLoss]
@[simp] theorem ejectFlit_kept (f : NetFlit) (s : State) : (ejectFlit f s).kept = s.kept := by
  simp [ejectFlit]
@[simp] theorem popFlit_kept (key : Nat) (o : Nat) (s : State) : (popFlit key o s).kept = s.kept := by
  unfold popFlit; (repeat' split) <;> simp
@[simp] theorem pushFlit_kept (key : Nat) (f : NetFlit) (s : State) : (pushFlit key f s).kept = s.kept := by
  simp [pushFlit]
@[simp] theorem moveFlit_kept (r : Nat × Nat) (o : Nat) (e : Nat × NetFlit) (s : State) : (moveFlit r o e s).kept = s.kept := by
  unfold moveFlit; simp only []; (repeat' split) <;> first | (simp; done) | (rw [foldl_kept] <;> intros <;> simp; done)
@[simp] theorem serveOut_kept (s0 : State) (s : State) (g : (Nat × Nat) × Nat × List (Nat × NetFlit)) : (serveOut s0 s g).kept = s.kept := by
  unfold serveOut; simp only []; (repeat' split) <;> first | (simp; done) | (rw [foldl_kept] <;> intros <;> simp; done)
@[simp] theorem discardFlit_kept (s : State) (e : Nat × NetFlit × Nat) : (discardFlit s e).kept = s.kept := by
  simp [discardFlit]
@[simp] theorem noteSent_kept (p : Packet) (s : State) : (noteSent p s).kept = s.kept := by
  simp [noteSent]
@[simp] theorem setFeed_kept (key : Nat) (l : List (Packet × Nat)) (s : State) : (setFeed key l s).kept = s.kept := by
  simp [setFeed]
@[simp] theorem injectFlit_kept (s0 : State) (s : State) (port : Nat) : (injectFlit s0 s port).kept = s.kept := by
  unfold injectFlit; simp only []; (repeat' split) <;> first | (simp; done) | (rw [foldl_kept] <;> intros <;> simp; done)
@[simp] theorem netCycle_kept (s : State) : (netCycle s).kept = s.kept := by
  simp [netCycle]
@[simp] theorem netRun_kept (n : Nat) : ∀ s : State, (netRun n s).kept = s.kept := by
  induction n with
  | zero => intro s; rfl
  | succ n ih => intro s; unfold netRun; split <;> simp [ih]
@[simp] theorem netPass_kept (s : State) : (netPass s).kept = s.kept := by
  simp [netPass]
@[simp] theorem feedPacket_kept (p : Packet) (s : State) : (feedPacket p s).kept = s.kept := by
  simp [feedPacket]
@[simp] theorem pullPacket_kept (p : Packet) (s : State) : (pullPacket p s).kept = s.kept := by
  simp [pullPacket]
@[simp] theorem cutNet_kept (q : Fin 12) (s : State) : (cutNet q s).kept = s.kept := by
  simp [cutNet]
@[simp] theorem setPort_kept (n : Fin 24) (p : Port) (s : State) : (setPort n p s).kept = s.kept := by
  simp [setPort]
@[simp] theorem updPort_kept (n : Fin 24) (f : Port → Port) (s : State) : (updPort n f s).kept = s.kept := by
  simp [updPort]
@[simp] theorem sendPlain_kept (n : Fin 24) (ftype : BitVec 2) (body : List Byte) (s : State) : (sendPlain n ftype body s).kept = s.kept := by
  simp [sendPlain]
@[simp] theorem sendCtrl_kept (n : Fin 24) (body : List Byte) (s : State) : (sendCtrl n body s).kept = s.kept := by
  simp [sendCtrl]
@[simp] theorem sendIdle_kept (n : Fin 24) (s : State) : (sendIdle n s).kept = s.kept := by
  simp [sendIdle]
@[simp] theorem idles_kept (n : Fin 24) (k : Nat) : ∀ s : State, (idles n k s).kept = s.kept := by
  induction k with
  | zero => intro s; rfl
  | succ k ih => intro s; unfold idles; split <;> simp [ih]
@[simp] theorem resend_kept (n : Fin 24) (f : Flit) (s : State) : (resend n f s).kept = s.kept := by
  simp [resend]
@[simp] theorem replayAll_kept (n : Fin 24) (s : State) : (replayAll n s).kept = s.kept := by
  unfold replayAll; rw [foldl_kept] <;> intros <;> first | (simp; done) | ((repeat' split) <;> (simp; done))
@[simp] theorem drainTx_kept (n : Fin 24) (l : List (Nat × BitVec 64 × List Byte)) : ∀ s : State, (drainTx n l s).kept = s.kept := by
  induction l with
  | nil => intro s; rfl
  | cons a t ih =>
    intro s
    obtain ⟨vc, thdr, body⟩ := a
    unfold drainTx
    simp only []
    split <;> (rw [ih]; simp)
@[simp] theorem pumpPort_kept (n : Fin 24) (s : State) : (pumpPort n s).kept = s.kept := by
  simp [pumpPort]
@[simp] theorem sendPkt_kept (n : Fin 24) (k : EdgePkt) (s : State) : (sendPkt n k s).kept = s.kept := by
  simp [sendPkt]
@[simp] theorem setEchan_kept (k : Nat) (c : EChan) (s : State) : (setEchan k c s).kept = s.kept := by
  simp [setEchan]
@[simp] theorem updEchan_kept (k : Nat) (f : EChan → EChan) (s : State) : (updEchan k f s).kept = s.kept := by
  simp [updEchan]
@[simp] theorem setPeer_kept (d : Nat) (p : Peer) (s : State) : (setPeer d p s).kept = s.kept := by
  simp [setPeer]
@[simp] theorem takePort_kept (k : Nat) (s : State) : (takePort k s).kept = s.kept := by
  unfold takePort; (repeat' split) <;> simp
@[simp] theorem settle_kept (k : Nat) (s : State) : (settle k s).kept = s.kept := by
  simp [settle]
@[simp] theorem peerDownDescs_kept (k : Nat) (cause : Nat) (s : State) : (peerDownDescs k cause s).kept = s.kept := by
  unfold peerDownDescs; (try simp only []); repeat' first | rfl | (simp; done) | split | rw [foldl_kept] | intro _
@[simp] theorem routeGone_kept (k : Nat) (s : State) : (routeGone k s).kept = s.kept := by
  simp [routeGone]
@[simp] theorem boundary_kept (k : Nat) (last : Bool) (s : State) : (boundary k last s).kept = s.kept := by
  unfold boundary; (repeat' split) <;> simp
@[simp] theorem fixHub_kept (k : Nat) (s : State) : (fixHub k s).kept = s.kept := by
  simp [fixHub]
@[simp] theorem pumpN_kept (k : Nat) (f : Nat) : ∀ s : State, (pumpN k f s).kept = s.kept := by
  induction f with
  | zero => intro s; rfl
  | succ f ih =>
    intro s; unfold pumpN; simp only []; split
    · rfl
    · split <;> simp [ih]
@[simp] theorem sendTack_kept (k : Nat) (s : State) : (sendTack k s).kept = s.kept := by
  unfold sendTack; simp only []; (repeat' split) <;> first | (simp; done) | (rw [foldl_kept] <;> intros <;> simp; done)
@[simp] theorem pump_kept (k : Nat) (s : State) : (pump k s).kept = s.kept := by
  unfold pump; simp only []; split <;> simp
@[simp] theorem enqueue_kept (k : Nat) (m : TxMsg) (s : State) : (enqueue k m s).kept = s.kept := by
  simp [enqueue]
@[simp] theorem postRecv_kept (k : Nat) (r : RxPost) (s : State) : (postRecv k r s).kept = s.kept := by
  simp [postRecv]
@[simp] theorem placeTx_kept (d : DescRef) (off : Nat) (b : List Byte) (s : State) : (placeTx d off b s).kept = s.kept := by
  unfold placeTx; (repeat' split) <;> simp
@[simp] theorem fillTx_kept (k : Nat) (no : Nat) (b : List Byte) (s : State) : (fillTx k no b s).kept = s.kept := by
  unfold fillTx; simp only []; (repeat' split) <;> first | (simp; done) | (rw [foldl_kept] <;> intros <;> simp; done)
@[simp] theorem dropTx_kept (k : Nat) (no : Nat) (s : State) : (dropTx k no s).kept = s.kept := by
  unfold dropTx; simp only []; (repeat' split) <;> first | (simp; done) | (rw [foldl_kept] <;> intros <;> simp; done)
@[simp] theorem abortEdge_kept (d : DescRef) (s : State) : (abortEdge d s).kept = s.kept := by
  unfold abortEdge; simp only []; (repeat' split) <;> first | (simp; done) | (rw [foldl_kept] <;> intros <;> simp; done)
@[simp] theorem breakChan_kept (cause : Nat) (s : State) (e : Nat × EChan) : (breakChan cause s e).kept = s.kept := by
  simp [breakChan]
@[simp] theorem breakPeer_kept (peer : Nat) (cause : Nat) (s : State) : (breakPeer peer cause s).kept = s.kept := by
  unfold breakPeer; simp only []; (repeat' split) <;> first | (simp; done) | (rw [foldl_kept] <;> intros <;> simp; done)
@[simp] theorem movePortChans_kept (n : Fin 24) (s : State) : (movePortChans n s).kept = s.kept := by
  unfold movePortChans; simp only []; (repeat' split) <;> first | (simp; done) | (rw [foldl_kept] <;> intros <;> simp; done)
@[simp] theorem portTo_kept (n : Fin 24) (st : PortSt) (s : State) : (portTo n st s).kept = s.kept := by
  unfold portTo; simp only []; (repeat' split) <;> first | (simp; done) | (rw [foldl_kept] <;> intros <;> simp; done)
@[simp] theorem disablePort_kept (n : Fin 24) (s : State) : (disablePort n s).kept = s.kept := by
  simp [disablePort]
@[simp] theorem failQuiet_kept (n : Fin 24) (s : State) : (failQuiet n s).kept = s.kept := by
  simp [failQuiet]
@[simp] theorem failPort_kept (n : Fin 24) (s : State) : (failPort n s).kept = s.kept := by
  simp [failPort]
@[simp] theorem retrainPort_kept (n : Fin 24) (s : State) : (retrainPort n s).kept = s.kept := by
  simp [retrainPort]
@[simp] theorem dropColl_kept (c : Coll) (s : State) : (dropColl c s).kept = s.kept := by
  unfold dropColl; simp only []; (repeat' split) <;> first | (simp; done) | (rw [foldl_kept] <;> intros <;> simp; done)
@[simp] theorem sendHead_kept (c : Coll) (k : Nat) (b : List Byte) (s : State) : (sendHead c k b s).kept = s.kept := by
  simp [sendHead]
@[simp] theorem sendAborts_kept (c : Coll) (status : Nat) (detail : Nat) (s : State) : (sendAborts c status detail s).kept = s.kept := by
  unfold sendAborts; rw [foldl_kept] <;> intros <;> first | (simp; done) | ((repeat' split) <;> (simp; done))
@[simp] theorem setDrain_kept (c : Coll) (s : State) (k : Nat) : (setDrain c s k).kept = s.kept := by
  unfold setDrain; simp only []; (repeat' split) <;> first | (simp; done) | (rw [foldl_kept] <;> intros <;> simp; done)
@[simp] theorem endCollTaken_kept (c : Coll) (taken : Nat) (status : Nat) (detail : Nat) (s : State) : (endCollTaken c taken status detail s).kept = s.kept := by
  simp [endCollTaken]
@[simp] theorem endColl_kept (c : Coll) (status : Nat) (detail : Nat) (s : State) : (endColl c status detail s).kept = s.kept := by
  simp [endColl]
@[simp] theorem writeTables_kept (b : Fin 2) (m : BitVec 16) (s : State) : (writeTables b m s).kept = s.kept := by
  simp [writeTables]
@[simp] theorem loadRouters_kept (q : Fin 12) (m : BitVec 16) (s : State) : (loadRouters q m s).kept = s.kept := by
  simp [loadRouters]
@[simp] theorem loadTables_kept (m : BitVec 16) (s : State) : (loadTables m s).kept = s.kept := by
  simp [loadTables]
@[simp] theorem tableChange_kept (m : BitVec 16) (s : State) : (tableChange m s).kept = s.kept := by
  unfold tableChange; simp only []; (repeat' split) <;> first | (simp; done) | (rw [foldl_kept] <;> intros <;> simp; done)
@[simp] theorem idRead_kept (n : Fin 24) (s : State) : (idRead n s).kept = s.kept := by
  simp [idRead]
@[simp] theorem servePort_kept (s : State) (n : Fin 24) : (servePort s n).kept = s.kept := by
  unfold servePort; simp only []; (repeat' split) <;> first | (simp; done) | (rw [foldl_kept] <;> intros <;> simp; done)
@[simp] theorem failDie_kept (d : Nat) (s : State) : (failDie d s).kept = s.kept := by
  unfold failDie; rw [foldl_kept] <;> intros <;> first | (simp; done) | ((repeat' split) <;> (simp; done))
@[simp] theorem servePorts_kept (s : State) : (servePorts s).kept = s.kept := by
  unfold servePorts; rw [foldl_kept] <;> intros <;> first | (simp; done) | ((repeat' split) <;> (simp; done))
@[simp] theorem fenceDescs_kept (k : Fin 8) (s : State) : (fenceDescs k s).kept = s.kept := by
  unfold fenceDescs; simp only []; (repeat' split) <;> first | (simp; done) | (rw [foldl_kept] <;> intros <;> simp; done)
@[simp] theorem fenceColls_kept (k : Fin 8) (s : State) : (fenceColls k s).kept = s.kept := by
  unfold fenceColls; simp only []; (repeat' split) <;> first | (simp; done) | (rw [foldl_kept] <;> intros <;> simp; done)
@[simp] theorem fenceProg_kept (k : Fin 8) (cause : Nat) (rseq : Nat) (lees : Bool) (s : State) : (fenceProg k cause rseq lees s).kept = s.kept := by
  unfold fenceProg; simp only []; (repeat' split) <;> first | (simp; done) | (rw [foldl_kept] <;> intros <;> simp; done)
@[simp] theorem recFence_kept (e : ErrRec) (ks : List (Fin 8)) (cause : Nat) (s : State) : (recFence e ks cause s).kept = s.kept := by
  unfold recFence; simp only []; (repeat' split) <;> first | (simp; done) | (rw [foldl_kept] <;> intros <;> simp; done)
@[simp] theorem spoil_kept (t : TileAt) (s : State) : (spoil t s).kept = s.kept := by
  unfold spoil; rw [foldl_kept] <;> intros <;> first | (simp; done) | ((repeat' split) <;> (simp; done))
@[simp] theorem loseMem_kept (p : Fin 12) (sram : Bool) (slab : Bool) (s : State) : (loseMem p sram slab s).kept = s.kept := by
  simp [loseMem]
@[simp] theorem loseStage_kept (p : Fin 12) (s : State) : (loseStage p s).kept = s.kept := by
  unfold loseStage; simp only []; (repeat' split) <;> first | (simp; done) | (rw [foldl_kept] <;> intros <;> simp; done)
@[simp] theorem areaLost_kept (a : Area) (s : State) : (areaLost a s).kept = s.kept := by
  unfold areaLost; (repeat' split) <;> simp
@[simp] theorem copiesGone_kept (p : Fin 12) (hit : TileAt → Bool) (s : State) : (copiesGone p hit s).kept = s.kept := by
  simp [copiesGone]
@[simp] theorem loseReserved_kept (p : Fin 12) (s : State) : (loseReserved p s).kept = s.kept := by
  simp [loseReserved]
@[simp] theorem dropLinks_kept (p : Fin 12) (s : State) : (dropLinks p s).kept = s.kept := by
  simp [dropLinks]
@[simp] theorem parcelTo_kept (p : Fin 12) (st : PSt) (cause : Nat) (dst : DomSt) (dcause : Nat) (rseq : Nat) (s : State) : (parcelTo p st cause dst dcause rseq s).kept = s.kept := by
  simp [parcelTo]
@[simp] theorem takeParcel_kept (p : Fin 12) (cause : Nat) (rseq : Nat) (cellar : Bool) (s : State) : (takeParcel p cause rseq cellar s).kept = s.kept := by
  simp [takeParcel]
@[simp] theorem loseParcel_kept (p : Fin 12) (cause : Nat) (e : ErrRec) (cellar : Bool) (s : State) : (loseParcel p cause e cellar s).kept = s.kept := by
  simp [loseParcel]
@[simp] theorem startEvac_kept (p : Fin 12) (cause : Nat) (s : State) : (startEvac p cause s).kept = s.kept := by
  unfold startEvac; (repeat' split) <;> simp
@[simp] theorem bumpGen_kept (s : State) : (bumpGen s).kept = s.kept := by
  unfold bumpGen; simp only []; (repeat' split) <;> first | (simp; done) | (rw [foldl_kept] <;> intros <;> simp; done)
@[simp] theorem addCulls_kept (l : List (Nat × Nat × Nat)) (s : State) : (addCulls l s).kept = s.kept := by
  unfold addCulls; simp only []; (repeat' split) <;> first | (simp; done) | (rw [foldl_kept] <;> intros <;> simp; done)
@[simp] theorem issueHold_kept (h : Nat) (s : State) : (issueHold h s).kept = s.kept := by
  simp [issueHold]
@[simp] theorem startChange_kept (target : Nat) (s : State) : (startChange target s).kept = s.kept := by
  simp [startChange]
@[simp] theorem evaluate_kept (s : State) : (evaluate s).kept = s.kept := by
  unfold evaluate; simp only []; (repeat' split) <;> first | (simp; done) | (rw [foldl_kept] <;> intros <;> simp; done)
@[simp] theorem forceSlow_kept (s : State) : (forceSlow s).kept = s.kept := by
  unfold forceSlow; (repeat' split) <;> simp
@[simp] theorem setReplace_kept (s : State) : (setReplace s).kept = s.kept := by
  unfold setReplace; (repeat' split) <;> simp
@[simp] theorem rateDown_kept (p : Fin 12) (op : Nat) (s : State) : (rateDown p op s).kept = s.kept := by
  simp [rateDown]
@[simp] theorem retireParcel_kept (p : Fin 12) (t : TileAt) (s : State) : (retireParcel p t s).kept = s.kept := by
  unfold retireParcel; (repeat' split) <;> simp
@[simp] theorem raiseTrim_kept (p : Fin 12) (s : State) : (raiseTrim p s).kept = s.kept := by
  simp [raiseTrim]
@[simp] theorem compParcel_kept (p : Fin 12) (t : TileAt) (s : State) : (compParcel p t s).kept = s.kept := by
  unfold compParcel; simp only []; (repeat' split) <;> first | (simp; done) | (rw [foldl_kept] <;> intros <;> simp; done)
@[simp] theorem suspectTile_kept (t : TileAt) (s : State) : (suspectTile t s).kept = s.kept := by
  unfold suspectTile; simp only []; (repeat' split) <;> first | (simp; done) | (rw [foldl_kept] <;> intros <;> simp; done)
@[simp] theorem retireHub_kept (h : Nat) (s : State) : (retireHub h s).kept = s.kept := by
  unfold retireHub; simp only []; (repeat' split) <;> first | (simp; done) | (rw [foldl_kept] <;> intros <;> simp; done)
@[simp] theorem suspectHub_kept (h : Fin 4) (s : State) : (suspectHub h s).kept = s.kept := by
  unfold suspectHub; simp only []; (repeat' split) <;> first | (simp; done) | (rw [foldl_kept] <;> intros <;> simp; done)
@[simp] theorem hubsBack_kept (s : State) : (hubsBack s).kept = s.kept := by
  unfold hubsBack; simp only []; (repeat' split) <;> first | (simp; done) | (rw [foldl_kept] <;> intros <;> simp; done)
@[simp] theorem logSuspect_kept (e : ErrRec) (s : State) : (logSuspect e s).kept = s.kept := by
  simp [logSuspect]
@[simp] theorem fatal_kept (cause : Nat) (s : State) : (fatal cause s).kept = s.kept := by
  simp [fatal]
@[simp] theorem askHost_kept (d : DescRef) (why : Why) (addr : DWord) (len : Nat) (s : State) : (askHost d why addr len s).kept = s.kept := by
  simp [askHost]
@[simp] theorem toHost_kept (d : DescRef) (addr : DWord) (b : List Byte) (s : State) : (toHost d addr b s).kept = s.kept := by
  simp [toHost]
@[simp] theorem failDesc_kept (d : DescRef) (status : Nat) (detail : Nat) (s : State) : (failDesc d status detail s).kept = s.kept := by
  simp [failDesc]
@[simp] theorem doneDesc_kept (d : DescRef) (detail : Nat) (s : State) : (doneDesc d detail s).kept = s.kept := by
  unfold doneDesc; (repeat' split) <;> simp
@[simp] theorem updSlot_kept (k : Fin 8) (n : Nat) (f : Slot → Slot) (s : State) : (updSlot k n f s).kept = s.kept := by
  simp [updSlot]
@[simp] theorem finishXfer_kept (d : DescRef) (s : State) : (finishXfer d s).kept = s.kept := by
  unfold finishXfer; (repeat' split) <;> simp
@[simp] theorem writeOut_kept (d : DescRef) (off : Nat) (b : List Byte) (s : State) : (writeOut d off b s).kept = s.kept := by
  unfold writeOut; (repeat' split) <;> simp
@[simp] theorem fillSlot_kept (k : Fin 8) (n : Nat) (s : State) : (fillSlot k n s).kept = s.kept := by
  unfold fillSlot; simp only []; (repeat' split) <;> first | (simp; done) | (rw [foldl_kept] <;> intros <;> simp; done)
@[simp] theorem landIn_kept (k : Fin 8) (n : Nat) (d : DescRef) (b : List Byte) (s : State) : (landIn k n d b s).kept = s.kept := by
  simp [landIn]
@[simp] theorem release16_kept (k : Fin 8) (n : Nat) (s : State) : (release16 k n s).kept = s.kept := by
  unfold release16; (try simp only []); (repeat' split) <;> first | (simp; done) | (simp; intros; (repeat' split) <;> simp; done)
@[simp] theorem landEdge_kept (k : Fin 8) (n : Nat) (d : DescRef) (b : List Byte) (s : State) : (landEdge k n d b s).kept = s.kept := by
  simp [landEdge]
@[simp] theorem slotReset_kept (k : Fin 8) (n : Nat) (all : Bool) (s : State) : (slotReset k n all s).kept = s.kept := by
  unfold slotReset; simp only []; (repeat' split) <;> first | (simp; done) | (rw [foldl_kept] <;> intros <;> simp; done)
@[simp] theorem slotCores_kept (k : Fin 8) (n : Nat) (s : State) : (slotCores k n s).kept = s.kept := by
  unfold slotCores; (repeat' split) <;> simp
@[simp] theorem eachSlot_kept (f : Fin 8 → Nat → State → State) (p : Nat → Bool) (s : State)
    (h : ∀ k n s, (f k n s).kept = s.kept) : (eachSlot f p s).kept = s.kept := by
  unfold eachSlot
  rw [foldl_kept]
  intros; split
  · rw [foldl_kept]; intros; exact h _ _ _
  · rfl
@[simp] theorem markStale_kept (s : State) : (markStale s).kept = s.kept := by
  simp [markStale]
@[simp] theorem blockXfers_kept (s : State) : (blockXfers s).kept = s.kept := by
  unfold blockXfers; rw [foldl_kept]; intro s k; split
  · rfl
  · rw [foldl_kept]; intro s e; simp only []; (repeat' split) <;> first | rfl | (rw [foldl_kept] <;> intros <;> simp)
@[simp] theorem redivide_kept (loss : Bool) (h : Nat) (s : State) : (redivide loss h s).kept = s.kept := by
  unfold redivide; simp only []; (repeat' split) <;> first | (simp; done) | (rw [foldl_kept] <;> intros <;> simp; done)
@[simp] theorem headLoss_kept (p : Fin 12) (s : State) : (headLoss p s).kept = s.kept := by
  simp [headLoss]
@[simp] theorem redivideAll_kept (s : State) : (redivideAll s).kept = s.kept := by
  unfold redivideAll; rw [foldl_kept] <;> intros <;> first | (simp; done) | ((repeat' split) <;> (simp; done))
@[simp] theorem updTask_kept (k : TaskAt) (f : Task → Task) (s : State) : (updTask k f s).kept = s.kept := by
  simp [updTask]
@[simp] theorem programFault_kept (k : TaskAt) (code : Nat) (word : Nat) (s : State) : (programFault k code word s).kept = s.kept := by
  unfold programFault; simp only []; (repeat' split) <;> first | (simp; done) | (rw [foldl_kept] <;> intros <;> simp; done)
@[simp] theorem countOwn_kept (k : TaskAt) (s : State) : (countOwn k s).kept = s.kept := by
  simp [countOwn]
@[simp] theorem ownBeatWith_kept (chk : Bool) (k : TaskAt) (act : State → State) (s : State)
    (h : ∀ s, (act s).kept = s.kept) : (ownBeatWith chk k act s).kept = s.kept := by
  unfold ownBeatWith; simp only []; (repeat' split) <;> simp [h]
@[simp] theorem residueMismatch_kept (k : TaskAt) (word : Nat) (s : State) (p : Nat) : (residueMismatch k word s p).kept = s.kept := by
  simp [residueMismatch]
@[simp] theorem issue_kept (i : Instr) (k : TaskAt) (g : Guard) (pl : Plan) (eff : State → State) (s : State)
    (h : ∀ s, (eff s).kept = s.kept) : (issue i k g pl eff s).kept = s.kept := by
  unfold issue; simp only []; (repeat' split) <;> first | (simp; done) | (rw [foldl_kept _ (residueMismatch_kept k _)]; simp [h])
@[simp] theorem ownBeat_kept (i : Instr) (k : TaskAt) (g : Guard) (pl : State → Plan) (eff : State → State) (s : State)
    (h : ∀ s, (eff s).kept = s.kept) : (ownBeat i k g pl eff s).kept = s.kept := by
  unfold ownBeat; simp [h]
@[simp] theorem schedule_kept (t : TileAt) (due : Nat) (early : Bool) (r : Reader) (a : Act) (s : State) : (schedule t due early r a s).kept = s.kept := by
  simp [schedule]
@[simp] theorem retireMark_kept (t : TileAt) (reason : Nat) (s : State) : (retireMark t reason s).kept = s.kept := by
  simp [retireMark]
@[simp] theorem hardError_kept (t : TileAt) (m : MemSpace) (word : Nat) (s : State) : (hardError t m word s).kept = s.kept := by
  unfold hardError; simp only []; (repeat' split) <;> first | (simp; done) | (rw [foldl_kept] <;> intros <;> simp; done)
@[simp] theorem readMark_kept (r : Reader) (t : TileAt) (s : State) (e : EccMark) : (readMark r t s e).kept = s.kept := by
  unfold readMark; (repeat' split) <;> simp
@[simp] theorem eccRead_kept (r : Reader) (t : TileAt) (m : MemSpace) (a : Nat) (n : Nat) (s : State) : (eccRead r t m a n s).kept = s.kept := by
  unfold eccRead; rw [foldl_kept] <;> intros <;> first | (simp; done) | ((repeat' split) <;> (simp; done))
@[simp] theorem repairRow_kept (t : TileAt) (row : Nat) (s : State) : (repairRow t row s).kept = s.kept := by
  simp [repairRow]
@[simp] theorem retireTile_kept (t : TileAt) (s : State) : (retireTile t s).kept = s.kept := by
  unfold retireTile; simp only []; (repeat' split) <;> first | (simp; done) | (rw [foldl_kept] <;> intros <;> simp; done)
@[simp] theorem deferredWork_kept (t : TileAt) (s : State) : (deferredWork t s).kept = s.kept := by
  simp [deferredWork]
@[simp] theorem storeLine_kept (t : TileAt) (m : MemSpace) (line : Nat) (v : Line) (s : State) : (storeLine t m line v s).kept = s.kept := by
  simp [storeLine]
@[simp] theorem storeBytes_kept (t : TileAt) (a : Nat) (n : Nat) (v : Nat) (s : State) : (storeBytes t a n v s).kept = s.kept := by
  simp [storeBytes]
@[simp] theorem pushWord_kept (t : TileAt) (port : Nat) (beat : Nat) (w : TWord) (s : State) : (pushWord t port beat w s).kept = s.kept := by
  simp [pushWord]
@[simp] theorem creditParity_kept (t : TileAt) (ch : Fin 8) (s : State) : (creditParity t ch s).kept = s.kept := by
  unfold creditParity; simp only []; (repeat' split) <;> first | (simp; done) | (rw [foldl_kept] <;> intros <;> simp; done)
@[simp] theorem captureWord_kept (t : TileAt) (ch : Fin 8) (s : State) : (captureWord t ch s).2.2.kept = s.kept := by
  unfold captureWord; simp only []; (repeat' split) <;> first | (simp; done) | (rw [foldl_kept] <;> intros <;> simp; done)
@[simp] theorem runAct_kept (t : TileAt) (r : Reader) (a : Act) (s : State) : (runAct t r a s).kept = s.kept := by
  unfold runAct; simp only []; (repeat' split) <;> first | (simp; done) | (rw [foldl_kept] <;> intros <;> simp; done)
@[simp] theorem runDue_kept (early : Bool) (t : TileAt) (s : State) : (runDue early t s).kept = s.kept := by
  unfold runDue; simp only []; (repeat' split) <;> first | (simp; done) | (rw [foldl_kept] <;> intros <;> simp; done)
@[simp] theorem runAllDue_kept (early : Bool) (s : State) : (runAllDue early s).kept = s.kept := by
  unfold runAllDue; rw [foldl_kept] <;> intros <;> first | (simp; done) | ((repeat' split) <;> (simp; done))
@[simp] theorem eachRunning_kept (f : Prog → Prog) (s : State) : (eachRunning f s).kept = s.kept := by
  simp [eachRunning]
@[simp] theorem runningBeat_kept (s : State) : (runningBeat s).kept = s.kept := by
  unfold runningBeat; simp only []; (repeat' split) <;> first | (simp; done) | (rw [foldl_kept] <;> intros <;> simp; done)
@[simp] theorem holdBeat_kept (s : State) : (holdBeat s).kept = s.kept := by
  simp [holdBeat]
@[simp] theorem stopDue_kept (s : State) (p : Fin 12) : (stopDue s p).kept = s.kept := by
  unfold stopDue; (repeat' split) <;> simp
@[simp] theorem passTime_kept (dt : Nat) (s : State) : (passTime dt s).kept = s.kept := by
  simp [passTime]
@[simp] theorem clockBeat_kept (s : State) : (clockBeat s).kept = s.kept := by
  simp [clockBeat]
@[simp] theorem takeBranch_kept (k : TaskAt) (pc : BitVec 13) (l : List LoopEnt) (s : State) : (takeBranch k pc l s).kept = s.kept := by
  simp [takeBranch]
@[simp] theorem pushLoop_kept (k : TaskAt) (pc : BitVec 13) (len : BitVec 8) (left : Nat) (s : State) : (pushLoop k pc len left s).kept = s.kept := by
  simp [pushLoop]
@[simp] theorem sendDone_kept (k : TaskAt) (ch : BitVec 3) (pn : BitVec 2) (sent : Bool) (s : State) : (sendDone k ch pn sent s).kept = s.kept := by
  simp [sendDone]
@[simp] theorem iterEff_kept (k : TaskAt) (s : State) : (iterEff k s).kept = s.kept := by
  unfold iterEff; simp only []; (repeat' split) <;> first | (simp; done) | (rw [foldl_kept] <;> intros <;> simp; done)
@[simp] theorem putVec_kept (k : TaskAt) (vd : BitVec 3) (v : Line) (rng : Word) (s : State) : (putVec k vd v rng s).kept = s.kept := by
  simp [putVec]
@[simp] theorem putLanes_kept (k : TaskAt) (w : BitVec 1) (n : Nat) :
    ∀ (vd : BitVec 3) (l : List Nat) (s : State), (putLanes k vd w n l s).kept = s.kept := by
  induction n with
  | zero => intros; rfl
  | succ n ih => intros; unfold putLanes; rw [ih]; simp
@[simp] theorem keepHead_kept (d : Option Nat) (p : Packet) (s : State) : (keepHead d p s).kept = s.kept := by
  unfold keepHead; (repeat' split) <;> simp
@[simp] theorem noteHead_kept (p : Packet) (s : State) : (noteHead p s).kept = s.kept := by
  simp [noteHead]
@[simp] theorem awaitMore_kept (e : BitVec 1) (s : State) : (awaitMore e s).kept = s.kept := by
  simp [awaitMore]
@[simp] theorem awaitLess_kept (e : BitVec 1) (s : State) : (awaitLess e s).kept = s.kept := by
  simp [awaitLess]
@[simp] theorem sendPacket_kept (p : Packet) (s : State) : (sendPacket p s).kept = s.kept := by
  simp [sendPacket]
@[simp] theorem respond_kept (p : Packet) (opc : BitVec 6) (first : Bool) (last : Bool) (countOff : Nat) (status : Nat) (b : List Byte) (s : State) : (respond p opc first last countOff status b s).kept = s.kept := by
  simp [respond]
@[simp] theorem partDone_kept (d : DescRef) (s : State) : (partDone d s).kept = s.kept := by
  unfold partDone; (repeat' split) <;> simp
@[simp] theorem frameLost_kept (k : Fin 8) (n : Nat) (d : DescRef) (m : Nat) (landed : Bool) (s : State) : (frameLost k n d m landed s).kept = s.kept := by
  unfold frameLost; (repeat' split) <;> simp
@[simp] theorem collPart_kept (d : DescRef) (obj : Nat) (off : Nat) (pos : Nat) (b : List Byte) (s : State) : (collPart d obj off pos b s).kept = s.kept := by
  simp [collPart]
@[simp] theorem collFails_kept (d : DescRef) (status : Nat) (detail : Nat) (s : State) : (collFails d status detail s).kept = s.kept := by
  simp [collFails]
@[simp] theorem closeReq_kept (r : NetReq) (region : Nat) (status : Nat) (b : List Byte) (s : State) : (closeReq r region status b s).kept = s.kept := by
  unfold closeReq; simp only []; (repeat' split) <;> first | (simp; done) | (rw [foldl_kept] <;> intros <;> simp; done)
@[simp] theorem endReq_kept (r : NetReq) (region : Nat) (status : Nat) (b : List Byte) (s : State) : (endReq r region status b s).kept = s.kept := by
  unfold endReq; simp only []; (repeat' split) <;> first | (simp; done) | (rw [foldl_kept] <;> intros <;> simp; done)
@[simp] theorem launch_kept (r : NetReq) (ps : List Packet) (s : State) : (launch r ps s).kept = s.kept := by
  unfold launch; simp only []; (repeat' split) <;> first | (simp; done) | (rw [foldl_kept] <;> intros <;> simp; done)
@[simp] theorem injectReq_kept (r : NetReq) (ps : List Packet) (s : State) : (injectReq r ps s).kept = s.kept := by
  unfold injectReq; simp only []; (repeat' split) <;> first | (simp; done) | (rw [foldl_kept] <;> intros <;> simp; done)
@[simp] theorem releaseHeld_kept (u : BitVec 24) (s : State) : (releaseHeld u s).kept = s.kept := by
  unfold releaseHeld; simp only []; (repeat' split) <;> first | (simp; done) | (rw [foldl_kept] <;> intros <;> simp; done)
@[simp] theorem releaseAll_kept (s : State) : (releaseAll s).kept = s.kept := by
  simp [releaseAll]
@[simp] theorem injectAll_kept (d : DescRef) (act : State → State) (s : State) (h : ∀ s, (act s).kept = s.kept) : (injectAll d act s).kept = s.kept := by
  simp [injectAll, h]
@[simp] theorem netMsg_kept (u : BitVec 24) (dst : BitVec 24) (why : NetWhy) (ps : Option (Fin 8)) (b : List Byte) (s : State) : (netMsg u dst why ps b s).kept = s.kept := by
  simp [netMsg]
@[simp] theorem netRead_kept (u : BitVec 24) (why : NetWhy) (ps : Option (Fin 8)) (t : TileAt) (m : MemSpace) (a : Nat) (n : Nat) (base : Nat) (s : State) : (netRead u why ps t m a n base s).kept = s.kept := by
  simp [netRead]
@[simp] theorem netWrite_kept (u : BitVec 24) (why : NetWhy) (ps : Option (Fin 8)) (t : TileAt) (m : MemSpace) (a : Nat) (b : List Byte) (s : State) : (netWrite u why ps t m a b s).kept = s.kept := by
  simp [netWrite]
@[simp] theorem carryIn_kept (k : Fin 8) (n : Nat) (d : DescRef) (b : List Byte) (s : State) : (carryIn k n d b s).kept = s.kept := by
  simp [carryIn]
@[simp] theorem carryTx_kept (h : Nat) (u : Nat) (x : Desc) (off : Nat) (b : List Byte) (s : State) : (carryTx h u x off b s).kept = s.kept := by
  simp [carryTx]
@[simp] theorem landRx_kept (x : Desc) (off : Nat) (b : List Byte) (s : State) : (landRx x off b s).kept = s.kept := by
  unfold landRx; (repeat' split) <;> simp
@[simp] theorem msgCame_kept (r : NetReq) (b : List Byte) (s : State) : (msgCame r b s).kept = s.kept := by
  unfold msgCame; (repeat' split) <;> simp
@[simp] theorem moveOutBytes_kept (k : Fin 8) (n : Nat) (x : Desc) (b : List Byte) (s : State) : (moveOutBytes k n x b s).kept = s.kept := by
  unfold moveOutBytes; (repeat' split) <;> simp
@[simp] theorem giveOut_kept (k : Fin 8) (n : Nat) (s : State) (x : Desc) : (giveOut k n s x).kept = s.kept := by
  unfold giveOut; simp only []; (repeat' split) <;> first | (simp; done) | (rw [foldl_kept] <;> intros <;> simp; done)
@[simp] theorem pumpOut_kept (k : Fin 8) (n : Nat) (s : State) : (pumpOut k n s).kept = s.kept := by
  unfold pumpOut; (try simp only []); (repeat' split) <;> first | (simp; done) | (simp; intros; (repeat' split) <;> simp; done)
@[simp] theorem slotsBack_kept (s : State) : (slotsBack s).kept = s.kept := by
  simp [slotsBack]
@[simp] theorem addExit_kept (k : Fin 8) (n : Nat) (b : List Byte) (s : State) : (addExit k n b s).kept = s.kept := by
  simp [addExit]
@[simp] theorem drainExit_kept (k : Fin 8) (n f : Nat) : ∀ s : State, (drainExit k n f s).kept = s.kept := by
  induction f with
  | zero => intro s; rfl
  | succ f ih => intro s; unfold drainExit; (repeat' split) <;> simp [ih]
@[simp] theorem spanIn_kept (h : Nat) (n : Nat) (s : State) : (spanIn h n s).2.kept = s.kept := by
  unfold spanIn; simp only []; (repeat' split) <;> first | (simp; done) | (rw [foldl_kept] <;> intros <;> simp; done)
@[simp] theorem epochDiscard_kept (k : Fin 8) (s : State) : (epochDiscard k s).kept = s.kept := by
  simp [epochDiscard]
@[simp] theorem spanOut_kept (h : Nat) (n : Nat) (w : TWord) (s : State) : (spanOut h n w s).kept = s.kept := by
  unfold spanOut; simp only []; (repeat' split) <;> first | (simp; done) | (rw [foldl_kept] <;> intros <;> simp; done)
@[simp] theorem parityMismatch_kept (t : TileAt) (port : Nat) (w : TWord) (s : State) : (parityMismatch t port w s).kept = s.kept := by
  unfold parityMismatch; simp only []; (repeat' split) <;> first | (simp; done) | (rw [foldl_kept] <;> intros <;> simp; done)
@[simp] theorem steerParity_kept (t : TileAt) (w : TWord) (s : State) : (steerParity t w s).kept = s.kept := by
  unfold steerParity; (repeat' split) <;> simp
@[simp] theorem queueOverflow_kept (t : TileAt) (e : ErrRec) (s : State) : (queueOverflow t e s).kept = s.kept := by
  simp [queueOverflow]
@[simp] theorem badEntry_kept (t : TileAt) (idx : Nat) (phase : Nat) (entry : DWord) (s : State) : (badEntry t idx phase entry s).kept = s.kept := by
  simp [badEntry]
@[simp] theorem drive_kept (t : TileAt) (o : Nat) (w : TWord) (s : State) : (drive t o w s).kept = s.kept := by
  unfold drive; (repeat' split) <;> simp
@[simp] theorem cInput_kept (t : TileAt) (pos : Nat × Nat) (s : State) : (cInput t pos s).2.kept = s.kept := by
  unfold cInput; simp only []; (repeat' split) <;> first | (simp; done) | (rw [foldl_kept] <;> intros <;> simp; done)
@[simp] theorem inputs_kept (t : TileAt) (pos : Nat × Nat) (s : State) : (inputs t pos s).2.kept = s.kept := by
  unfold inputs; simp only []; (repeat' split) <;> first | (simp; done) | (rw [foldl_kept] <;> intros <;> simp; done)
@[simp] theorem takeInputs_kept (t : TileAt) (pos : Nat × Nat) (s : State) : (takeInputs t pos s).2.kept = s.kept := by
  simp [takeInputs]
@[simp] theorem solChecked_kept (t : TileAt) (e : Nat) (s : State) : (solChecked t e s).kept = s.kept := by
  unfold solChecked; (repeat' split) <;> simp
@[simp] theorem channelsTake_kept (t : TileAt) (pos : Nat × Nat) (w : TWord) (s : State) (i : Fin 8) : (channelsTake t pos w s i).kept = s.kept := by
  unfold channelsTake; simp only []; (repeat' split) <;> first | (simp; done) | (rw [foldl_kept] <;> intros <;> simp; done)
@[simp] theorem firingCredits_kept (t : TileAt) (s : State) (i : Fin 8) : (firingCredits t s i).kept = s.kept := by
  unfold firingCredits; simp only []; (repeat' split) <;> first | (simp; done) | (rw [foldl_kept] <;> intros <;> simp; done)
@[simp] theorem applyEntry_kept (t : TileAt) (pos : Nat × Nat) (e : Nat) (s : State) : (applyEntry t pos e s).kept = s.kept := by
  unfold applyEntry; (try simp only []); (repeat' split) <;> first | (simp; done) | (simp; intros; (repeat' split) <;> simp; done)
@[simp] theorem discard_kept (p : Packet) (s : State) : (discard p s).kept = s.kept := by
  simp [discard]
@[simp] theorem seenIn_kept (p : Packet) (s : State) : (seenIn p s).kept = s.kept := by
  unfold seenIn; (repeat' split) <;> simp
theorem lateCame_kept {p : Packet} {s t : State} (h : lateCame p s = some t) : t.kept = s.kept := by
  unfold lateCame at h
  cases hq : s.snet.wires.late.find? fun q => asSent q == asSent p with
  | none => simp [hq] at h
  | some q => rw [hq] at h; simp only [Option.map_some, Option.some.injEq] at h; subst h; split <;> simp
@[simp] theorem arrive_kept (opc : BitVec 6) (vcr : BitVec 1) (p : Packet) (good : State → State) (s : State)
    (h : ∀ s, (good s).kept = s.kept) : (arrive opc vcr p good s).kept = s.kept := by
  unfold arrive; split
  · rfl
  · split
    · rename_i hl; exact lateCame_kept hl
    · simp only []; (repeat' split) <;> simp [h]
@[simp] theorem dropMsg_kept (p : Packet) (s : State) : (dropMsg p s).kept = s.kept := by
  simp [dropMsg]
@[simp] theorem setMsg_kept (p : Packet) (m : InMsg) (s : State) : (setMsg p m s).kept = s.kept := by
  simp [setMsg]
@[simp] theorem queueUnits_kept (p : Packet) (l : List (Nat × Option (List Byte) × Nat)) (s : State) : (queueUnits p l s).kept = s.kept := by
  simp [queueUnits]
@[simp] theorem confWord_kept (e : BitVec 24) (a : Nat) (s : State) : (confWord e a s).2.kept = s.kept := by
  unfold confWord; (repeat' split) <;> simp
@[simp] theorem confRead_kept (e : BitVec 24) (n : Nat) : ∀ (a : Nat) (s : State), (confRead e a n s).2.kept = s.kept := by
  induction n with
  | zero => intros; rfl
  | succ n ih => intros; unfold confRead; simp [ih]
@[simp] theorem confWrite_kept (p : Packet) (s : State) : (confWrite p s).kept = s.kept := by
  simp [confWrite]
@[simp] theorem sendData_kept (p : Packet) (b : List Byte) (s : State) : (sendData p b s).kept = s.kept := by
  simp [sendData]
@[simp] theorem acceptRead_kept (p : Packet) (s : State) : (acceptRead p s).kept = s.kept := by
  unfold acceptRead; simp only []; (repeat' split) <;> first | (simp; done) | (rw [foldl_kept] <;> intros <;> simp; done)
@[simp] theorem finishWrite_kept (p : Packet) (s : State) : (finishWrite p s).kept = s.kept := by
  unfold finishWrite; (repeat' split) <;> simp
@[simp] theorem takeWrite_kept (p : Packet) (s : State) : (takeWrite p s).kept = s.kept := by
  unfold takeWrite; simp only []; (repeat' split) <;> first | (simp; done) | (rw [foldl_kept] <;> intros <;> simp; done)
@[simp] theorem unblockN_kept (e : BitVec 24) (n : Nat) : ∀ s : State, (unblockN e n s).kept = s.kept := by
  induction n with
  | zero => intro s; rfl
  | succ n ih => intro s; unfold unblockN; split <;> simp [ih]
@[simp] theorem unblock_kept (e : BitVec 24) (s : State) : (unblock e s).kept = s.kept := by
  simp [unblock]
@[simp] theorem portWrite_kept (p : Packet) (s : State) : (portWrite p s).kept = s.kept := by
  unfold portWrite; (repeat' split) <;> simp
@[simp] theorem sendPart_kept (p : Packet) (m : InMsg) (s : State) : (sendPart p m s).kept = s.kept := by
  unfold sendPart; simp only []; (repeat' split) <;> first | (simp; done) | (rw [foldl_kept] <;> intros <;> simp; done)
@[simp] theorem readUnit_kept (t : TileAt) (e : Narrow) (s : State) : (readUnit t e s).kept = s.kept := by
  unfold readUnit; (try simp only []); (repeat' split) <;> first | (simp; done) | (simp; intros; (repeat' split) <;> simp; done)
@[simp] theorem writeUnit_kept (t : TileAt) (e : Narrow) (b : List Byte) (s : State) : (writeUnit t e b s).kept = s.kept := by
  unfold writeUnit; (repeat' split) <;> simp
@[simp] theorem refuseReq_kept (p : Packet) (opc : BitVec 6) (status : Nat) (s : State) : (refuseReq p opc status s).kept = s.kept := by
  simp [refuseReq]
@[simp] theorem takeMsg_kept (p : Packet) (s : State) : (takeMsg p s).kept = s.kept := by
  unfold takeMsg; simp only []; (repeat' split) <;> first | (simp; done) | (rw [foldl_kept] <;> intros <;> simp; done)
@[simp] theorem lostResponse_kept (s : State) : (lostResponse s).kept = s.kept := by
  simp [lostResponse]
@[simp] theorem takeReadData_kept (p : Packet) (s : State) : (takeReadData p s).kept = s.kept := by
  unfold takeReadData; simp only []; (repeat' split) <;> first | (simp; done) | (rw [foldl_kept] <;> intros <;> simp; done)
@[simp] theorem takeAck_kept (opc : BitVec 6) (p : Packet) (s : State) : (takeAck opc p s).kept = s.kept := by
  unfold takeAck; (repeat' split) <;> simp
@[simp] theorem answer_kept (c : Nat) (s : State) : (answer c s).kept = s.kept := by
  unfold answer; simp only []; (repeat' split) <;> first | (simp; done) | (rw [foldl_kept] <;> intros <;> simp; done)
@[simp] theorem fenceHub_kept (h : Nat) (cause : Nat) (rseq : Nat) (lees : Bool) (s : State) : (fenceHub h cause rseq lees s).kept = s.kept := by
  simp [fenceHub]
@[simp] theorem fenceEdge_kept (n : Fin 24) (cause : Nat) (rseq : Nat) (lees : Bool) (s : State) : (fenceEdge n cause rseq lees s).kept = s.kept := by
  unfold fenceEdge; simp only []; (repeat' split) <;> first | (simp; done) | (rw [foldl_kept] <;> intros <;> simp; done)
@[simp] theorem mgmtClose_kept (cause : Nat) (rseq : Nat) (s : State) : (mgmtClose cause rseq s).kept = s.kept := by
  unfold mgmtClose; simp only []; (repeat' split) <;> first | (simp; done) | (rw [foldl_kept] <;> intros <;> simp; done)
@[simp] theorem abortDesc_kept (s : State) (x : Desc) : (abortDesc s x).kept = s.kept := by
  unfold abortDesc; (repeat' split) <;> simp
@[simp] theorem linkDown_kept (s : State) : (linkDown s).kept = s.kept := by
  unfold linkDown; (repeat' split) <;> simp
@[simp] theorem hostifClose_kept (cause : Nat) (s : State) : (hostifClose cause s).kept = s.kept := by
  simp [hostifClose]
@[simp] theorem hostifOpen_kept (s : State) : (hostifOpen s).kept = s.kept := by
  simp [hostifOpen]
@[simp] theorem captureLees_kept (c : Nat) (pbeat : Nat) (s : State) : (captureLees c pbeat s).kept = s.kept := by
  unfold captureLees; (repeat' split) <;> simp
@[simp] theorem haltTiles_kept (k : Fin 8) (s : State) : (haltTiles k s).kept = s.kept := by
  simp [haltTiles]
@[simp] theorem headRemove_kept (g : Prog) (s : State) : (headRemove g s).kept = s.kept := by
  unfold headRemove; simp only []; (repeat' split) <;> first | (simp; done) | (rw [foldl_kept] <;> intros <;> simp; done)
@[simp] theorem settleOne_kept (s : State) (e : Fin 64 × Fin 8 × Nat × Nat) : (settleOne s e).kept = s.kept := by
  unfold settleOne; simp only []; (repeat' split) <;> first | (simp; done) | (rw [foldl_kept] <;> intros <;> simp; done)
@[simp] theorem settleOwed_kept (k : Fin 8) (s : State) : (settleOwed k s).kept = s.kept := by
  simp [settleOwed]
@[simp] theorem releaseProg_kept (k : Fin 8) (s : State) : (releaseProg k s).kept = s.kept := by
  unfold releaseProg; simp only []; (repeat' split) <;> first | (simp; done) | (rw [foldl_kept] <;> intros <;> simp; done)
@[simp] theorem dropWaiting_kept (k : Fin 8) (s : State) : (dropWaiting k s).kept = s.kept := by
  simp [dropWaiting]
@[simp] theorem setRails_kept (op : Nat) (s : State) : (setRails op s).kept = s.kept := by
  simp [setRails]
@[simp] theorem dropParcel_kept (p : Fin 12) (cause : Nat) (e : ErrRec) (cellar : Bool) (s : State) : (dropParcel p cause e cellar s).kept = s.kept := by
  simp [dropParcel]
@[simp] theorem takeReadings_kept (tel : Telemetry) (s : State) : (takeReadings tel s).kept = s.kept := by
  simp [takeReadings]
@[simp] theorem setChange_kept (c : Option OpChange) (s : State) : (setChange c s).kept = s.kept := by
  simp [setChange]
@[simp] theorem forceResponse_kept (s : State) : (forceResponse s).kept = s.kept := by
  simp [forceResponse]
@[simp] theorem alertGone_kept (g : Fin 48) (s : State) : (alertGone g s).kept = s.kept := by
  unfold alertGone; (repeat' split) <;> simp
@[simp] theorem isolate_kept (g : Fin 48) (s : State) : (isolate g s).kept = s.kept := by
  simp [isolate]
@[simp] theorem hubShort_kept (h : Nat) (g : Fin 48) (s : State) : (hubShort h g s).kept = s.kept := by
  simp [hubShort]
@[simp] theorem phyShort_kept (d : Nat) (g : Fin 48) (s : State) : (phyShort d g s).kept = s.kept := by
  simp [phyShort]
@[simp] theorem dieForce_kept (s : State) (d : Fin 12) : (dieForce s d).kept = s.kept := by
  unfold dieForce; simp only []; (repeat' split) <;> first | (simp; done) | (rw [foldl_kept] <;> intros <;> simp; done)
@[simp] theorem trip_kept (s : State) (p : Fin 12) : (trip s p).kept = s.kept := by
  unfold trip; simp only []; (repeat' split) <;> first | (simp; done) | (rw [foldl_kept] <;> intros <;> simp; done)
@[simp] theorem swapSlab_kept (a : TileAt) (b : TileAt) (s : State) : (swapSlab a b s).kept = s.kept := by
  simp [swapSlab]
@[simp] theorem moveSlab_kept (a : TileAt) (b : TileAt) (s : State) : (moveSlab a b s).kept = s.kept := by
  simp [moveSlab]
@[simp] theorem moveOut_kept (p : Fin 12) (s : State) (t : TileAt) : (moveOut p s t).kept = s.kept := by
  unfold moveOut; (try simp only []); (repeat' split) <;> first | (simp; done) | (simp; intros; (repeat' split) <;> simp; done)
@[simp] theorem evacDone_kept (s : State) (p : Fin 12) : (evacDone s p).kept = s.kept := by
  simp [evacDone]
@[simp] theorem endChange_kept (mask : BitVec 16) (s : State) : (endChange mask s).kept = s.kept := by
  unfold endChange; simp only []; (repeat' split) <;> first | (simp; done) | (rw [foldl_kept] <;> intros <;> simp; done)
@[simp] theorem giveUp_kept (s : State) : (giveUp s).kept = s.kept := by
  simp [giveUp]
@[simp] theorem ageFoot_kept (s : State) (t : TileAt) : (ageFoot s t).kept = s.kept := by
  unfold ageFoot; simp only []; (repeat' split) <;> first | (simp; done) | (rw [foldl_kept] <;> intros <;> simp; done)
@[simp] theorem ageFree_kept (s : State) (t : TileAt) : (ageFree s t).kept = s.kept := by
  unfold ageFree; simp only []; (repeat' split) <;> first | (simp; done) | (rw [foldl_kept] <;> intros <;> simp; done)
@[simp] theorem retain_kept (r : Nat) (s : State) (p : Fin 12) : (retain r s p).kept = s.kept := by
  simp [retain]
@[simp] theorem holdProg_kept (r : Nat) (s : State) (k : Fin 8) : (holdProg r s k).kept = s.kept := by
  simp [holdProg]
@[simp] theorem unretain_kept (ev : List (Fin 12)) (s : State) (p : Fin 12) : (unretain ev s p).kept = s.kept := by
  unfold unretain; (repeat' split) <;> simp
@[simp] theorem unhold_kept (s : State) (k : Fin 8) : (unhold s k).kept = s.kept := by
  unfold unhold; (repeat' split) <;> simp
@[simp] theorem copyBad_kept (t : TileAt) (s : State) : (copyBad t s).kept = s.kept := by
  simp [copyBad]
@[simp] theorem vacate_kept (t : TileAt) (s : State) : (vacate t s).kept = s.kept := by
  unfold vacate; (repeat' split) <;> simp
@[simp] theorem stageReq_kept (n : Nat) (s : State) : (stageReq n s).kept = s.kept := by
  simp [stageReq]
@[simp] theorem aboveWindow_kept (off : Nat) (s : State) : (aboveWindow off s).kept = s.kept := by
  unfold aboveWindow; (repeat' split) <;> simp
@[simp] theorem windowAccess_kept (a : Nat) (gone : Out) (act : TileAt → Nat → State → State) (s : State) (h : ∀ a0 a1 s, (act a0 a1 s).kept = s.kept) : (windowAccess a gone act s).kept = s.kept := by
  unfold windowAccess; (repeat' split) <;> simp [h]
@[simp] theorem keepLine_kept (copy : List TileAt) (s : State) (e : Nat × List Byte) : (keepLine copy s e).kept = s.kept := by
  unfold keepLine; (repeat' split) <;> simp
@[simp] theorem mirror_kept (s : State) : (mirror s).kept = s.kept := by
  unfold mirror; (try simp only []); (repeat' split) <;> first | rfl | (simp; done) | (rw [foldl_kept] <;> intros <;> first | (simp; done) | ((repeat' split) <;> (simp; done)))
@[simp] theorem readCopies_kept (n : Nat) (l : List (List TileAt × Bool)) : ∀ s : State, (readCopies n l s).kept = s.kept := by
  induction l with
  | nil => intro s; rfl
  | cons c t ih =>
    intro s; unfold readCopies; split
    · exact ih s
    · simp only []; split
      · rw [ih, copiesGone_kept, foldl_kept]; intros; simp
      · rw [foldl_kept]; intros; simp
@[simp] theorem readArea_kept (a : Area) (n : Nat) (s : State) : (readArea a n s).kept = s.kept := by
  unfold readArea; split <;> simp
@[simp] theorem restoreLog_kept (s : State) : (restoreLog s).kept = s.kept := by
  simp [restoreLog]
@[simp] theorem checkCode_kept (t : TileAt) (s : State) : (checkCode t s).kept = s.kept := by
  unfold checkCode; simp only []; (repeat' split) <;> first | (simp; done) | (rw [foldl_kept] <;> intros <;> simp; done)
@[simp] theorem unitLost_kept (m : HubMark) (s : State) : (unitLost m s).kept = s.kept := by
  unfold unitLost; simp only []; (repeat' split) <;> simp
@[simp] theorem meetMark_kept (nm : ErrRec → ErrRec) (bad : State → State) (s : State) (m : HubMark) (h : ∀ s, (bad s).kept = s.kept) :
    (meetMark nm bad s m).kept = s.kept := by
  simp [meetMark, h]
@[simp] theorem meetMarks_kept (h : Nat) (us : List HubUse) (nm : ErrRec → ErrRec) (bad : State → State) (s : State)
    (hb : ∀ s, (bad s).kept = s.kept) : (meetMarks h us nm bad s).kept = s.kept := by
  unfold meetMarks
  rw [foldl_kept]
  · simp
  · intro s m; exact meetMark_kept _ _ _ _ hb
@[simp] theorem setSq_kept (p : Fin 64) (q : Sq) (s : State) : (setSq p q s).kept = s.kept := by
  simp [setSq]
@[simp] theorem setCq_kept (p : Fin 64) (q : Cq) (s : State) : (setCq p q s).kept = s.kept := by
  simp [setCq]
@[simp] theorem cacheLine_kept (x : CacheLine) (s : State) : (cacheLine x s).kept = s.kept := by
  unfold cacheLine; exact kept_mk ..
@[simp] theorem cacheHalf_kept (line : Nat) (upper : Bool) (b : List Byte) (s : State) : (cacheHalf line upper b s).kept = s.kept := by
  unfold cacheHalf; exact cacheLine_kept _ _
@[simp] theorem layRecord_kept (c : Cq) (b : List Byte) (s : State) : (layRecord c b s).kept = s.kept := by
  simp [layRecord]
@[simp] theorem putRecord_kept (q : Fin 64) (nudge : Bool) (ref : DescRef) (tag : DWord) (o : Outc) (s : State) : (putRecord q nudge ref tag o s).kept = s.kept := by
  unfold putRecord; simp only []; (repeat' split) <;> first | (simp; done) | (rw [foldl_kept] <;> intros <;> simp; done)
@[simp] theorem flushRead_kept (d : DescRef) (a : DWord) (s : State) : (flushRead d a s).kept = s.kept := by
  simp [flushRead]
@[simp] theorem flushList_kept (q : Fin 64) (l : List HeldRec) : ∀ s : State, (flushList q l s).kept = s.kept := by
  induction l with
  | nil => intro s; rfl
  | cons r t ih => intro s; unfold flushList; simp only []; (repeat' split) <;> simp [ih]
@[simp] theorem flushHeld_kept (q : Fin 64) (s : State) : (flushHeld q s).kept = s.kept := by
  simp [flushHeld]
@[simp] theorem flushSeen_kept (d : DescRef) (s : State) : (flushSeen d s).kept = s.kept := by
  unfold flushSeen; (repeat' split) <;> simp
@[simp] theorem holdRec_kept (r : HeldRec) (s : State) : (holdRec r s).kept = s.kept := by
  unfold holdRec; (repeat' split) <;> simp
@[simp] theorem spoilOutc_kept (p : Fin 64) (o : Outc) (s : State) : (spoilOutc p o s).2.kept = s.kept := by
  unfold spoilOutc; (repeat' split) <;> simp
@[simp] theorem faultOutc_kept (x : Desc) (o : Outc) (s : State) : (faultOutc x o s).2.kept = s.kept := by
  unfold faultOutc; (repeat' split) <;> simp
@[simp] theorem watchFrom_kept (x : Desc) (o : Outc) (s : State) : (watchFrom x o s).kept = s.kept := by
  simp [watchFrom]
@[simp] theorem afterRecord_kept (x : Desc) (o : Outc) (s : State) : (afterRecord x o s).kept = s.kept := by
  unfold afterRecord; simp only []; (repeat' split) <;> first | (simp; done) | (rw [foldl_kept] <;> intros <;> simp; done)
@[simp] theorem finalOutc_kept (x : Desc) (o : Outc) (s : State) : (finalOutc x o s).2.kept = s.kept := by
  simp [finalOutc]
@[simp] theorem writeRecord_kept (x : Desc) (o : Outc) (s : State) : (writeRecord x o s).kept = s.kept := by
  unfold writeRecord; (repeat' split) <;> simp
@[simp] theorem holdEndedN_kept (n : Nat) : ∀ s : State, (holdEndedN n s).kept = s.kept := by
  induction n with
  | zero => intro s; rfl
  | succ n ih => intro s; unfold holdEndedN; (repeat' split) <;> simp [ih]
@[simp] theorem holdEnded_kept (s : State) : (holdEnded s).kept = s.kept := by
  simp [holdEnded]
@[simp] theorem sqDoor_kept (p : Fin 64) (v : Nat) (s : State) : (sqDoor p v s).kept = s.kept := by
  unfold sqDoor; simp only []; (repeat' split) <;> first | (simp; done) | (rw [foldl_kept] <;> intros <;> simp; done)
@[simp] theorem cqDoor_kept (p : Fin 64) (v : Nat) (s : State) : (cqDoor p v s).kept = s.kept := by
  unfold cqDoor; simp only []; (repeat' split) <;> first | (simp; done) | (rw [foldl_kept] <;> intros <;> simp; done)
@[simp] theorem refill_kept (s : State) : (refill s).kept = s.kept := by
  unfold refill; (repeat' split) <;> simp
@[simp] theorem hostErr_kept (poison : Bool) (x : Option Desc) (s : State) : (hostErr poison x s).kept = s.kept := by
  simp [hostErr]
@[simp] theorem takeDesc_kept (p : Fin 64) (b : List Byte) (s : State) : (takeDesc p b s).kept = s.kept := by
  unfold takeDesc; simp only []; (repeat' split) <;> first | (simp; done) | (rw [foldl_kept] <;> intros <;> simp; done)
@[simp] theorem fetchCheck_kept (d : DescRef) (s : State) : (fetchCheck d s).kept = s.kept := by
  unfold fetchCheck; (repeat' split) <;> simp
@[simp] theorem meetFetch_kept (d : DescRef) (s : State) : (meetFetch d s).kept = s.kept := by
  unfold meetFetch; apply meetMarks_kept; intros; simp
@[simp] theorem cacheSq_kept (q : Sq) (b : List Byte) (s : State) : (cacheSq q b s).kept = s.kept := by
  unfold cacheSq; split
  · exact cacheLine_kept _ _
  · rfl
@[simp] theorem ackFence_kept (x : Desc) (s : State) : (ackFence x s).kept = s.kept := by
  unfold ackFence; (repeat' split) <;> simp
@[simp] theorem sqStart_kept (p : Fin 64) (q : Sq) (s : State) : (sqStart p q s).kept = s.kept := by
  simp [sqStart]
@[simp] theorem sqCfg_kept (p : Fin 64) (v : Nat) (s : State) : (sqCfg p v s).kept = s.kept := by
  unfold sqCfg; simp only []; (repeat' split) <;> first | (simp; done) | (rw [foldl_kept] <;> intros <;> simp; done)
@[simp] theorem cqStart_kept (p : Fin 64) (q : Cq) (s : State) : (cqStart p q s).kept = s.kept := by
  simp [cqStart]
@[simp] theorem cqCfg_kept (p : Fin 64) (v : Nat) (s : State) : (cqCfg p v s).kept = s.kept := by
  unfold cqCfg; simp only []; (repeat' split) <;> first | (simp; done) | (rw [foldl_kept] <;> intros <;> simp; done)
@[simp] theorem attnClear_kept (v : Nat) (s : State) : (attnClear v s).kept = s.kept := by
  simp [attnClear]
@[simp] theorem heldDrop_kept (v : Nat) (s : State) : (heldDrop v s).kept = s.kept := by
  unfold heldDrop; (repeat' split) <;> simp
@[simp] theorem throttleSet_kept (v : Nat) (s : State) : (throttleSet v s).kept = s.kept := by
  simp [throttleSet]
@[simp] theorem sendPending_kept (s : State) : (sendPending s).kept = s.kept := by
  unfold sendPending; rw [foldl_kept] <;> intros <;> first | (simp; done) | ((repeat' split) <;> (simp; done))
@[simp] theorem unmask_kept (u : Unmask) (s : State) : (unmask u s).kept = s.kept := by
  unfold unmask; (repeat' split) <;> simp
@[simp] theorem portCtl_kept (n : Fin 24) (v : Nat) (s : State) : (portCtl n v s).kept = s.kept := by
  unfold portCtl; simp only []; (repeat' split) <;> first | (simp; done) | (rw [foldl_kept] <;> intros <;> simp; done)
@[simp] theorem setEngineId_kept (v : Nat) (s : State) : (setEngineId v s).kept = s.kept := by
  unfold setEngineId; (repeat' split) <;> simp
@[simp] theorem setTimeout_kept (v : Nat) (s : State) : (setTimeout v s).kept = s.kept := by
  simp [setTimeout]
@[simp] theorem setRoute_kept (d : Fin 128) (v : Nat) (s : State) : (setRoute d v s).kept = s.kept := by
  unfold setRoute; simp only []; (repeat' split) <;> first | (simp; done) | (rw [foldl_kept] <;> intros <;> simp; done)
@[simp] theorem identityEnd_kept (n : Fin 24) (page : Option (List Byte)) (s : State) : (identityEnd n page s).kept = s.kept := by
  unfold identityEnd; simp only []; (repeat' split) <;> first | (simp; done) | (rw [foldl_kept] <;> intros <;> simp; done)
@[simp] theorem sendNak_kept (n : Fin 24) (s : State) : (sendNak n s).kept = s.kept := by
  unfold sendNak; simp only []; (repeat' split) <;> first | (simp; done) | (rw [foldl_kept] <;> intros <;> simp; done)
@[simp] theorem countBad_kept (n : Fin 24) (s : State) : (countBad n s).kept = s.kept := by
  simp [countBad]
@[simp] theorem fecNote_kept (n : Fin 24) (f : Flit) (s : State) : (fecNote n f s).kept = s.kept := by
  unfold fecNote; simp only []; (repeat' split) <;> first | (simp; done) | (rw [foldl_kept] <;> intros <;> simp; done)
@[simp] theorem takeFlit_kept (n : Fin 24) (f : Flit) (good : State → State) (s : State)
    (h : ∀ s, (good s).kept = s.kept) : (takeFlit n f good s).kept = s.kept := by
  unfold takeFlit; simp only []; (repeat' split) <;> simp [h]
@[simp] theorem passOn_kept (n : Fin 24) (vc : Nat) (k : Nat) (s : State) : (passOn n vc k s).kept = s.kept := by
  simp [passOn]
@[simp] theorem assemble_kept (n : Fin 24) (f : Flit) (s : State) : (assemble n f s).kept = s.kept := by
  unfold assemble; simp only []; (repeat' split) <;> first | (simp; done) | (rw [foldl_kept] <;> intros <;> simp; done)
@[simp] theorem acceptData_kept (n : Fin 24) (f : Flit) (s : State) : (acceptData n f s).kept = s.kept := by
  simp [acceptData]
@[simp] theorem doReplay_kept (n : Fin 24) (s : State) : (doReplay n s).kept = s.kept := by
  unfold doReplay; simp only []; (repeat' split) <;> first | (simp; done) | (rw [foldl_kept] <;> intros <;> simp; done)
@[simp] theorem rejectPort_kept (n : Fin 24) (s : State) : (rejectPort n s).kept = s.kept := by
  unfold rejectPort; simp only []; (repeat' split) <;> first | (simp; done) | (rw [foldl_kept] <;> intros <;> simp; done)
@[simp] theorem portUp_kept (n : Fin 24) (s : State) : (portUp n s).kept = s.kept := by
  simp [portUp]
@[simp] theorem newPeer_kept (n : Fin 24) (b : List Byte) (s : State) : (newPeer n b s).kept = s.kept := by
  simp [newPeer]
@[simp] theorem helloIn_kept (n : Fin 24) (b : List Byte) (s : State) : (helloIn n b s).kept = s.kept := by
  unfold helloIn; simp only []; (repeat' split) <;> first | (simp; done) | (rw [foldl_kept] <;> intros <;> simp; done)
@[simp] theorem answerProbe_kept (n : Fin 24) (b : List Byte) (s : State) : (answerProbe n b s).kept = s.kept := by
  unfold answerProbe; simp only []; (repeat' split) <;> first | (simp; done) | (rw [foldl_kept] <;> intros <;> simp; done)
@[simp] theorem probeDone_kept (n : Fin 24) (b : List Byte) (s : State) : (probeDone n b s).kept = s.kept := by
  unfold probeDone; simp only []; (repeat' split) <;> first | (simp; done) | (rw [foldl_kept] <;> intros <;> simp; done)
@[simp] theorem pokeTile_kept (t : TileAt) (m : MemSpace) (a : Nat) (b : List Byte) (s : State) : (pokeTile t m a b s).kept = s.kept := by
  simp [pokeTile]
@[simp] theorem objWrite_kept (o : ObjPlace) (off : Nat) (b : List Byte) (s : State) : (objWrite o off b s).kept = s.kept := by
  unfold objWrite
  simp only []
  rw [foldl_kept, foldl_kept] <;> intros <;> (try split) <;> simp
@[simp] theorem landed_kept (s : State) (t : TileAt) (m : MemSpace) (a : Nat) (b : List Byte) : (landed s t m a b).kept = s.kept := by
  simp [landed]
@[simp] theorem ahead_kept (s : State) : (ahead s).kept = s.kept := by
  simp [ahead]
@[simp] theorem checkRuns_kept (r : Reader) (o : ObjPlace) (off : Nat) (n : Nat) (s : State) : (checkRuns r o off n s).kept = s.kept := by
  simp [checkRuns]
@[simp] theorem checkMerged_kept (r : Reader) (o : ObjPlace) (off : Nat) (b : List Byte) (s : State) : (checkMerged r o off b s).kept = s.kept := by
  simp [checkMerged]
@[simp] theorem netObjWrite_kept (u : BitVec 24) (why : NetWhy) (k : Fin 8) (o : ObjPlace) (off : Nat) (b : List Byte) (s : State) : (netObjWrite u why k o off b s).kept = s.kept := by
  simp [netObjWrite]
@[simp] theorem netObjRead_kept (u : BitVec 24) (why : Nat → NetWhy) (k : Fin 8) (o : ObjPlace) (off : Nat) (n : Nat) (s : State) : (netObjRead u why k o off n s).kept = s.kept := by
  simp [netObjRead]
@[simp] theorem badField_kept (d : DescRef) (o : Nat) (s : State) : (badField d o s).kept = s.kept := by
  simp [badField]
@[simp] theorem overField_kept (d : DescRef) (o : Nat) (s : State) : (overField d o s).kept = s.kept := by
  simp [overField]
@[simp] theorem checks_kept (d : DescRef) (l : List Check) (act : State → State) (s : State)
    (h : ∀ s, (act s).kept = s.kept) : (checks d l act s).kept = s.kept := by
  unfold checks; split <;> simp [h]
@[simp] theorem onSlot_kept (x : Desc) (act : Fin 8 → Prog → State → State) (s : State)
    (h : ∀ k g s, (act k g s).kept = s.kept) : (onSlot x act s).kept = s.kept := by
  unfold onSlot; simp only []; (repeat' split) <;> simp [h]
@[simp] theorem updColl_kept (d : DescRef) (f : Coll → Coll) (s : State) : (updColl d f s).kept = s.kept := by
  simp [updColl]
@[simp] theorem withColl_kept (d : DescRef) (act : Coll → State → State) (s : State)
    (h : ∀ c s, (act c s).kept = s.kept) : (withColl d act s).kept = s.kept := by
  unfold withColl; split <;> simp [h]
@[simp] theorem askRange_kept (d : DescRef) (s : State) (r : Nat × Nat × Nat) : (askRange d s r).kept = s.kept := by
  unfold askRange; (try simp only []); (first | apply withColl_kept | apply onSlot_kept | apply toPeer_kept | apply deferOr_kept | apply lowWord_kept | apply checks_kept | apply onCore_kept | apply onObj_kept | apply onRanges_kept | apply checkWith_kept | apply withRead_kept | apply withPkt_kept | apply edgeStart_kept | apply arrive_kept | apply onLink_kept | apply runMgmt_kept | apply runDesc_kept); intros; (try simp only []); (repeat' split) <;> first | (simp; done) | (simp; intros; (repeat' split) <;> simp; done)
@[simp] theorem onRanges_kept (d : DescRef) (l : List (Nat × Nat × Nat)) (act : State → State) (s : State) (h : ∀ s, (act s).kept = s.kept) : (onRanges d l act s).kept = s.kept := by
  simp [onRanges, h]
@[simp] theorem forget_kept (d : DescRef) (s : State) : (forget d s).kept = s.kept := by
  simp [forget]
@[simp] theorem giveElems_kept (c : Coll) (pass2 : Bool) (o : Option ObjPlace) (f : Fmt) (i : Nat) (l : List Nat) (s : State) : (giveElems c pass2 o f i l s).kept = s.kept := by
  unfold giveElems; (repeat' split) <;> simp
@[simp] theorem sendVia_kept (d : DescRef) (k : Nat) (b : List Byte) (s : State) : (sendVia d k b s).kept = s.kept := by
  simp [sendVia]
@[simp] theorem sendSeg_kept (d : DescRef) (kind : Nat) (p : Nat) (st : Nat) (chunk : Nat) (seg : Nat) (f : Fmt) (l : List Nat) (ssum : Nat) (sflag : Bool) (s : State) : (sendSeg d kind p st chunk seg f l ssum sflag s).kept = s.kept := by
  simp [sendSeg]
@[simp] theorem sendChunk_kept (d : DescRef) (kind : Nat) (p : Nat) (st : Nat) (k : Nat) (f : Fmt) (l : List Nat) (s : State) : (sendChunk d kind p st k f l s).kept = s.kept := by
  unfold sendChunk; rw [foldl_kept] <;> intros <;> first | (simp; done) | ((repeat' split) <;> (simp; done))
@[simp] theorem sendSums_kept (d : DescRef) (kind : Nat) (p : Nat) (st : Nat) (k : Nat) (f : Fmt) (l : List Nat) (ops : List (Nat × Nat)) (s : State) : (sendSums d kind p st k f l ops s).kept = s.kept := by
  simp [sendSums]
@[simp] theorem needPost_kept (k : Nat) (s : State) : (needPost k s).kept = s.kept := by
  unfold needPost; (repeat' split) <;> simp
@[simp] theorem shiftMsg_kept (k : Nat) (s : State) : (shiftMsg k s).kept = s.kept := by
  simp [shiftMsg]
@[simp] theorem pass1_kept (d : DescRef) (i : Nat) (l : List Nat) (s : State) : (pass1 d i l s).kept = s.kept := by
  unfold pass1; (try simp only []); (first | apply withColl_kept | apply onSlot_kept | apply toPeer_kept | apply deferOr_kept | apply lowWord_kept | apply checks_kept); intros; (try simp only []); (repeat' split) <;> first | (simp; done) | (simp; intros; (repeat' split) <;> simp; done)
@[simp] theorem trustOf_kept (r : PressRec) (w : Nat) (d : Nat) (s : State) : (trustOf r w d s).2.kept = s.kept := by
  unfold trustOf; simp only []; (repeat' split) <;> first | (simp; done) | (rw [foldl_kept] <;> intros <;> simp; done)
@[simp] theorem takeRecord_kept (d : DescRef) (s : State) : (takeRecord d s).kept = s.kept := by
  unfold takeRecord; (try simp only []); (repeat' split) <;> first | (simp; done) | ((first | apply withColl_kept | apply onSlot_kept | apply toPeer_kept | apply deferOr_kept | apply lowWord_kept | apply checks_kept | apply onCore_kept | apply onObj_kept | apply onRanges_kept | apply checkWith_kept | apply withRead_kept | apply withPkt_kept | apply edgeStart_kept | apply arrive_kept | apply onLink_kept | apply runMgmt_kept | apply runDesc_kept | apply meetMarks_kept | apply meetMark_kept | apply meetSegment_kept | apply eachSlot_kept); intros; (try simp only []); (repeat' split) <;> simp)
@[simp] theorem pass2_kept (d : DescRef) (s : State) : (pass2 d s).kept = s.kept := by
  unfold pass2; (try simp only []); (first | apply withColl_kept | apply onSlot_kept | apply toPeer_kept | apply deferOr_kept | apply lowWord_kept | apply checks_kept | apply onCore_kept | apply onObj_kept | apply onRanges_kept | apply checkWith_kept | apply withRead_kept | apply withPkt_kept | apply edgeStart_kept | apply arrive_kept | apply onLink_kept | apply runMgmt_kept | apply runDesc_kept); intros; (try simp only []); (repeat' split) <;> first | (simp; done) | (simp; intros; (repeat' split) <;> simp; done)
@[simp] theorem giveDst_kept (d : DescRef) (start : Nat) (l : List Nat) (s : State) : (giveDst d start l s).kept = s.kept := by
  simp [giveDst]
@[simp] theorem gatherStart_kept (d : DescRef) (p : Nat) (s : State) : (gatherStart d p s).kept = s.kept := by
  unfold gatherStart; (try simp only []); (first | apply withColl_kept | apply onSlot_kept | apply toPeer_kept | apply deferOr_kept | apply lowWord_kept | apply checks_kept); intros; (try simp only []); (repeat' split) <;> first | (simp; done) | (simp; intros; (repeat' split) <;> simp; done)
@[simp] theorem writeOwn_kept (d : DescRef) (s : State) : (writeOwn d s).kept = s.kept := by
  simp [writeOwn]
@[simp] theorem reduceStart_kept (d : DescRef) (p : Nat) (s : State) : (reduceStart d p s).kept = s.kept := by
  simp [reduceStart]
@[simp] theorem bcastStart_kept (d : DescRef) (p : Nat) (s : State) : (bcastStart d p s).kept = s.kept := by
  unfold bcastStart; (try simp only []); (first | apply withColl_kept | apply onSlot_kept | apply toPeer_kept | apply deferOr_kept | apply lowWord_kept | apply checks_kept); intros; (try simp only []); (repeat' split) <;> first | (simp; done) | (simp; intros; (repeat' split) <;> simp; done)
@[simp] theorem sendNorms_kept (d : DescRef) (p : Nat) (st : Nat) (rank : Nat) (e : DWord × DWord × Bool) (s : State) : (sendNorms d p st rank e s).kept = s.kept := by
  simp [sendNorms]
@[simp] theorem normStart_kept (d : DescRef) (p : Nat) (s : State) : (normStart d p s).kept = s.kept := by
  unfold normStart; (repeat' split) <;> simp
@[simp] theorem phaseStart_kept (d : DescRef) (p : Nat) (s : State) : (phaseStart d p s).kept = s.kept := by
  simp [phaseStart]
@[simp] theorem phaseEnd_kept (d : DescRef) (p : Nat) (s : State) : (phaseEnd d p s).kept = s.kept := by
  simp [phaseEnd]
@[simp] theorem finishColl_kept (d : DescRef) (s : State) : (finishColl d s).kept = s.kept := by
  simp [finishColl]
@[simp] theorem advance_kept (d : DescRef) (n : Nat) : ∀ s : State, (advance d n s).kept = s.kept := by
  induction n with
  | zero => intro s; rfl
  | succ n ih => intro s; unfold advance; (repeat' split) <;> simp [ih]
@[simp] theorem collPeerDown_kept (c : Coll) (peer : Nat) (cause : Nat) (s : State) : (collPeerDown c peer cause s).kept = s.kept := by
  simp [collPeerDown]
@[simp] theorem settleColls_kept (s : State) : (settleColls s).kept = s.kept := by
  unfold settleColls; rw [foldl_kept] <;> intros <;> first | (simp; done) | ((repeat' split) <;> (simp; done))
@[simp] theorem beginColl_kept (c : Coll) (s : State) : (beginColl c s).kept = s.kept := by
  simp [beginColl]
@[simp] theorem startColls_kept (s : State) : (startColls s).kept = s.kept := by
  unfold startColls
  rw [settleColls_kept, foldl_kept]
  intros; (repeat' split) <;> simp
@[simp] theorem acceptColl_kept (c : Coll) (s : State) : (acceptColl c s).kept = s.kept := by
  simp [acceptColl]
@[simp] theorem groupIn_kept (d : DescRef) (b : List Byte) (s : State) : (groupIn d b s).kept = s.kept := by
  unfold groupIn; simp only []; (repeat' split) <;> first | (simp; done) | (rw [foldl_kept] <;> intros <;> simp; done)
@[simp] theorem collStart_kept (x : Desc) (s : State) : (collStart x s).kept = s.kept := by
  simp [collStart]
@[simp] theorem sealFail_kept (c : Coll) (k : Nat) (step : Nat) (count : Bool) (s : State) : (sealFail c k step count s).kept = s.kept := by
  simp [sealFail]
@[simp] theorem meetSegment_kept (c : Coll) (k : Nat) (go : State → State) (s : State) (h : ∀ s, (go s).kept = s.kept) :
    (meetSegment c k go s).kept = s.kept := by
  unfold meetSegment; simp only []
  split
  · exact h s
  · split
    · rw [h, meetMarks_kept]; intros; simp
    · rw [meetMarks_kept]; intros; simp
@[simp] theorem checkSeg_kept (c : Coll) (k : Nat) (b : List Byte) (f : Fmt) (bf : Bool) (n : Nat) (good : State → State)
    (s : State) (h : ∀ s, (good s).kept = s.kept) : (checkSeg c k b f bf n good s).kept = s.kept := by
  unfold checkSeg; refine meetSegment_kept _ _ _ _ fun s => ?_; (repeat' split) <;> simp [h]
@[simp] theorem checkWith_kept (c : Coll) (l : List (Nat × Nat × Nat)) (k : Nat) (b : List Byte) (f : Fmt) (bf : Bool) (n : Nat) (good : State → State) (s : State) (h : ∀ s, (good s).kept = s.kept) : (checkWith c l k b f bf n good s).kept = s.kept := by
  simp [checkWith, h]
@[simp] theorem reduceGood_kept (c : Coll) (st : Nat) (k : Nat) (g : Nat) (i : Nat) (n : Nat) (b : List Byte) (s : State) : (reduceGood c st k g i n b s).kept = s.kept := by
  unfold reduceGood; simp only []; (repeat' split) <;> first | (simp; done) | (rw [foldl_kept] <;> intros <;> simp; done)
@[simp] theorem strayMsg_kept (k : Nat) (s : State) : (strayMsg k s).kept = s.kept := by
  unfold strayMsg; simp only []; (repeat' split) <;> first | (simp; done) | (rw [foldl_kept] <;> intros <;> simp; done)
@[simp] theorem wrongKind_kept (c : Coll) (k : Nat) (b : List Byte) (s : State) : (wrongKind c k b s).kept = s.kept := by
  unfold wrongKind; (repeat' split) <;> simp
@[simp] theorem reduceSeg_kept (k : Nat) (b : List Byte) (s : State) : (reduceSeg k b s).kept = s.kept := by
  unfold reduceSeg; (repeat' split) <;> simp
@[simp] theorem gatherGood_kept (c : Coll) (f : Fmt) (st : Nat) (k : Nat) (g : Nat) (i : Nat) (n : Nat) (b : List Byte) (s : State) : (gatherGood c f st k g i n b s).kept = s.kept := by
  unfold gatherGood; simp only []; (repeat' split) <;> first | (simp; done) | (rw [foldl_kept] <;> intros <;> simp; done)
@[simp] theorem gatherSeg_kept (k : Nat) (b : List Byte) (s : State) : (gatherSeg k b s).kept = s.kept := by
  unfold gatherSeg; (repeat' split) <;> simp
@[simp] theorem normGood_kept (c : Coll) (st : Nat) (q : Nat) (b : List Byte) (s : State) : (normGood c st q b s).kept = s.kept := by
  unfold normGood; (repeat' split) <;> simp
@[simp] theorem normSeg_kept (k : Nat) (b : List Byte) (s : State) : (normSeg k b s).kept = s.kept := by
  unfold normSeg; (repeat' split) <;> simp
@[simp] theorem sealNote_kept (k : Nat) (b : List Byte) (s : State) : (sealNote k b s).kept = s.kept := by
  unfold sealNote; simp only []; (repeat' split) <;> first | (simp; done) | (rw [foldl_kept] <;> intros <;> simp; done)
@[simp] theorem abortIn_kept (k : Nat) (b : List Byte) (s : State) : (abortIn k b s).kept = s.kept := by
  unfold abortIn; simp only []; (repeat' split) <;> first | (simp; done) | (rw [foldl_kept] <;> intros <;> simp; done)
@[simp] theorem goColl_kept (s : State) (c : Coll) : (goColl s c).kept = s.kept := by
  unfold goColl; (try simp only []); (first | apply withColl_kept | apply onSlot_kept | apply toPeer_kept | apply deferOr_kept | apply lowWord_kept | apply checks_kept | apply onCore_kept | apply onObj_kept | apply onRanges_kept | apply checkWith_kept | apply withRead_kept | apply withPkt_kept | apply edgeStart_kept | apply arrive_kept | apply onLink_kept | apply runMgmt_kept | apply runDesc_kept); intros; (try simp only []); (repeat' split) <;> first | (simp; done) | (simp; intros; (repeat' split) <;> simp; done)
@[simp] theorem goColls_kept (s : State) : (goColls s).kept = s.kept := by
  simp [goColls]
@[simp] theorem toPeer_kept (x : Desc) (act : State → State) (s : State)
    (h : ∀ s, (act s).kept = s.kept) : (toPeer x act s).kept = s.kept := by
  unfold toPeer; simp only []; (repeat' split) <;> simp [h]
@[simp] theorem edgeStart_kept (x : Desc) (act : Option (Fin 8 × Prog) → State → State) (s : State)
    (h : ∀ o s, (act o s).kept = s.kept) : (edgeStart x act s).kept = s.kept := by
  unfold edgeStart
  refine checks_kept _ _ _ _ fun s => ?_
  split
  · exact toPeer_kept _ _ _ (h _)
  · exact onSlot_kept _ _ _ fun k g s => checks_kept _ _ _ _ fun s => toPeer_kept _ _ _ (h _)
@[simp] theorem sendBytes_kept (x : Desc) (k : Option (Fin 8 × Prog)) (s : State) : (sendBytes x k s).kept = s.kept := by
  unfold sendBytes; simp only []; (repeat' split) <;> first | (simp; done) | (rw [foldl_kept] <;> intros <;> simp; done)
@[simp] theorem postEdge_kept (x : Desc) (s : State) : (postEdge x s).kept = s.kept := by
  unfold postEdge; simp only []; (repeat' split) <;> first | (simp; done) | (rw [foldl_kept] <;> intros <;> simp; done)
@[simp] theorem pullPkt_kept (n : Fin 24) (i : Nat) (q : EdgePkt) (s : State) : (pullPkt n i q s).kept = s.kept := by
  simp [pullPkt]
@[simp] theorem withPkt_kept (n : Fin 24) (i : Nat) (q : EdgePkt) (act : State → State) (s : State)
    (h : ∀ s, (act s).kept = s.kept) : (withPkt n i q act s).kept = s.kept := by
  unfold withPkt; simp only []; (repeat' split) <;> simp [h]
@[simp] theorem toSink_kept (n : Fin 24) (x : Desc) (off : Nat) (b : List Byte) (s : State) : (toSink n x off b s).kept = s.kept := by
  unfold toSink; (repeat' split) <;> simp
@[simp] theorem recvEnd_kept (d : DescRef) (detail : Nat) (s : State) : (recvEnd d detail s).kept = s.kept := by
  simp [recvEnd]
@[simp] theorem msgDone_kept (r : RxPost) (abort : Bool) (s : State) : (msgDone r abort s).kept = s.kept := by
  unfold msgDone; (repeat' split) <;> simp
@[simp] theorem collWhole_kept (k : Nat) (r : RxPost) (s : State) : (collWhole k r s).kept = s.kept := by
  unfold collWhole; simp only []; (repeat' split) <;> first | (simp; done) | (rw [foldl_kept] <;> intros <;> simp; done)
@[simp] theorem toWorkHub_kept (n : Fin 24) (k : Nat) (r : RxPost) (s : State) : (toWorkHub n k r s).kept = s.kept := by
  unfold toWorkHub; (repeat' split) <;> simp
@[simp] theorem deliver_kept (n : Fin 24) (q : EdgePkt) (r : RxPost) (s : State) : (deliver n q r s).kept = s.kept := by
  unfold deliver; (repeat' split) <;> simp
@[simp] theorem msgPkt_kept (n : Fin 24) (q : EdgePkt) (s : State) : (msgPkt n q s).kept = s.kept := by
  unfold msgPkt; simp only []; (repeat' split) <;> first | (simp; done) | (rw [foldl_kept] <;> intros <;> simp; done)
@[simp] theorem endSends_kept (k : Nat) (s : State) : (endSends k s).kept = s.kept := by
  unfold endSends; rw [foldl_kept] <;> intros <;> first | (simp; done) | ((repeat' split) <;> (simp; done))
@[simp] theorem tackIn_kept (q : EdgePkt) (s : State) : (tackIn q s).kept = s.kept := by
  unfold tackIn; simp only []; (repeat' split) <;> first | (simp; done) | (rw [foldl_kept] <;> intros <;> simp; done)
@[simp] theorem losePeer_kept (peer : Nat) (cause : Nat) (s : State) : (losePeer peer cause s).kept = s.kept := by
  simp [losePeer]
@[simp] theorem peerDownWork_kept (x : Desc) (s : State) : (peerDownWork x s).kept = s.kept := by
  unfold peerDownWork; simp only []; (repeat' split) <;> first | (simp; done) | (rw [foldl_kept] <;> intros <;> simp; done)
@[simp] theorem reopenPeer_kept (p : Nat) (inc : Nat) (s : State) : (reopenPeer p inc s).kept = s.kept := by
  simp [reopenPeer]
@[simp] theorem peerUpWork_kept (x : Desc) (s : State) : (peerUpWork x s).kept = s.kept := by
  unfold peerUpWork; simp only []; (repeat' split) <;> first | (simp; done) | (rw [foldl_kept] <;> intros <;> simp; done)
@[simp] theorem makeReport_kept (k : Fin 8) (s : State) : (makeReport k s).kept = s.kept := by
  simp [makeReport]
@[simp] theorem renewReport_kept (k : Fin 8) (s : State) : (renewReport k s).kept = s.kept := by
  simp [renewReport]
@[simp] theorem toBuf_kept (x : Desc) (b : List Byte) (s : State) : (toBuf x b s).kept = s.kept := by
  simp [toBuf]
@[simp] theorem writeReport_kept (x : Desc) (g : Prog) (s : State) : (writeReport x g s).2.kept = s.kept := by
  simp [writeReport]
@[simp] theorem buildRun_kept (o : ObjPlace) (s : State) (e : TileAt × MemSpace × Nat × Nat × Nat) : (buildRun o s e).kept = s.kept := by
  simp [buildRun]
@[simp] theorem buildRec_kept (k : Mask) (xs : List RowSplit) (s : State) (e : TileAt × MemSpace × Nat × Nat × Nat × Nat) : (buildRec k xs s e).kept = s.kept := by
  unfold buildRec; (repeat' split) <;> simp
@[simp] theorem buildTrans_kept (m : Img) (p : Placement) (restricted : Bool) (s : State) : (buildTrans m p restricted s).kept = s.kept := by
  simp [buildTrans]
@[simp] theorem placeNext_kept (s : State) : (placeNext s).kept = s.kept := by
  unfold placeNext; (repeat' split) <;> simp
@[simp] theorem endPlacing_kept (p : Placing) (s : State) : (endPlacing p s).kept = s.kept := by
  simp [endPlacing]
@[simp] theorem reserveArea_kept (a : Area) (n : Nat) (b : List Byte) (s : State) : (reserveArea a n b s).kept = s.kept := by
  simp [reserveArea]
@[simp] theorem keepImage_kept (k : Fin 8) (image : List Byte) (s : State) : (keepImage k image s).kept = s.kept := by
  simp [keepImage]
@[simp] theorem startProg_kept (k : Fin 8) (x : Desc) (image : List Byte) (p : Placement) (s : State) : (startProg k x image p s).kept = s.kept := by
  simp [startProg]
@[simp] theorem loadStarted_kept (s : State) (k : Fin 8) : (loadStarted s k).kept = s.kept := by
  unfold loadStarted; simp only []; (repeat' split) <;> first | (simp; done) | (rw [foldl_kept] <;> intros <;> simp; done)
@[simp] theorem tick_kept (s : State) : (tick s).kept = s.kept := by
  simp [tick]
@[simp] theorem failPlace_kept (d : DescRef) (reason : Nat) (index : Nat) (s : State) : (failPlace d reason index s).kept = s.kept := by
  simp [failPlace]
@[simp] theorem loadPlaced_kept (p : Placing) (d : DescRef) (r : PlaceResult) (s : State) : (loadPlaced p d r s).kept = s.kept := by
  unfold loadPlaced; (repeat' split) <;> simp
@[simp] theorem readImage_kept (x : Desc) (k : Fin 8) (s : State) : (readImage x k s).kept = s.kept := by
  simp [readImage]
@[simp] theorem dropPlacing_kept (d : DescRef) (s : State) : (dropPlacing d s).kept = s.kept := by
  unfold dropPlacing; (repeat' split) <;> simp
@[simp] theorem imageIn_kept (x : Desc) (b : List Byte) (s : State) : (imageIn x b s).kept = s.kept := by
  unfold imageIn; (repeat' split) <;> simp
@[simp] theorem plotsIn_kept (x : Desc) (b : List Byte) (s : State) : (plotsIn x b s).kept = s.kept := by
  simp [plotsIn]
@[simp] theorem beginBarrier_kept (k : Fin 8) (kind : BarKind) (d : Option DescRef) (evac : List (Fin 12)) (place : Option Placement) (s : State) : (beginBarrier k kind d evac place s).kept = s.kept := by
  simp [beginBarrier]
@[simp] theorem acceptBarrier_kept (x : Desc) (k : Fin 8) (s : State) : (acceptBarrier x k s).kept = s.kept := by
  unfold acceptBarrier; (repeat' split) <;> simp
@[simp] theorem nextBarrier_kept (k : Fin 8) (s : State) : (nextBarrier k s).kept = s.kept := by
  unfold nextBarrier; simp only []; (repeat' split) <;> first | (simp; done) | ((first | apply withColl_kept | apply onSlot_kept | apply toPeer_kept | apply deferOr_kept | apply lowWord_kept | apply checks_kept); intros; (try simp only []); (repeat' split) <;> simp)
@[simp] theorem reconfigIn_kept (x : Desc) (k : Fin 8) (s : State) : (reconfigIn x k s).kept = s.kept := by
  unfold reconfigIn; (repeat' split) <;> simp
@[simp] theorem removed_kept (ps : Fin 8) (b : Barrier) (n : Nat) (s : State) : (removed ps b n s).kept = s.kept := by
  unfold removed; (try simp only []); (repeat' split) <;> first | (simp; done) | (simp; intros; (repeat' split) <;> simp; done)
@[simp] theorem rewrite_kept (k : Fin 8) (g : Prog) (p : Placement) (lines : Bool) (s : State) : (rewrite k g p lines s).kept = s.kept := by
  simp [rewrite]
@[simp] theorem foldInexact_kept (k : Fin 8) (s : State) : (foldInexact k s).kept = s.kept := by
  simp [foldInexact]
@[simp] theorem thawLinks_kept (k : Fin 8) (g : Prog) (b : Barrier) (s : State) : (thawLinks k g b s).kept = s.kept := by
  simp [thawLinks]
@[simp] theorem stopProg_kept (k : Fin 8) (reason : Nat) (s : State) : (stopProg k reason s).kept = s.kept := by
  simp [stopProg]
@[simp] theorem evacPlaced_kept (p : Placing) (q : Fin 12) (r : PlaceResult) (s : State) : (evacPlaced p q r s).kept = s.kept := by
  unfold evacPlaced; (repeat' split) <;> simp
@[simp] theorem reconfigPlaced_kept (p : Placing) (d : DescRef) (r : PlaceResult) (s : State) : (reconfigPlaced p d r s).kept = s.kept := by
  unfold reconfigPlaced; (repeat' split) <;> simp
@[simp] theorem placeEnd_kept (r : PlaceResult) (s : State) : (placeEnd r s).kept = s.kept := by
  unfold placeEnd; (repeat' split) <;> simp
@[simp] theorem commit_kept (p : Placing) (r : PlaceResult) (s : State) : (commit p r s).kept = s.kept := by
  unfold commit; (repeat' split) <;> simp
theorem remember_kept {k : JarborIn} {r : PlaceResult} {s t : State} (h : remember k r s = some t) : t.kept = s.kept := by
  unfold remember at h
  (repeat' split at h) <;> first | (cases h; rfl) | (cases h; done)
@[simp] theorem placementEnds_kept (r : PlaceResult) (s : State) : (placementEnds r s).kept = s.kept := by
  unfold placementEnds
  (repeat' split) <;> first | (simp; done) | simp [remember_kept ‹_›]
@[simp] theorem pressIn_kept (d : DescRef) (b : List Byte) (s : State) : (pressIn d b s).kept = s.kept := by
  unfold pressIn; simp only []; (repeat' split) <;> first | (simp; done) | ((first | apply withColl_kept | apply onSlot_kept | apply toPeer_kept | apply deferOr_kept | apply lowWord_kept | apply checks_kept); intros; (try simp only []); (repeat' split) <;> simp)
@[simp] theorem xferStart_kept (x : Desc) (s : State) : (xferStart x s).kept = s.kept := by
  unfold xferStart; apply onSlot_kept; intros; apply checks_kept; intros; (repeat' split) <;> first | rfl | (simp; done) | (simp only [finishXfer_kept, pumpOut_kept, fillSlot_kept]; rw [meetMarks_kept] <;> intros <;> first | (simp; done) | (split <;> simp))
@[simp] theorem onCore_kept (x : Desc) (act : Fin 8 → TileAt → State → State) (s : State)
    (h : ∀ k t s, (act k t s).kept = s.kept) : (onCore x act s).kept = s.kept := by
  unfold onCore
  exact onSlot_kept _ _ _ fun k g s => checks_kept _ _ _ _ fun s => by split <;> simp [h]
@[simp] theorem memIn_kept (x : Desc) (b : List Byte) (s : State) : (memIn x b s).kept = s.kept := by
  simp [memIn]
@[simp] theorem onObj_kept (x : Desc) (act : Fin 8 → ObjPlace → State → State) (s : State)
    (h : ∀ k o s, (act k o s).kept = s.kept) : (onObj x act s).kept = s.kept := by
  unfold onObj
  exact onSlot_kept _ _ _ fun k g s => checks_kept _ _ _ _ fun s => by split <;> simp [h]
@[simp] theorem objIn_kept (x : Desc) (b : List Byte) (s : State) : (objIn x b s).kept = s.kept := by
  simp [objIn]
@[simp] theorem haltProg_kept (k : Fin 8) (g : Prog) (s : State) : (haltProg k g s).kept = s.kept := by
  simp [haltProg]
@[simp] theorem hubOpened_kept (h : Nat) (s : State) : (hubOpened h s).kept = s.kept := by
  simp [hubOpened]
@[simp] theorem openDom_kept (c : Nat) (s : State) : (openDom c s).kept = s.kept := by
  unfold openDom; (repeat' split) <;> simp
@[simp] theorem initRec_kept (c : Nat) (s : State) : (initRec c s).2.kept = s.kept := by
  simp [initRec]
@[simp] theorem failDom_kept (c : Nat) (s : State) : (failDom c s).kept = s.kept := by
  unfold failDom; (repeat' split) <;> simp
@[simp] theorem tryOpen_kept (c : Nat) (ok : Bool) (s : State) : (tryOpen c ok s).kept = s.kept := by
  unfold tryOpen; (repeat' split) <;> simp
@[simp] theorem ask_kept (x : Desc) (c : Nat) (reopening : Bool) (s : State) : (ask x c reopening s).kept = s.kept := by
  simp [ask]
@[simp] theorem pendReopen_kept (x : Desc) (c : Nat) (s : State) : (pendReopen x c s).kept = s.kept := by
  simp [pendReopen]
@[simp] theorem ctlEnable_kept (x : Desc) (c : Nat) (s : State) : (ctlEnable x c s).kept = s.kept := by
  unfold ctlEnable; simp only []; (repeat' split) <;> first | (simp; done) | ((first | apply withColl_kept | apply onSlot_kept | apply toPeer_kept | apply deferOr_kept | apply lowWord_kept | apply checks_kept); intros; (try simp only []); (repeat' split) <;> simp)
@[simp] theorem ctlFence_kept (x : Desc) (c : Nat) (reopen : Bool) (s : State) : (ctlFence x c reopen s).kept = s.kept := by
  unfold ctlFence; (repeat' split) <;> simp
@[simp] theorem ctlResetUnit_kept (x : Desc) (c : Nat) (s : State) : (ctlResetUnit x c s).kept = s.kept := by
  unfold ctlResetUnit; (repeat' split) <;> simp
@[simp] theorem ctlDisableUnit_kept (x : Desc) (c : Nat) (s : State) : (ctlDisableUnit x c s).kept = s.kept := by
  unfold ctlDisableUnit; (repeat' split) <;> simp
@[simp] theorem ctlProg_kept (x : Desc) (c : Nat) (s : State) : (ctlProg x c s).kept = s.kept := by
  unfold ctlProg; (repeat' split) <;> simp
@[simp] theorem ctlHostif_kept (x : Desc) (s : State) : (ctlHostif x s).kept = s.kept := by
  simp [ctlHostif]
@[simp] theorem ctlMgmt_kept (x : Desc) (s : State) : (ctlMgmt x s).kept = s.kept := by
  simp [ctlMgmt]
@[simp] theorem ctlStop_kept (x : Desc) (p : Fin 12) (s : State) : (ctlStop x p s).kept = s.kept := by
  simp [ctlStop]
@[simp] theorem ctlEvac_kept (x : Desc) (p : Fin 12) (s : State) : (ctlEvac x p s).kept = s.kept := by
  simp [ctlEvac]
@[simp] theorem armWatch_kept (x : Desc) (s : State) : (armWatch x s).kept = s.kept := by
  simp [armWatch]
@[simp] theorem watchAgain_kept (key : Nat) (s : State) : (watchAgain key s).kept = s.kept := by
  simp [watchAgain]
@[simp] theorem hostifReset_kept (rseq : Nat) (s : State) : (hostifReset rseq s).kept = s.kept := by
  unfold hostifReset; (repeat' split) <;> simp
@[simp] theorem watchReset_kept (c : Nat) (rseq : Nat) (s : State) : (watchReset c rseq s).kept = s.kept := by
  unfold watchReset; (repeat' split) <;> simp
@[simp] theorem firmwareIn_kept (x : Desc) (b : List Byte) (s : State) : (firmwareIn x b s).kept = s.kept := by
  unfold firmwareIn; (repeat' split) <;> simp
@[simp] theorem chainIn_kept (x : Desc) (b : List Byte) (s : State) : (chainIn x b s).kept = s.kept := by
  unfold chainIn; (repeat' split) <;> simp
@[simp] theorem doeAnswer_kept (status : Nat) (b : List Byte) (s : State) : (doeAnswer status b s).kept = s.kept := by
  simp [doeAnswer]
@[simp] theorem secEvent_kept (cls : Nat) (low : Nat) (s : State) : (secEvent cls low s).kept = s.kept := by
  simp [secEvent]
@[simp] theorem isolateDie_kept (d : Fin 8) (n : Nat) (s : State) : (isolateDie d n s).kept = s.kept := by
  simp [isolateDie]
@[simp] theorem useSection_kept (s : State) (e : Nat × List Byte) : (useSection s e).kept = s.kept := by
  unfold useSection; (repeat' split) <;> simp
@[simp] theorem setRatings_kept (p : Nat) (f : Nat → Nat) (s : State) : (setRatings p f s).kept = s.kept := by
  exact pwr_kept s _
@[simp] theorem rateParcel_kept (p : Fin 12) (trim : Nat) (hot : Nat) (f : Nat → Nat) (s : State) : (rateParcel p trim hot f s).kept = s.kept := by
  simp [rateParcel]
@[simp] theorem blockIn_kept (x : Desc) (b : List Byte) (s : State) : (blockIn x b s).kept = s.kept := by
  simp [blockIn]
@[simp] theorem tmuxDrive_kept (s : State) : (tmuxDrive s).kept = s.kept := by
  simp [tmuxDrive]
@[simp] theorem tmuxCtl_kept (v : Nat) (s : State) : (tmuxCtl v s).kept = s.kept := by
  simp [tmuxCtl]
@[simp] theorem tmuxSel_kept (n : Fin 16) (v : Nat) (s : State) : (tmuxSel n v s).kept = s.kept := by
  simp [tmuxSel]
@[simp] theorem deferOr_kept (off : Nat) (f : Nat → State → State) (v : Nat) (s : State)
    (h : ∀ v s, (f v s).kept = s.kept) : (deferOr off f v s).kept = s.kept := by
  unfold deferOr; split <;> simp [h]
@[simp] theorem logBuffered_kept (s : State) (e : ErrRec × List Nat) : (logBuffered s e).kept = s.kept := by
  simp [logBuffered]
@[simp] theorem flushLog_kept (s : State) : (flushLog s).kept = s.kept := by
  simp [flushLog]
theorem carried_kept (off : Nat) (f : Nat → State → State) (h : carried off = some f) (v : Nat) (s : State) :
    (f v s).kept = s.kept := by
  unfold carried at h
  (repeat' split at h) <;> first | (cases h; simp; done) | (simp at h; done)
@[simp] theorem applyDeferred_kept (s : State) : (applyDeferred s).kept = s.kept := by
  unfold applyDeferred
  simp only []
  rw [foldl_kept]
  · rfl
  · intro s e
    split
    · exact carried_kept _ _ ‹_› _ _
    · rfl
@[simp] theorem takeUp_kept (s : State) : (takeUp s).kept = s.kept := by
  simp [takeUp]
@[simp] theorem coldReset_kept (warm : Bool) (s : State) : (coldReset warm s).kept = s.kept := by
  simp [coldReset]
@[simp] theorem addRepair_kept (s : State) (e : Nat × Nat × Nat × Nat) : (addRepair s e).kept = s.kept := by
  unfold addRepair; (repeat' split) <;> simp
@[simp] theorem mapCulls_kept (s : State) : (mapCulls s).kept = s.kept := by
  simp [mapCulls]
@[simp] theorem bypassCulls_kept (s : State) : (bypassCulls s).kept = s.kept := by
  simp [bypassCulls]
@[simp] theorem addXmap_kept (l : List Nat) (s : State) : (addXmap l s).kept = s.kept := by
  unfold addXmap; (repeat' split) <;> simp
@[simp] theorem rateFound_kept (s : State) (e : Fin 12 × Nat × List (List Nat)) : (rateFound s e).kept = s.kept := by
  simp [rateFound]
@[simp] theorem railsOn_kept (p : Fin 12) (s : State) : (railsOn p s).kept = s.kept := by
  unfold railsOn; (repeat' split) <;> simp
@[simp] theorem pllLock_kept (p : Fin 12) (s : State) : (pllLock p s).kept = s.kept := by
  simp [pllLock]
@[simp] theorem parcelOn_kept (s : State) (p : Fin 12) : (parcelOn s p).kept = s.kept := by
  simp [parcelOn]
@[simp] theorem parcelOff_kept (s : State) (p : Fin 12) : (parcelOff s p).kept = s.kept := by
  simp [parcelOff]
@[simp] theorem useBlock_kept (s : State) : (useBlock s).kept = s.kept := by
  simp [useBlock]
@[simp] theorem endStage1_kept (f : StageFound) (s : State) : (endStage1 f s).kept = s.kept := by
  unfold endStage1; (try simp only []); (repeat' split) <;> first | (simp; done) | (simp; intros; (repeat' split) <;> simp; done)
@[simp] theorem endStage2_kept (f : StageFound) (s : State) : (endStage2 f s).kept = s.kept := by
  simp [endStage2]
@[simp] theorem endStage3_kept (f : StageFound) (s : State) : (endStage3 f s).kept = s.kept := by
  simp [endStage3]
@[simp] theorem endStage4_kept (s : State) : (endStage4 s).kept = s.kept := by
  unfold endStage4; (repeat' split) <;> simp
@[simp] theorem answerTopo_kept (cs : List Nat) (s : State) : (answerTopo cs s).kept = s.kept := by
  simp [answerTopo]
@[simp] theorem rejectPorts_kept (s : State) : (rejectPorts s).kept = s.kept := by
  unfold rejectPorts; (repeat' split) <;> simp
@[simp] theorem takeRatings_kept (all : Bool) (f : StageFound) (s : State) : (takeRatings all f s).kept = s.kept := by
  unfold takeRatings; (repeat' split) <;> simp
@[simp] theorem headlands_kept (here : TileAt → Bool) (s : State) : (headlands here s).kept = s.kept := by
  simp [headlands]
@[simp] theorem reserveAll_kept (s : State) : (reserveAll s).kept = s.kept := by
  simp [reserveAll]
@[simp] theorem poolReady_kept (s : State) : (poolReady s).kept = s.kept := by
  simp [poolReady]
@[simp] theorem readmitStart_kept (x : Desc) (s : State) : (readmitStart x s).kept = s.kept := by
  unfold readmitStart; simp only []; (repeat' split) <;> first | (simp; done) | ((first | apply withColl_kept | apply onSlot_kept | apply toPeer_kept | apply deferOr_kept | apply lowWord_kept | apply checks_kept); intros; (try simp only []); (repeat' split) <;> simp)
@[simp] theorem readmitEnd_kept (r : Readmit) (inServ : Bool) (stage : Nat) (s : State) : (readmitEnd r inServ stage s).kept = s.kept := by
  simp [readmitEnd]
@[simp] theorem readmitFail_kept (r : Readmit) (s : State) : (readmitFail r s).kept = s.kept := by
  unfold readmitFail; (repeat' split) <;> simp
@[simp] theorem uncull_kept (l : List (Nat × Nat × Nat)) (s : State) : (uncull l s).kept = s.kept := by
  unfold uncull; (repeat' split) <;> simp
@[simp] theorem scrubSlab_kept (s : State) (t : TileAt) : (scrubSlab s t).kept = s.kept := by
  simp [scrubSlab]
@[simp] theorem zeroParcel_kept (p : Fin 12) (s : State) : (zeroParcel p s).kept = s.kept := by
  simp [zeroParcel]
@[simp] theorem readmitParcel_kept (r : Readmit) (s : State) : (readmitParcel r s).kept = s.kept := by
  simp [readmitParcel]
@[simp] theorem readmitWork_kept (r : Readmit) (f : StageFound) (s : State) : (readmitWork r f s).kept = s.kept := by
  unfold readmitWork; (repeat' split) <;> simp
@[simp] theorem setReadmit_kept (r : Readmit) (s : State) : (setReadmit r s).kept = s.kept := by
  simp [setReadmit]
@[simp] theorem setCeil_kept (c : Nat) (s : State) : (setCeil c s).kept = s.kept := by
  simp [setCeil]
@[simp] theorem setFlowEn_kept (en : Bool) (s : State) : (setFlowEn en s).kept = s.kept := by
  simp [setFlowEn]
@[simp] theorem opCtl_kept (v : Nat) (s : State) : (opCtl v s).kept = s.kept := by
  simp [opCtl]
@[simp] theorem alertStat_kept (v : Nat) (s : State) : (alertStat v s).kept = s.kept := by
  simp [alertStat]
@[simp] theorem sqBase_kept (p : Fin 64) (lo : Option Nat) (hi : Option Nat) (s : State) : (sqBase p lo hi s).kept = s.kept := by
  unfold sqBase; (repeat' split) <;> simp
@[simp] theorem cqBase_kept (p : Fin 64) (lo : Option Nat) (hi : Option Nat) (s : State) : (cqBase p lo hi s).kept = s.kept := by
  unfold cqBase; (repeat' split) <;> simp
@[simp] theorem msixMask_kept (v : Fin 64) (m : Bool) (s : State) : (msixMask v m s).kept = s.kept := by
  unfold msixMask; (repeat' split) <;> simp
@[simp] theorem msixWrite_kept (at_ : Nat) (lo : Option Nat) (hi : Option Nat) (s : State) : (msixWrite at_ lo hi s).kept = s.kept := by
  unfold msixWrite; simp only []; (repeat' split) <;> first | (simp; done) | ((first | apply withColl_kept | apply onSlot_kept | apply toPeer_kept | apply deferOr_kept | apply lowWord_kept | apply checks_kept); intros; (try simp only []); (repeat' split) <;> simp)
@[simp] theorem lowWord_kept (lo : Option Nat) (f : Nat → State → State) (s : State)
    (h : ∀ v s, (f v s).kept = s.kept) : (lowWord lo f s).kept = s.kept := by
  unfold lowWord; split <;> simp [h]
@[simp] theorem hostifPut_kept (a : Nat) (lo : Option Nat) (hi : Option Nat) (s : State) : (hostifPut a lo hi s).kept = s.kept := by
  unfold hostifPut; simp only []; (repeat' split) <;> first | (simp; done) | ((first | apply withColl_kept | apply onSlot_kept | apply toPeer_kept | apply deferOr_kept | apply lowWord_kept | apply checks_kept); intros; (try simp only []); (repeat' split) <;> simp)
@[simp] theorem ringPut_kept (a : Nat) (lo : Option Nat) (hi : Option Nat) (s : State) : (ringPut a lo hi s).kept = s.kept := by
  unfold ringPut; (repeat' split) <;> simp
@[simp] theorem pwrPut_kept (a : Nat) (lo : Option Nat) (hi : Option Nat) (s : State) : (pwrPut a lo hi s).kept = s.kept := by
  unfold pwrPut; simp only []; (repeat' split) <;> first | (simp; done) | ((first | apply withColl_kept | apply onSlot_kept | apply toPeer_kept | apply deferOr_kept | apply lowWord_kept | apply checks_kept); intros; (try simp only []); (repeat' split) <;> simp)
@[simp] theorem bar0Put_kept (base : Nat) (lo hi : Option Nat) (s : State) : (bar0Put base lo hi s).kept = s.kept := by
  unfold bar0Put
  split
  · simp
  · simp
  · simp
  · split
    · split
      · exact deferOr_kept _ _ _ _ (carried_kept _ _ ‹_›)
      · rfl
    · rfl
@[simp] theorem tryStaged_kept (s : State) : (tryStaged s).kept = s.kept := by
  unfold tryStaged; (repeat' split) <;> simp
@[simp] theorem mgmtOpen_kept (s : State) : (mgmtOpen s).kept = s.kept := by
  simp [mgmtOpen]
@[simp] theorem selectBypass_kept (s : State) : (selectBypass s).kept = s.kept := by
  simp [selectBypass]
@[simp] theorem streamIn_kept (x : Desc) (b : List Byte) (s : State) : (streamIn x b s).kept = s.kept := by
  unfold streamIn; (repeat' split) <;> simp
@[simp] theorem loadIn_kept (x : Desc) (image : Bool) (b : List Byte) (s : State) : (loadIn x image b s).kept = s.kept := by
  unfold loadIn; (repeat' split) <;> simp
@[simp] theorem hostFail_kept (x : Desc) (status : Nat) (detail : Nat) (s : State) : (hostFail x status detail s).kept = s.kept := by
  simp [hostFail]
@[simp] theorem hostError_kept (x : Desc) (why : Why) (len : Nat) (s : State) : (hostError x why len s).kept = s.kept := by
  unfold hostError
  (repeat' split) <;> simp_all [hostDeliver]
@[simp] theorem withRead_kept (tag : Nat) (act : Desc → HostReq → State → State) (s : State)
    (h : ∀ x r s, (act x r s).kept = s.kept) : (withRead tag act s).kept = s.kept := by
  unfold withRead; simp only []; (repeat' split) <;> simp [h]

/-! ## Fuses move forward (R491, R494) -/

/-- The fuses only move forward from one state to the other, and the queue and the fused names stay (R491). -/
theorem forward_refl (s : State) : Forward s s := ⟨rfl, rfl, rfl, rfl, Nat.le_refl _, BitVec.and_self⟩

theorem forward_of_kept {s t : State} (h : t.kept = s.kept) : Forward s t := by
  simp only [State.kept, Prod.mk.injEq] at h
  obtain ⟨h1, h2, h3, h4, h5, h6, h7, h8, h9⟩ := h
  exact ⟨h1, h2, h5, by simp only [h6, h7, h8, h9], Nat.le_of_eq h4.symm, by rw [h3]; exact BitVec.and_self⟩

theorem forward_trans {s t u : State} (h : Forward s t) (k : Forward t u) : Forward s u := by
  obtain ⟨a1, a2, a3, a4, a5, a6⟩ := h
  obtain ⟨b1, b2, b3, b4, b5, b6⟩ := k
  refine ⟨b1.trans a1, b2.trans a2, b3.trans a3, b4.trans a4, Nat.le_trans a5 b5, ?_⟩
  rw [← a6, BitVec.and_assoc, b6]

theorem forward_ite {s a b : State} {c : Prop} [Decidable c] (ha : Forward s a) (hb : Forward s b) :
    Forward s (if c then a else b) := by split <;> assumption

theorem forward_foldl {α : Type} (f : State → α → State) (h : ∀ s a, Forward s (f s a)) (l : List α) :
    ∀ s, Forward s (l.foldl f s) := by
  induction l with
  | nil => intro s; exact forward_refl s
  | cons a t ih => intro s; exact forward_trans (h s a) (ih (f s a))

theorem moveFuses_forward (s : State) : Forward s (moveFuses s) := by
  unfold moveFuses
  split
  · exact forward_refl s
  · rename_i f _
    refine forward_trans (t := if s.sec.counter < f.arb then secEvent 3 f.arb { s with sec := { s.sec with counter := f.arb } } else s) ?_
      (forward_foldl _ (fun s k => ?_) _ _)
    · split
      · refine forward_trans (t := { s with sec := { s.sec with counter := f.arb } }) ?_ (forward_of_kept (by simp))
        exact ⟨rfl, rfl, rfl, rfl, Nat.le_of_lt ‹_›, BitVec.and_self⟩
      · exact forward_refl s
    · split
      · refine forward_trans (t := { s with sec := { s.sec with revoked := s.sec.revoked ||| (1#4 <<< k) } }) ?_ (forward_of_kept (by simp))
        refine ⟨rfl, rfl, rfl, rfl, Nat.le_refl _, ?_⟩
        generalize (1#4 <<< k) = m
        generalize s.sec.revoked = r
        show r &&& (r ||| m) = r
        ext i
        simp; intro h; exact Or.inl h
      · exact forward_refl s

theorem readyNow_forward (s : State) : Forward s (readyNow s) := by
  unfold readyNow
  split
  · exact forward_trans (forward_of_kept (by simp)) (moveFuses_forward _)
  · exact forward_refl s

theorem classify_forward (s : State) : Forward s (classify s) := by
  unfold classify
  simp only []
  split
  · exact forward_trans (t := readyNow { s with boot := { s.boot with wait := 0 } })
      (forward_trans (t := { s with boot := { s.boot with wait := 0 } }) (forward_of_kept rfl) (readyNow_forward _))
      (forward_of_kept (by simp))
  · exact forward_of_kept (by simp)

theorem tryTopo_forward (s : State) : Forward s (tryTopo s) := by
  unfold tryTopo
  split
  · exact forward_of_kept (by simp)
  · split
    · exact classify_forward s
    · split <;> exact forward_of_kept (by simp)

theorem beginStage7_forward (s : State) : Forward s (beginStage7 s) :=
  forward_trans (t := { s with boot := { s.boot with stage := 7, wait := 0 } }) (forward_of_kept rfl) (tryTopo_forward _)

theorem endStage5_forward (f : StageFound) (s : State) : Forward s (endStage5 f s) := by
  unfold endStage5
  split
  · exact forward_trans (forward_of_kept (by simp)) (beginStage7_forward _)
  · exact forward_of_kept (by simp)

theorem endStage6_forward (f : StageFound) (s : State) : Forward s (endStage6 f s) := by
  unfold endStage6
  exact forward_trans (forward_of_kept (by simp)) (beginStage7_forward _)

theorem topologyIn_forward (x : Desc) (b : List Byte) (s : State) : Forward s (topologyIn x b s) := by
  unfold topologyIn
  simp only []
  split
  · exact forward_of_kept (by simp)
  · split
    · exact forward_of_kept (by simp)
    · split
      · exact forward_trans (forward_of_kept (by simp)) (tryTopo_forward _)
      · exact forward_of_kept (by simp)

theorem hostDeliver_forward (x : Desc) (why : Why) (b : List Byte) (s : State) : Forward s (hostDeliver x why b s) := by
  unfold hostDeliver
  split <;> first | exact topologyIn_forward _ _ _ | exact forward_of_kept (by simp)

theorem hostPoison_forward (x : Desc) (why : Why) (b : List Byte) (s : State) : Forward s (hostPoison x why b s) := by
  unfold hostPoison
  split
  · exact forward_trans (forward_of_kept (by simp)) (hostDeliver_forward _ _ _ _)
  · exact forward_of_kept (by simp)

theorem withRead_forward (tag : Nat) (act : Desc → HostReq → State → State) (s : State)
    (h : ∀ x r s, Forward s (act x r s)) : Forward s (withRead tag act s) := by
  unfold withRead
  split
  · exact forward_refl s
  · simp only []
    split
    · split <;> exact forward_of_kept (by simp)
    · split
      · exact forward_of_kept rfl
      · exact forward_trans (t := { s with hostif := { s.hostif with reads := s.hostif.reads.filter fun q => q.tag != tag } })
          (forward_of_kept rfl) (h _ _ _)

end Sys2Proof.Machine
end

