-- ==== Sys2Proof/Laws/KeptRows.lean ====
section
/-! SUPPORT. Every command has a next state, and none changes the queue, the fuses or the fused names but those that may move fuses
forward: one lemma for each meaning. -/

namespace Sys2Proof.Machine

@[simp] theorem nextKept_next (s t : State) : NextKept s (.next t) ↔ t.kept = s.kept := Iff.rfl
theorem nextKept_self (s : State) : NextKept s (.next s) := rfl
theorem nextKept_ite {s : State} {a b : Res} {c : Prop} [Decidable c] (ha : NextKept s a) (hb : NextKept s b) :
    NextKept s (if c then a else b) := by split <;> assumption

@[simp] theorem narrowLoad_kept (i : Instr) (kind : LoadKind) (k : TaskAt) (g : Guard) (gv : BitVec 4) (gb : BitVec 4) (off : BitVec 14) (s : State) : NextKept s (narrowLoad i kind k g gv gb off s) := by
  simp [narrowLoad]
@[simp] theorem narrowStore_kept (i : Instr) (n : Nat) (k : TaskAt) (g : Guard) (gv : BitVec 4) (gb : BitVec 4) (off : BitVec 14) (s : State) : NextKept s (narrowStore i n k g gv gb off s) := by
  simp [narrowStore]
@[simp] theorem execLdw_kept (k : TaskAt) (g : Guard) (gv : BitVec 4) (gb : BitVec 4) (off : BitVec 14) (s : State) : NextKept s (execLdw k g gv gb off s) := by
  simp [execLdw]
@[simp] theorem execLdh_kept (k : TaskAt) (g : Guard) (gv : BitVec 4) (gb : BitVec 4) (off : BitVec 14) (s : State) : NextKept s (execLdh k g gv gb off s) := by
  simp [execLdh]
@[simp] theorem execLdhu_kept (k : TaskAt) (g : Guard) (gv : BitVec 4) (gb : BitVec 4) (off : BitVec 14) (s : State) : NextKept s (execLdhu k g gv gb off s) := by
  simp [execLdhu]
@[simp] theorem execLdb_kept (k : TaskAt) (g : Guard) (gv : BitVec 4) (gb : BitVec 4) (off : BitVec 14) (s : State) : NextKept s (execLdb k g gv gb off s) := by
  simp [execLdb]
@[simp] theorem execLdbu_kept (k : TaskAt) (g : Guard) (gv : BitVec 4) (gb : BitVec 4) (off : BitVec 14) (s : State) : NextKept s (execLdbu k g gv gb off s) := by
  simp [execLdbu]
@[simp] theorem execStw_kept (k : TaskAt) (g : Guard) (gv : BitVec 4) (gb : BitVec 4) (off : BitVec 14) (s : State) : NextKept s (execStw k g gv gb off s) := by
  simp [execStw]
@[simp] theorem execSth_kept (k : TaskAt) (g : Guard) (gv : BitVec 4) (gb : BitVec 4) (off : BitVec 14) (s : State) : NextKept s (execSth k g gv gb off s) := by
  simp [execSth]
@[simp] theorem execStb_kept (k : TaskAt) (g : Guard) (gv : BitVec 4) (gb : BitVec 4) (off : BitVec 14) (s : State) : NextKept s (execStb k g gv gb off s) := by
  simp [execStb]
@[simp] theorem execNop_kept (k : TaskAt) (g : Guard) (s : State) : NextKept s (execNop k g s) := by
  simp [execNop]
@[simp] theorem execSeg_kept (k : TaskAt) (g : Guard) (n : BitVec 16) (s : State) : NextKept s (execSeg k g n s) := by
  simp [execSeg]
@[simp] theorem execSege_kept (k : TaskAt) (g : Guard) (s : State) : NextKept s (execSege k g s) := by
  simp [execSege]
@[simp] theorem execLdcode_kept (k : TaskAt) (g : Guard) (line : BitVec 4) (cl : BitVec 9) (s : State) : NextKept s (execLdcode k g line cl s) := by
  simp [execLdcode]
@[simp] theorem execIter_kept (k : TaskAt) (g : Guard) (s : State) : NextKept s (execIter k g s) := by
  simp [execIter]
@[simp] theorem execHalt_kept (k : TaskAt) (g : Guard) (s : State) : NextKept s (execHalt k g s) := by
  simp [execHalt]
@[simp] theorem execRdcnt_kept (k : TaskAt) (g : Guard) (gd : BitVec 4) (sel : BitVec 4) (s : State) : NextKept s (execRdcnt k g gd sel s) := by
  simp [execRdcnt]
@[simp] theorem vecOp_kept (i : Instr) (k : TaskAt) (g : Guard) (vd : BitVec 3) (vs : List (BitVec 3)) (ill : Bool) (lat : Nat) (f : Task → Word → Line × Word) (s : State) : NextKept s (vecOp i k g vd vs ill lat f s) := by
  simp [vecOp]
@[simp] theorem arith2_kept (i : Instr) (k : TaskAt) (g : Guard) (r : VR) (f : Val → Val → Val) (s : State) : NextKept s (arith2 i k g r f s) := by
  simp [arith2]
@[simp] theorem pick2_kept (i : Instr) (k : TaskAt) (g : Guard) (r : VR) (vs : List (BitVec 3)) (f : Nat → Nat → Nat → Nat) (s : State) : NextKept s (pick2 i k g r vs f s) := by
  simp [pick2]
@[simp] theorem execVadd_kept (k : TaskAt) (g : Guard) (r : VR) (s : State) : NextKept s (execVadd k g r s) := by
  simp [execVadd]
@[simp] theorem execVsub_kept (k : TaskAt) (g : Guard) (r : VR) (s : State) : NextKept s (execVsub k g r s) := by
  simp [execVsub]
@[simp] theorem execVmul_kept (k : TaskAt) (g : Guard) (r : VR) (s : State) : NextKept s (execVmul k g r s) := by
  simp [execVmul]
@[simp] theorem execVfma_kept (k : TaskAt) (g : Guard) (r : VR) (s : State) : NextKept s (execVfma k g r s) := by
  simp [execVfma]
@[simp] theorem execVmin_kept (k : TaskAt) (g : Guard) (r : VR) (s : State) : NextKept s (execVmin k g r s) := by
  simp [execVmin]
@[simp] theorem execVmax_kept (k : TaskAt) (g : Guard) (r : VR) (s : State) : NextKept s (execVmax k g r s) := by
  simp [execVmax]
@[simp] theorem execVabs_kept (k : TaskAt) (g : Guard) (r : VR) (s : State) : NextKept s (execVabs k g r s) := by
  simp [execVabs]
@[simp] theorem execVneg_kept (k : TaskAt) (g : Guard) (r : VR) (s : State) : NextKept s (execVneg k g r s) := by
  simp [execVneg]
@[simp] theorem execVcmpeq_kept (k : TaskAt) (g : Guard) (r : VR) (s : State) : NextKept s (execVcmpeq k g r s) := by
  simp [execVcmpeq]
@[simp] theorem execVcmplt_kept (k : TaskAt) (g : Guard) (r : VR) (s : State) : NextKept s (execVcmplt k g r s) := by
  simp [execVcmplt]
@[simp] theorem execVcmple_kept (k : TaskAt) (g : Guard) (r : VR) (s : State) : NextKept s (execVcmple k g r s) := by
  simp [execVcmple]
@[simp] theorem execVsel_kept (k : TaskAt) (g : Guard) (r : VR) (s : State) : NextKept s (execVsel k g r s) := by
  simp [execVsel]
@[simp] theorem execVcvt_kept (k : TaskAt) (g : Guard) (r : VR) (s : State) : NextKept s (execVcvt k g r s) := by
  simp [execVcvt]
@[simp] theorem execVcvti_kept (k : TaskAt) (g : Guard) (r : VR) (s : State) : NextKept s (execVcvti k g r s) := by
  simp [execVcvti]
@[simp] theorem execVfunc_kept (k : TaskAt) (g : Guard) (r : VR) (s : State) : NextKept s (execVfunc k g r s) := by
  simp [execVfunc]
@[simp] theorem execVrsum_kept (k : TaskAt) (g : Guard) (r : VR) (s : State) : NextKept s (execVrsum k g r s) := by
  simp [execVrsum]
@[simp] theorem execVld_kept (k : TaskAt) (g : Guard) (v : BitVec 3) (gr : BitVec 4) (off : BitVec 12) (s : State) : NextKept s (execVld k g v gr off s) := by
  simp [execVld]
@[simp] theorem execVst_kept (k : TaskAt) (g : Guard) (v : BitVec 3) (gr : BitVec 4) (off : BitVec 12) (s : State) : NextKept s (execVst k g v gr off s) := by
  simp [execVst]
@[simp] theorem execVbcast_kept (k : TaskAt) (g : Guard) (v : BitVec 3) (gr : BitVec 4) (w : BitVec 1) (s : State) : NextKept s (execVbcast k g v gr w s) := by
  simp [execVbcast]
@[simp] theorem execVext_kept (k : TaskAt) (g : Guard) (v : BitVec 3) (gr : BitVec 4) (lane : BitVec 5) (w : BitVec 1) (s : State) : NextKept s (execVext k g v gr lane w s) := by
  simp [execVext]
@[simp] theorem execVins_kept (k : TaskAt) (g : Guard) (v : BitVec 3) (gr : BitVec 4) (lane : BitVec 5) (w : BitVec 1) (s : State) : NextKept s (execVins k g v gr lane w s) := by
  simp [execVins]
@[simp] theorem execSend_kept (k : TaskAt) (g : Guard) (ch : BitVec 3) (pn : BitVec 2) (v : BitVec 3) (q : BitVec 2) (s : State) : NextKept s (execSend k g ch pn v q s) := by
  simp [execSend]
@[simp] theorem execRecv_kept (k : TaskAt) (g : Guard) (ch : BitVec 3) (pn : BitVec 2) (v : BitVec 3) (q : BitVec 2) (s : State) : NextKept s (execRecv k g ch pn v q s) := by
  simp [execRecv]
@[simp] theorem execSendm_kept (k : TaskAt) (g : Guard) (ch : BitVec 3) (pn : BitVec 2) (gr : BitVec 4) (off : BitVec 13) (s : State) : NextKept s (execSendm k g ch pn gr off s) := by
  simp [execSendm]
@[simp] theorem execRecvm_kept (k : TaskAt) (g : Guard) (ch : BitVec 3) (pn : BitVec 2) (gr : BitVec 4) (off : BitVec 13) (s : State) : NextKept s (execRecvm k g ch pn gr off s) := by
  simp [execRecvm]
@[simp] theorem aluRR_kept (i : Instr) (k : TaskAt) (g : Guard) (gd : BitVec 4) (ga : BitVec 4) (gb : BitVec 4) (lat : Nat) (f : Word → Word → Word) (s : State) : NextKept s (aluRR i k g gd ga gb lat f s) := by
  simp [aluRR]
@[simp] theorem cmpRR_kept (i : Instr) (k : TaskAt) (g : Guard) (gd : BitVec 4) (ga : BitVec 4) (gb : BitVec 4) (f : Word → Word → Bool) (s : State) : NextKept s (cmpRR i k g gd ga gb f s) := by
  simp [cmpRR]
@[simp] theorem aluRI_kept (i : Instr) (k : TaskAt) (g : Guard) (gd : BitVec 4) (ga : BitVec 4) (f : Word → Word) (s : State) : NextKept s (aluRI i k g gd ga f s) := by
  simp [aluRI]
@[simp] theorem cmpRI_kept (i : Instr) (k : TaskAt) (g : Guard) (gd : BitVec 4) (ga : BitVec 4) (f : Word → Bool) (s : State) : NextKept s (cmpRI i k g gd ga f s) := by
  simp [cmpRI]
@[simp] theorem execAdd_kept (k : TaskAt) (g : Guard) (gd : BitVec 4) (ga : BitVec 4) (gb : BitVec 4) (s : State) : NextKept s (execAdd k g gd ga gb s) := by
  simp [execAdd]
@[simp] theorem execSub_kept (k : TaskAt) (g : Guard) (gd : BitVec 4) (ga : BitVec 4) (gb : BitVec 4) (s : State) : NextKept s (execSub k g gd ga gb s) := by
  simp [execSub]
@[simp] theorem execAnd_kept (k : TaskAt) (g : Guard) (gd : BitVec 4) (ga : BitVec 4) (gb : BitVec 4) (s : State) : NextKept s (execAnd k g gd ga gb s) := by
  simp [execAnd]
@[simp] theorem execOr_kept (k : TaskAt) (g : Guard) (gd : BitVec 4) (ga : BitVec 4) (gb : BitVec 4) (s : State) : NextKept s (execOr k g gd ga gb s) := by
  simp [execOr]
@[simp] theorem execXor_kept (k : TaskAt) (g : Guard) (gd : BitVec 4) (ga : BitVec 4) (gb : BitVec 4) (s : State) : NextKept s (execXor k g gd ga gb s) := by
  simp [execXor]
@[simp] theorem execShl_kept (k : TaskAt) (g : Guard) (gd : BitVec 4) (ga : BitVec 4) (gb : BitVec 4) (s : State) : NextKept s (execShl k g gd ga gb s) := by
  simp [execShl]
@[simp] theorem execShr_kept (k : TaskAt) (g : Guard) (gd : BitVec 4) (ga : BitVec 4) (gb : BitVec 4) (s : State) : NextKept s (execShr k g gd ga gb s) := by
  simp [execShr]
@[simp] theorem execSra_kept (k : TaskAt) (g : Guard) (gd : BitVec 4) (ga : BitVec 4) (gb : BitVec 4) (s : State) : NextKept s (execSra k g gd ga gb s) := by
  simp [execSra]
@[simp] theorem execMul_kept (k : TaskAt) (g : Guard) (gd : BitVec 4) (ga : BitVec 4) (gb : BitVec 4) (s : State) : NextKept s (execMul k g gd ga gb s) := by
  simp [execMul]
@[simp] theorem execMulhu_kept (k : TaskAt) (g : Guard) (gd : BitVec 4) (ga : BitVec 4) (gb : BitVec 4) (s : State) : NextKept s (execMulhu k g gd ga gb s) := by
  simp [execMulhu]
@[simp] theorem execMin_kept (k : TaskAt) (g : Guard) (gd : BitVec 4) (ga : BitVec 4) (gb : BitVec 4) (s : State) : NextKept s (execMin k g gd ga gb s) := by
  simp [execMin]
@[simp] theorem execMax_kept (k : TaskAt) (g : Guard) (gd : BitVec 4) (ga : BitVec 4) (gb : BitVec 4) (s : State) : NextKept s (execMax k g gd ga gb s) := by
  simp [execMax]
@[simp] theorem execMinu_kept (k : TaskAt) (g : Guard) (gd : BitVec 4) (ga : BitVec 4) (gb : BitVec 4) (s : State) : NextKept s (execMinu k g gd ga gb s) := by
  simp [execMinu]
@[simp] theorem execMaxu_kept (k : TaskAt) (g : Guard) (gd : BitVec 4) (ga : BitVec 4) (gb : BitVec 4) (s : State) : NextKept s (execMaxu k g gd ga gb s) := by
  simp [execMaxu]
@[simp] theorem execCeq_kept (k : TaskAt) (g : Guard) (gd : BitVec 4) (ga : BitVec 4) (gb : BitVec 4) (s : State) : NextKept s (execCeq k g gd ga gb s) := by
  simp [execCeq]
@[simp] theorem execClt_kept (k : TaskAt) (g : Guard) (gd : BitVec 4) (ga : BitVec 4) (gb : BitVec 4) (s : State) : NextKept s (execClt k g gd ga gb s) := by
  simp [execClt]
@[simp] theorem execCltu_kept (k : TaskAt) (g : Guard) (gd : BitVec 4) (ga : BitVec 4) (gb : BitVec 4) (s : State) : NextKept s (execCltu k g gd ga gb s) := by
  simp [execCltu]
@[simp] theorem predOp_kept (i : Instr) (k : TaskAt) (g : Guard) (gd : BitVec 4) (ga : BitVec 4) (gb : BitVec 4) (two : Bool) (f : Bool → Bool → Bool) (s : State) : NextKept s (predOp i k g gd ga gb two f s) := by
  simp [predOp]
@[simp] theorem execPand_kept (k : TaskAt) (g : Guard) (gd : BitVec 4) (ga : BitVec 4) (gb : BitVec 4) (s : State) : NextKept s (execPand k g gd ga gb s) := by
  simp [execPand]
@[simp] theorem execPor_kept (k : TaskAt) (g : Guard) (gd : BitVec 4) (ga : BitVec 4) (gb : BitVec 4) (s : State) : NextKept s (execPor k g gd ga gb s) := by
  simp [execPor]
@[simp] theorem execPnot_kept (k : TaskAt) (g : Guard) (gd : BitVec 4) (ga : BitVec 4) (gb : BitVec 4) (s : State) : NextKept s (execPnot k g gd ga gb s) := by
  simp [execPnot]
@[simp] theorem execAddi_kept (k : TaskAt) (g : Guard) (gd : BitVec 4) (ga : BitVec 4) (imm : BitVec 13) (s : State) : NextKept s (execAddi k g gd ga imm s) := by
  simp [execAddi]
@[simp] theorem execAndi_kept (k : TaskAt) (g : Guard) (gd : BitVec 4) (ga : BitVec 4) (imm : BitVec 13) (s : State) : NextKept s (execAndi k g gd ga imm s) := by
  simp [execAndi]
@[simp] theorem execOri_kept (k : TaskAt) (g : Guard) (gd : BitVec 4) (ga : BitVec 4) (imm : BitVec 13) (s : State) : NextKept s (execOri k g gd ga imm s) := by
  simp [execOri]
@[simp] theorem execXori_kept (k : TaskAt) (g : Guard) (gd : BitVec 4) (ga : BitVec 4) (imm : BitVec 13) (s : State) : NextKept s (execXori k g gd ga imm s) := by
  simp [execXori]
@[simp] theorem execShli_kept (k : TaskAt) (g : Guard) (gd : BitVec 4) (ga : BitVec 4) (imm : BitVec 13) (s : State) : NextKept s (execShli k g gd ga imm s) := by
  simp [execShli]
@[simp] theorem execShri_kept (k : TaskAt) (g : Guard) (gd : BitVec 4) (ga : BitVec 4) (imm : BitVec 13) (s : State) : NextKept s (execShri k g gd ga imm s) := by
  simp [execShri]
@[simp] theorem execSrai_kept (k : TaskAt) (g : Guard) (gd : BitVec 4) (ga : BitVec 4) (imm : BitVec 13) (s : State) : NextKept s (execSrai k g gd ga imm s) := by
  simp [execSrai]
@[simp] theorem execCeqi_kept (k : TaskAt) (g : Guard) (gd : BitVec 4) (ga : BitVec 4) (imm : BitVec 13) (s : State) : NextKept s (execCeqi k g gd ga imm s) := by
  simp [execCeqi]
@[simp] theorem execClti_kept (k : TaskAt) (g : Guard) (gd : BitVec 4) (ga : BitVec 4) (imm : BitVec 13) (s : State) : NextKept s (execClti k g gd ga imm s) := by
  simp [execClti]
@[simp] theorem execLil_kept (k : TaskAt) (g : Guard) (gd : BitVec 4) (imm : BitVec 16) (s : State) : NextKept s (execLil k g gd imm s) := by
  simp [execLil]
@[simp] theorem execLih_kept (k : TaskAt) (g : Guard) (gd : BitVec 4) (imm : BitVec 16) (s : State) : NextKept s (execLih k g gd imm s) := by
  simp [execLih]
@[simp] theorem execBr_kept (k : TaskAt) (g : Guard) (off : BitVec 18) (s : State) : NextKept s (execBr k g off s) := by
  simp [execBr]
@[simp] theorem execBal_kept (k : TaskAt) (g : Guard) (gd : BitVec 4) (off : BitVec 18) (s : State) : NextKept s (execBal k g gd off s) := by
  simp [execBal]
@[simp] theorem execBrr_kept (k : TaskAt) (g : Guard) (ga : BitVec 4) (s : State) : NextKept s (execBrr k g ga s) := by
  simp [execBrr]
@[simp] theorem execLoop_kept (k : TaskAt) (g : Guard) (cnt : BitVec 12) (len : BitVec 8) (s : State) : NextKept s (execLoop k g cnt len s) := by
  simp [execLoop]
@[simp] theorem execLoopr_kept (k : TaskAt) (g : Guard) (gc : BitVec 4) (len : BitVec 8) (s : State) : NextKept s (execLoopr k g gc len s) := by
  simp [execLoopr]
@[simp] theorem execTop_kept (k : TaskAt) (g : Guard) (src : BitVec 1) (dst : BitVec 1) (gd : BitVec 4) (gs : BitVec 4) (gl : BitVec 4) (s : State) : NextKept s (execTop k g src dst gd gs gl s) := by
  simp [execTop]
@[simp] theorem execRack_kept (k : TaskAt) (g : Guard) (src : BitVec 1) (dst : BitVec 1) (gd : BitVec 4) (gs : BitVec 4) (gl : BitVec 4) (s : State) : NextKept s (execRack k g src dst gd gs gl s) := by
  simp [execRack]
@[simp] theorem execCmv_kept (k : TaskAt) (g : Guard) (dir : BitVec 1) (gl : BitVec 4) (gc : BitVec 4) (lo : BitVec 8) (co : BitVec 8) (s : State) : NextKept s (execCmv k g dir gl gc lo co s) := by
  unfold execCmv; (try simp only []); (repeat' split) <;> simp
@[simp] theorem execMlds_kept (k : TaskAt) (g : Guard) (e : BitVec 3) (mode : BitVec 3) (ga : BitVec 4) (gb : BitVec 4) (fmt : BitVec 4) (off : BitVec 4) (s : State) : NextKept s (execMlds k g e mode ga gb fmt off s) := by
  simp [execMlds]
@[simp] theorem execMma_kept (k : TaskAt) (g : Guard) (ea : BitVec 3) (eb : BitVec 3) (sa : BitVec 3) (sb : BitVec 3) (rep : BitVec 3) (blk : BitVec 4) (s : State) : NextKept s (execMma k g ea eb sa sb rep blk s) := by
  simp [execMma]
@[simp] theorem execMrd_kept (k : TaskAt) (g : Guard) (vd : BitVec 3) (bf : BitVec 1) (rnd : BitVec 2) (clr : BitVec 1) (s : State) : NextKept s (execMrd k g vd bf rnd clr s) := by
  simp [execMrd]
@[simp] theorem execMclr_kept (k : TaskAt) (g : Guard) (s : State) : NextKept s (execMclr k g s) := by
  simp [execMclr]
@[simp] theorem execMwin_kept (k : TaskAt) (g : Guard) (gr : BitVec 4) (s : State) : NextKept s (execMwin k g gr s) := by
  simp [execMwin]
@[simp] theorem coreExec_kept (i : Instr) (s : State) : NextKept s (coreExec i s) := by
  unfold coreExec; (try simp only []); (repeat' split) <;> simp
@[simp] theorem execTaskOwnBeat_kept (t : TileAt) (s : State) : NextKept s (execTaskOwnBeat t s) := by
  unfold execTaskOwnBeat; (try simp only []); (repeat' split) <;> simp
@[simp] theorem execSequencerBeat_kept (t : TileAt) (s : State) : NextKept s (execSequencerBeat t s) := by
  unfold execSequencerBeat; (try simp only []); (repeat' split) <;> simp
@[simp] theorem execHoldBeat_kept (s : State) : NextKept s (execHoldBeat s) := by
  simp [execHoldBeat]
@[simp] theorem execHoldCommandArrival_kept (p : Fin 12) (at_ : Nat) (h : Nat) (good0 : Bool) (good1 : Bool) (s : State) : NextKept s (execHoldCommandArrival p at_ h good0 good1 s) := by
  unfold execHoldCommandArrival; (try simp only []); (repeat' split) <;> simp
@[simp] theorem execRead_kept (p : Packet) (s : State) : NextKept s (execRead p s) := by
  unfold execRead
  rw [nextKept_next]
  exact arrive_kept _ _ _ _ _ fun s => by split <;> simp
@[simp] theorem execWrite_kept (p : Packet) (s : State) : NextKept s (execWrite p s) := by
  simp [execWrite]
@[simp] theorem execMsg_kept (p : Packet) (s : State) : NextKept s (execMsg p s) := by
  simp [execMsg]
@[simp] theorem execReadData_kept (p : Packet) (s : State) : NextKept s (execReadData p s) := by
  simp [execReadData]
@[simp] theorem execWriteAck_kept (p : Packet) (s : State) : NextKept s (execWriteAck p s) := by
  simp [execWriteAck]
@[simp] theorem execMsgAck_kept (p : Packet) (s : State) : NextKept s (execMsgAck p s) := by
  simp [execMsgAck]
@[simp] theorem execMessageTimeout_kept (u : BitVec 24) (tag : BitVec 12) (s : State) : NextKept s (execMessageTimeout u tag s) := by
  unfold execMessageTimeout; (try simp only []); (repeat' split) <;> simp
@[simp] theorem execReassemblyTimeout_kept (dst : BitVec 24) (src : BitVec 24) (tag : BitVec 12) (s : State) : NextKept s (execReassemblyTimeout dst src tag s) := by
  unfold execReassemblyTimeout; (try simp only []); (repeat' split) <;> simp
@[simp] theorem execThrottleWindow_kept (h : Hub) (sums : List Nat) (s : State) : NextKept s (execThrottleWindow h sums s) := by
  unfold execThrottleWindow; (try simp only []); (repeat' split) <;> simp
@[simp] theorem execTableDrained_kept (s : State) : NextKept s (execTableDrained s) := by
  unfold execTableDrained; (try simp only []); (repeat' split) <;> simp
@[simp] theorem execTableDrainTimeout_kept (lost : Nat) (s : State) : NextKept s (execTableDrainTimeout lost s) := by
  unfold execTableDrainTimeout; (try simp only []); (repeat' split) <;> simp
@[simp] theorem execCurrentSample_kept (tel : Telemetry) (s : State) : NextKept s (execCurrentSample tel s) := by
  unfold execCurrentSample; (try simp only []); (repeat' split) <;> simp
@[simp] theorem execFastOvercurrent_kept (p : Fin 12) (s : State) : NextKept s (execFastOvercurrent p s) := by
  unfold execFastOvercurrent; (try simp only []); (repeat' split) <;> simp
@[simp] theorem execFastHoldRelease_kept (p : Fin 12) (s : State) : NextKept s (execFastHoldRelease p s) := by
  unfold execFastHoldRelease; (try simp only []); (repeat' split) <;> simp
@[simp] theorem execOpEvaluate_kept (s : State) : NextKept s (execOpEvaluate s) := by
  simp [execOpEvaluate]
@[simp] theorem execOpChangeStop_kept (s : State) : NextKept s (execOpChangeStop s) := by
  unfold execOpChangeStop; (try simp only []); (repeat' split) <;> simp
@[simp] theorem execOpChangeLand_kept (s : State) : NextKept s (execOpChangeLand s) := by
  unfold execOpChangeLand; (try simp only []); (repeat' split) <;> simp
@[simp] theorem execOpChangeEnd_kept (s : State) : NextKept s (execOpChangeEnd s) := by
  unfold execOpChangeEnd; (try simp only []); (repeat' split) <;> simp
@[simp] theorem execRailRampEnd_kept (s : State) : NextKept s (execRailRampEnd s) := by
  unfold execRailRampEnd; (try simp only []); (repeat' split) <;> simp
@[simp] theorem execAlertAssert_kept (g : Fin 48) (cur : Nat) (volt : Nat) (s : State) : NextKept s (execAlertAssert g cur volt s) := by
  unfold execAlertAssert; (try simp only []); (repeat' split) <;> simp
@[simp] theorem execAlertClear_kept (g : Fin 48) (s : State) : NextKept s (execAlertClear g s) := by
  simp [execAlertClear]
@[simp] theorem execForcedStateLift_kept (cur : Nat) (volt : Nat) (s : State) : NextKept s (execForcedStateLift cur volt s) := by
  unfold execForcedStateLift; (try simp only []); (repeat' split) <;> simp
@[simp] theorem execRailShort_kept (g : Fin 48) (s : State) : NextKept s (execRailShort g s) := by
  unfold execRailShort; (try simp only []); (repeat' split) <;> simp
@[simp] theorem execPllLockLoss_kept (p : Fin 12) (s : State) : NextKept s (execPllLockLoss p s) := by
  unfold execPllLockLoss; (try simp only []); (repeat' split) <;> simp
@[simp] theorem execBeatReferenceLoss_kept (s : State) : NextKept s (execBeatReferenceLoss s) := by
  unfold execBeatReferenceLoss; (try simp only []); (repeat' split) <;> simp
@[simp] theorem execSensorSample_kept (f : SensorFrame) (s : State) : NextKept s (execSensorSample f s) := by
  simp [execSensorSample]
@[simp] theorem execDieForceLift_kept (die : Fin 12) (s : State) : NextKept s (execDieForceLift die s) := by
  unfold execDieForceLift; (try simp only []); (repeat' split) <;> simp
@[simp] theorem execTcapSlower_kept (s : State) : NextKept s (execTcapSlower s) := by
  unfold execTcapSlower; (try simp only []); (repeat' split) <;> simp
@[simp] theorem execTcapFaster_kept (s : State) : NextKept s (execTcapFaster s) := by
  unfold execTcapFaster; (try simp only []); (repeat' split) <;> simp
@[simp] theorem execEvacuationTrigger_kept (p : Fin 12) (s : State) : NextKept s (execEvacuationTrigger p s) := by
  unfold execEvacuationTrigger; (try simp only []); (repeat' split) <;> simp
@[simp] theorem execEvacuationComplete_kept (p : Fin 12) (s : State) : NextKept s (execEvacuationComplete p s) := by
  unfold execEvacuationComplete; (try simp only []); (repeat' split) <;> simp
@[simp] theorem execAgeingScan_kept (low : List TileAt) (s : State) : NextKept s (execAgeingScan low s) := by
  unfold execAgeingScan; (try simp only []); (repeat' split) <;> simp
@[simp] theorem execFlowStop_kept (s : State) : NextKept s (execFlowStop s) := by
  unfold execFlowStop; (try simp only []); (repeat' split) <;> simp
@[simp] theorem execFlowResume_kept (s : State) : NextKept s (execFlowResume s) := by
  unfold execFlowResume; (try simp only []); (repeat' split) <;> simp
@[simp] theorem execNarrowAccess_kept (t : TileAt) (m : MemSpace) (s : State) : NextKept s (execNarrowAccess t m s) := by
  unfold execNarrowAccess; (try simp only []); (repeat' split) <;> simp
@[simp] theorem execEccWriteback_kept (t : TileAt) (m : MemSpace) (s : State) : NextKept s (execEccWriteback t m s) := by
  unfold execEccWriteback; (try simp only []); (repeat' split) <;> simp
@[simp] theorem execScrub_kept (t : TileAt) (m : MemSpace) (s : State) : NextKept s (execScrub t m s) := by
  unfold execScrub; (try simp only []); (repeat' split) <;> simp
@[simp] theorem execRowRepair_kept (t : TileAt) (srow : Fin 512) (s : State) : NextKept s (execRowRepair t srow s) := by
  unfold execRowRepair; (try simp only []); (repeat' split) <;> simp
@[simp] theorem execTileRetirement_kept (t : TileAt) (s : State) : NextKept s (execTileRetirement t s) := by
  unfold execTileRetirement; (try simp only []); (repeat' split) <;> simp
@[simp] theorem execReservedCopyRebuild_kept (a : Area) (slabs : List TileAt) (s : State) : NextKept s (execReservedCopyRebuild a slabs s) := by
  unfold execReservedCopyRebuild; (try simp only []); (repeat' split) <;> simp
@[simp] theorem execWinReq_kept (v : Word) (s : State) : NextKept s (execWinReq v s) := by
  unfold execWinReq; (try simp only []); (repeat' split) <;> simp
@[simp] theorem joinGranule_kept (slabs : List TileAt) (s : State) : (joinGranule slabs s).kept = s.kept :=
  foldl_kept _ (fun s a => by simp) _ _
@[simp] theorem execGranuleGrant_kept (slabs : List TileAt) (s : State) : NextKept s (execGranuleGrant slabs s) := by
  unfold execGranuleGrant
  have h := joinGranule_kept slabs s
  generalize granuleBad s slabs = b
  generalize noGranule s = c
  generalize joinGranule slabs s = t at h ⊢
  (repeat' split) <;> simp [h]
@[simp] theorem execGranuleRelease_kept (s : State) : NextKept s (execGranuleRelease s) := by
  unfold execGranuleRelease; (try simp only []); (repeat' split) <;> simp
@[simp] theorem execCxlMemRead_kept (off : Nat) (s : State) : NextKept s (execCxlMemRead off s) := by
  unfold execCxlMemRead; (try simp only []); (repeat' split) <;> simp
@[simp] theorem execCxlMemWrite_kept (off : Nat) (d : Line) (s : State) : NextKept s (execCxlMemWrite off d s) := by
  unfold execCxlMemWrite; (try simp only []); (repeat' split) <;> simp
@[simp] theorem onLink_kept (f : State → State) (s : State) (h : ∀ s, (f s).kept = s.kept) : NextKept s (onLink f s) := by
  simp [onLink, h]
@[simp] theorem execCompletionWrite_kept (p : Fin 64) (s : State) : NextKept s (execCompletionWrite p s) := by
  unfold execCompletionWrite; (try simp only []); (repeat' split) <;> simp
@[simp] theorem execSqDoorbell_kept (p : Fin 64) (v : Word) (s : State) : NextKept s (execSqDoorbell p v s) := by
  simp [execSqDoorbell]
@[simp] theorem execCqDoorbell_kept (q : Fin 64) (v : Word) (s : State) : NextKept s (execCqDoorbell q v s) := by
  simp [execCqDoorbell]
@[simp] theorem execDescriptorFetch_kept (p : Fin 64) (rd : HostRead) (s : State) : NextKept s (execDescriptorFetch p rd s) := by
  unfold execDescriptorFetch; (try simp only []); (repeat' split) <;> simp
@[simp] theorem runDesc_kept (o : Nat) (d : DescRef) (act : Desc → State → State) (s : State) (h : ∀ x s, (act x s).kept = s.kept) : NextKept s (runDesc o d act s) := by
  unfold runDesc; (try simp only []); (repeat' split) <;> simp [h]
@[simp] theorem execNopDescriptor_kept (d : DescRef) (s : State) : NextKept s (execNopDescriptor d s) := by
  simp [execNopDescriptor]
@[simp] theorem execFenceAck_kept (d : DescRef) (s : State) : NextKept s (execFenceAck d s) := by
  simp [execFenceAck]
@[simp] theorem execSqEnable_kept (p : Fin 64) (v : Word) (s : State) : NextKept s (execSqEnable p v s) := by
  simp [execSqEnable]
@[simp] theorem execSqDisable_kept (p : Fin 64) (v : Word) (s : State) : NextKept s (execSqDisable p v s) := by
  simp [execSqDisable]
@[simp] theorem execCqEnable_kept (q : Fin 64) (v : Word) (s : State) : NextKept s (execCqEnable q v s) := by
  simp [execCqEnable]
@[simp] theorem execCqDisable_kept (q : Fin 64) (v : Word) (s : State) : NextKept s (execCqDisable q v s) := by
  simp [execCqDisable]
@[simp] theorem execAttn_kept (v : Word) (s : State) : NextKept s (execAttn v s) := by
  simp [execAttn]
@[simp] theorem execHeldDiscard_kept (v : Word) (s : State) : NextKept s (execHeldDiscard v s) := by
  simp [execHeldDiscard]
@[simp] theorem execSnetThrottle_kept (v : Word) (s : State) : NextKept s (execSnetThrottle v s) := by
  simp [execSnetThrottle]
@[simp] theorem execMsixUnmask_kept (u : Unmask) (s : State) : NextKept s (execMsixUnmask u s) := by
  simp [execMsixUnmask]
@[simp] theorem execPerstAssert_kept (s : State) : NextKept s (execPerstAssert s) := by
  simp [execPerstAssert]
@[simp] theorem execPerstDeassert_kept (s : State) : NextKept s (execPerstDeassert s) := by
  simp [execPerstDeassert]
@[simp] theorem execLinkLoss_kept (s : State) : NextKept s (execLinkLoss s) := by
  simp [execLinkLoss]
@[simp] theorem execFunctionLevelReset_kept (s : State) : NextKept s (execFunctionLevelReset s) := by
  simp [execFunctionLevelReset]
@[simp] theorem execHotReset_kept (s : State) : NextKept s (execHotReset s) := by
  simp [execHotReset]
@[simp] theorem execHostifReset_kept (s : State) : NextKept s (execHostifReset s) := by
  unfold execHostifReset; (try simp only []); (repeat' split) <;> simp
@[simp] theorem execLinkTrained_kept (cxl : Bool) (width : BitVec 2) (speed : BitVec 2) (s : State) : NextKept s (execLinkTrained cxl width speed s) := by
  unfold execLinkTrained; (try simp only []); (repeat' split) <;> simp
@[simp] theorem execHdmCommit_kept (s : State) : NextKept s (execHdmCommit s) := by
  unfold execHdmCommit; (first | apply onMsg_kept | apply ctlRow_kept | apply runEdge_kept | apply viaMgmt_kept | apply ctrlFlit_kept | apply runMgmt_kept | apply onLink_kept | apply runDesc_kept | apply doe_kept); intros; (try simp only []); (repeat' split) <;> simp
@[simp] theorem execBufferMoveEnd_kept (h : Hub) (s : State) : NextKept s (execBufferMoveEnd h s) := by
  unfold execBufferMoveEnd; (try simp only []); (repeat' split) <;> simp
@[simp] theorem viaMgmt_kept (off : Nat) (v : Nat) (f : State → State) (s : State) (h : ∀ s, (f s).kept = s.kept) : NextKept s (viaMgmt off v f s) := by
  simp [viaMgmt, h]
@[simp] theorem execPortEnable_kept (n : Fin 24) (v : Word) (s : State) : NextKept s (execPortEnable n v s) := by
  simp [execPortEnable]
@[simp] theorem execPortDisable_kept (n : Fin 24) (v : Word) (s : State) : NextKept s (execPortDisable n v s) := by
  simp [execPortDisable]
@[simp] theorem execEngineId_kept (v : Word) (s : State) : NextKept s (execEngineId v s) := by
  simp [execEngineId]
@[simp] theorem execRoute_kept (d : Fin 128) (v : DWord) (s : State) : NextKept s (execRoute d v s) := by
  simp [execRoute]
@[simp] theorem execIdentityRead_kept (n : Fin 24) (page : Option (List Byte)) (s : State) : NextKept s (execIdentityRead n page s) := by
  simp [execIdentityRead]
@[simp] theorem execTrainingDone_kept (n : Fin 24) (tr : Trained) (s : State) : NextKept s (execTrainingDone n tr s) := by
  unfold execTrainingDone; (try simp only [nextKept_next]); (repeat' split) <;> simp
@[simp] theorem execTrainingTimeout_kept (n : Fin 24) (s : State) : NextKept s (execTrainingTimeout n s) := by
  unfold execTrainingTimeout; (try simp only []); (repeat' split) <;> simp
@[simp] theorem execFailedRetry_kept (n : Fin 24) (s : State) : NextKept s (execFailedRetry n s) := by
  simp [execFailedRetry]
@[simp] theorem execData_kept (n : Fin 24) (f : Flit) (s : State) : NextKept s (execData n f s) := by
  unfold execData; (try simp only []); (repeat' split) <;> simp
@[simp] theorem execIdle_kept (n : Fin 24) (f : Flit) (s : State) : NextKept s (execIdle n f s) := by
  unfold execIdle; (try simp only []); (repeat' split) <;> simp
@[simp] theorem ctrlFlit_kept (sub : Nat) (n : Fin 24) (f : Flit) (act : State → State) (s : State) (h : ∀ s, (act s).kept = s.kept) : NextKept s (ctrlFlit sub n f act s) := by
  unfold ctrlFlit; (try simp only []); (repeat' split) <;> simp [h]
@[simp] theorem execNak_kept (n : Fin 24) (f : Flit) (s : State) : NextKept s (execNak n f s) := by
  simp [execNak]
@[simp] theorem execReplayTimeout_kept (n : Fin 24) (s : State) : NextKept s (execReplayTimeout n s) := by
  simp [execReplayTimeout]
@[simp] theorem execHelloSend_kept (n : Fin 24) (s : State) : NextKept s (execHelloSend n s) := by
  unfold execHelloSend; (try simp only []); (repeat' split) <;> simp
@[simp] theorem execHello_kept (n : Fin 24) (f : Flit) (s : State) : NextKept s (execHello n f s) := by
  simp [execHello]
@[simp] theorem execRetrainDone_kept (n : Fin 24) (tr : Trained) (s : State) : NextKept s (execRetrainDone n tr s) := by
  unfold execRetrainDone; (try simp only [nextKept_next]); (repeat' split) <;> simp
@[simp] theorem execRetrainTimeout_kept (n : Fin 24) (s : State) : NextKept s (execRetrainTimeout n s) := by
  simp [execRetrainTimeout]
@[simp] theorem execCableRemoval_kept (n : Fin 24) (s : State) : NextKept s (execCableRemoval n s) := by
  simp [execCableRemoval]
@[simp] theorem execCblOvercurrent_kept (n : Fin 24) (s : State) : NextKept s (execCblOvercurrent n s) := by
  simp [execCblOvercurrent]
@[simp] theorem execTsyncProbe_kept (n : Fin 24) (s : State) : NextKept s (execTsyncProbe n s) := by
  unfold execTsyncProbe; (try simp only []); (repeat' split) <;> simp
@[simp] theorem execTprobe_kept (n : Fin 24) (f : Flit) (s : State) : NextKept s (execTprobe n f s) := by
  simp [execTprobe]
@[simp] theorem execTreply_kept (n : Fin 24) (f : Flit) (s : State) : NextKept s (execTreply n f s) := by
  simp [execTreply]
@[simp] theorem execProbeTimeout_kept (n : Fin 24) (s : State) : NextKept s (execProbeTimeout n s) := by
  unfold execProbeTimeout; (try simp only []); (repeat' split) <;> simp
@[simp] theorem execCollective_kept (d : DescRef) (s : State) : NextKept s (execCollective d s) := by
  unfold execCollective; (try simp only []); (repeat' split) <;> simp
@[simp] theorem onMsg_kept (kinds : List Nat) (peer : Fin 128) (chan : BitVec 8) (act : Nat → List Byte → State → State) (s : State) (h : ∀ i b s, (act i b s).kept = s.kept) : NextKept s (onMsg kinds peer chan act s) := by
  unfold onMsg; (try simp only []); (repeat' split) <;> simp [h]
@[simp] theorem execReduceSegment_kept (peer : Fin 128) (chan : BitVec 8) (s : State) : NextKept s (execReduceSegment peer chan s) := by
  simp [execReduceSegment]
@[simp] theorem execGatherSegment_kept (peer : Fin 128) (chan : BitVec 8) (s : State) : NextKept s (execGatherSegment peer chan s) := by
  simp [execGatherSegment]
@[simp] theorem execNormExchange_kept (peer : Fin 128) (chan : BitVec 8) (s : State) : NextKept s (execNormExchange peer chan s) := by
  simp [execNormExchange]
@[simp] theorem execSealNotice_kept (peer : Fin 128) (chan : BitVec 8) (s : State) : NextKept s (execSealNotice peer chan s) := by
  simp [execSealNotice]
@[simp] theorem execAbort_kept (peer : Fin 128) (chan : BitVec 8) (s : State) : NextKept s (execAbort peer chan s) := by
  simp [execAbort]
@[simp] theorem runEdge_kept (o : Nat) (d : DescRef) (act : Desc → State → State) (s : State) (h : ∀ x s, (act x s).kept = s.kept) : NextKept s (runEdge o d act s) := by
  unfold runEdge; (try simp only []); (repeat' split) <;> simp [h]
@[simp] theorem execEdgeSend_kept (d : DescRef) (s : State) : NextKept s (execEdgeSend d s) := by
  simp [execEdgeSend]
@[simp] theorem execEdgeRecv_kept (d : DescRef) (s : State) : NextKept s (execEdgeRecv d s) := by
  simp [execEdgeRecv]
@[simp] theorem execEdgeMsgPacket_kept (n : Fin 24) (s : State) : NextKept s (execEdgeMsgPacket n s) := by
  unfold execEdgeMsgPacket; (try simp only []); (repeat' split) <;> simp
@[simp] theorem execTack_kept (n : Fin 24) (s : State) : NextKept s (execTack n s) := by
  unfold execTack; (try simp only []); (repeat' split) <;> simp
@[simp] theorem execHeartbeat_kept (n : Fin 24) (s : State) : NextKept s (execHeartbeat n s) := by
  unfold execHeartbeat; (try simp only []); (repeat' split) <;> simp
@[simp] theorem execTackTimer_kept (peer : Fin 128) (chan : BitVec 8) (s : State) : NextKept s (execTackTimer peer chan s) := by
  unfold execTackTimer; (try simp only []); (repeat' split) <;> simp
@[simp] theorem execHeartbeatSend_kept (peer : Fin 128) (s : State) : NextKept s (execHeartbeatSend peer s) := by
  unfold execHeartbeatSend; (try simp only []); (repeat' split) <;> simp
@[simp] theorem execTransportTimeout_kept (peer : Fin 128) (s : State) : NextKept s (execTransportTimeout peer s) := by
  simp [execTransportTimeout]
@[simp] theorem execHeartbeatLost_kept (peer : Fin 128) (s : State) : NextKept s (execHeartbeatLost peer s) := by
  simp [execHeartbeatLost]
@[simp] theorem execPeerDown_kept (d : DescRef) (s : State) : NextKept s (execPeerDown d s) := by
  simp [execPeerDown]
@[simp] theorem execPeerUp_kept (d : DescRef) (s : State) : NextKept s (execPeerUp d s) := by
  simp [execPeerUp]
@[simp] theorem runMgmt_kept (o : Nat) (d : DescRef) (act : Desc → State → State) (s : State) (h : ∀ x s, (act x s).kept = s.kept) : NextKept s (runMgmt o d act s) := by
  unfold runMgmt; (try simp only []); (repeat' split) <;> simp [h]
@[simp] theorem execProgReport_kept (d : DescRef) (s : State) : NextKept s (execProgReport d s) := by
  simp [execProgReport]
@[simp] theorem execProgCounters_kept (d : DescRef) (s : State) : NextKept s (execProgCounters d s) := by
  simp [execProgCounters]
@[simp] theorem execProgLoad_kept (d : DescRef) (s : State) : NextKept s (execProgLoad d s) :=
  nextKept_ite (nextKept_self s) (runMgmt_kept _ _ _ _ fun x s => by (repeat' split) <;> simp)
@[simp] theorem execProgReconfig_kept (d : DescRef) (s : State) : NextKept s (execProgReconfig d s) := by
  simp [execProgReconfig]
@[simp] theorem execProgRemove_kept (d : DescRef) (s : State) : NextKept s (execProgRemove d s) := by
  simp [execProgRemove]
@[simp] theorem execBarrierStop_kept (ps : Fin 8) (s : State) : NextKept s (execBarrierStop ps s) := by
  unfold execBarrierStop; (try simp only []); (repeat' split) <;> simp
@[simp] theorem execBarrierHalt_kept (ps : Fin 8) (s : State) : NextKept s (execBarrierHalt ps s) := by
  unfold execBarrierHalt; (try simp only []); (repeat' split) <;> simp
@[simp] theorem execBarrierRestart_kept (ps : Fin 8) (s : State) : NextKept s (execBarrierRestart ps s) := by
  unfold execBarrierRestart; (try simp only []); (repeat' split) <;> simp
@[simp] theorem execBarrierComplete_kept (ps : Fin 8) (s : State) : NextKept s (execBarrierComplete ps s) := by
  unfold execBarrierComplete; (try simp only []); (repeat' split) <;> simp
@[simp] theorem execPlacementDone_kept (r : PlaceResult) (s : State) : NextKept s (execPlacementDone r s) := by
  simp [execPlacementDone]
@[simp] theorem execSearchLimit_kept (s : State) : NextKept s (execSearchLimit s) := by
  unfold execSearchLimit; (try simp only []); (repeat' split) <;> simp
@[simp] theorem execPressTable_kept (d : DescRef) (s : State) : NextKept s (execPressTable d s) := by
  unfold execPressTable; (first | apply onMsg_kept | apply ctlRow_kept | apply runEdge_kept | apply viaMgmt_kept | apply ctrlFlit_kept | apply runMgmt_kept | apply onLink_kept | apply runDesc_kept | apply doe_kept); intros; (try simp only []); (repeat' split) <;> simp
@[simp] theorem execStreamXfer_kept (d : DescRef) (s : State) : NextKept s (execStreamXfer d s) := by
  unfold execStreamXfer; (try simp only []); (repeat' split) <;> simp
@[simp] theorem execMemRead_kept (d : DescRef) (s : State) : NextKept s (execMemRead d s) := by
  unfold execMemRead; exact runDesc_kept _ _ _ _ fun x s => onCore_kept _ _ _ fun k t s => injectAll_kept _ _ _ fun s => netRead_kept ..
@[simp] theorem execMemWrite_kept (d : DescRef) (s : State) : NextKept s (execMemWrite d s) := by
  simp [execMemWrite]
@[simp] theorem execObjRead_kept (d : DescRef) (s : State) : NextKept s (execObjRead d s) := by
  unfold execObjRead; (first | apply onMsg_kept | apply ctlRow_kept | apply runEdge_kept | apply viaMgmt_kept | apply ctrlFlit_kept | apply runMgmt_kept | apply onLink_kept | apply runDesc_kept | apply doe_kept); intros; (try simp only []); (repeat' split) <;> simp
@[simp] theorem execObjWrite_kept (d : DescRef) (s : State) : NextKept s (execObjWrite d s) := by
  simp [execObjWrite]
@[simp] theorem execFenceHalt_kept (d : BitVec 16) (s : State) : NextKept s (execFenceHalt d s) := by
  unfold execFenceHalt; (try simp only []); (repeat' split) <;> simp
@[simp] theorem execDomainReset_kept (d : BitVec 16) (ok : Bool) (s : State) : NextKept s (execDomainReset d ok s) := by
  unfold execDomainReset; (try simp only []); (repeat' split) <;> simp
@[simp] theorem ctlRow_kept (mine : Nat → Bool) (d : DescRef) (act : Desc → Nat → State → State) (s : State) (h : ∀ x i s, (act x i s).kept = s.kept) : NextKept s (ctlRow mine d act s) := by
  unfold ctlRow; (try simp only []); (repeat' split) <;> simp [h]
@[simp] theorem execQuery_kept (d : DescRef) (s : State) : NextKept s (execQuery d s) := by
  simp [execQuery]
@[simp] theorem execReset_kept (d : DescRef) (s : State) : NextKept s (execReset d s) := by
  unfold execReset; (first | apply onMsg_kept | apply ctlRow_kept | apply runEdge_kept | apply viaMgmt_kept | apply ctrlFlit_kept | apply runMgmt_kept | apply onLink_kept | apply runDesc_kept | apply doe_kept); intros; (try simp only []); (repeat' split) <;> simp
@[simp] theorem execDisable_kept (d : DescRef) (s : State) : NextKept s (execDisable d s) := by
  unfold execDisable; (first | apply onMsg_kept | apply ctlRow_kept | apply runEdge_kept | apply viaMgmt_kept | apply ctrlFlit_kept | apply runMgmt_kept | apply onLink_kept | apply runDesc_kept | apply doe_kept); intros; (try simp only []); (repeat' split) <;> simp
@[simp] theorem execEnable_kept (d : DescRef) (s : State) : NextKept s (execEnable d s) := by
  unfold execEnable; (first | apply onMsg_kept | apply ctlRow_kept | apply runEdge_kept | apply viaMgmt_kept | apply ctrlFlit_kept | apply runMgmt_kept | apply onLink_kept | apply runDesc_kept | apply doe_kept); intros; (try simp only []); (repeat' split) <;> simp
@[simp] theorem execEvacuate_kept (d : DescRef) (s : State) : NextKept s (execEvacuate d s) := by
  unfold execEvacuate; (try simp only []); (repeat' split) <;> simp
@[simp] theorem execWatchSet_kept (d : DescRef) (s : State) : NextKept s (execWatchSet d s) := by
  simp [execWatchSet]
@[simp] theorem execProgramWatchExpiry_kept (ps : Fin 8) (s : State) : NextKept s (execProgramWatchExpiry ps s) := by
  unfold execProgramWatchExpiry; (try simp only []); (repeat' split) <;> simp
@[simp] theorem execSqWatchExpiry_kept (p : Fin 64) (s : State) : NextKept s (execSqWatchExpiry p s) := by
  unfold execSqWatchExpiry; (try simp only []); (repeat' split) <;> simp
@[simp] theorem execHeartbeatWatch_kept (u : BitVec 24) (s : State) : NextKept s (execHeartbeatWatch u s) := by
  unfold execHeartbeatWatch; (try simp only []); (repeat' split) <;> simp
@[simp] theorem execLogFetch_kept (d : DescRef) (s : State) : NextKept s (execLogFetch d s) := by
  simp [execLogFetch]
@[simp] theorem execLeesFetch_kept (d : DescRef) (s : State) : NextKept s (execLeesFetch d s) := by
  unfold execLeesFetch; (first | apply onMsg_kept | apply ctlRow_kept | apply runEdge_kept | apply viaMgmt_kept | apply ctrlFlit_kept | apply runMgmt_kept | apply onLink_kept | apply runDesc_kept | apply doe_kept); intros; (try simp only []); (repeat' split) <;> first | (simp; done) | ((first | apply withColl_kept | apply onSlot_kept | apply toPeer_kept | apply deferOr_kept | apply lowWord_kept | apply checks_kept | apply onCore_kept | apply onObj_kept | apply edgeStart_kept | apply withRead_kept | apply takeFlit_kept); intros; (try simp only []); (repeat' split) <;> simp)
@[simp] theorem execPolicySet_kept (d : DescRef) (s : State) : NextKept s (execPolicySet d s) := by
  simp [execPolicySet]
@[simp] theorem execFwLoad_kept (d : DescRef) (s : State) : NextKept s (execFwLoad d s) := by
  unfold execFwLoad; (try simp only []); (repeat' split) <;> simp
@[simp] theorem execCertChain_kept (d : DescRef) (s : State) : NextKept s (execCertChain d s) := by
  simp [execCertChain]
@[simp] theorem doe_kept (ok : Bool) (act : State → State) (s : State) (h : ∀ s, (act s).kept = s.kept) : NextKept s (doe ok act s) := by
  simp [doe, h]
@[simp] theorem execAttest_kept (req : List Byte) (s : State) : NextKept s (execAttest req s) := by
  simp [execAttest]
@[simp] theorem execGetChain_kept (req : List Byte) (s : State) : NextKept s (execGetChain req s) := by
  simp [execGetChain]
@[simp] theorem execUnlockChallenge_kept (req : List Byte) (s : State) : NextKept s (execUnlockChallenge req s) := by
  simp [execUnlockChallenge]
@[simp] theorem execUnlock_kept (req : List Byte) (s : State) : NextKept s (execUnlock req s) := by
  simp [execUnlock]
@[simp] theorem execPhyAccess_kept (die : Fin 8) (a : PhyKind) (s : State) : NextKept s (execPhyAccess die a s) := by
  unfold execPhyAccess; (try simp only []); (repeat' split) <;> simp
@[simp] theorem execRecordsFetch_kept (d : DescRef) (s : State) : NextKept s (execRecordsFetch d s) := by
  simp [execRecordsFetch]
@[simp] theorem execParamSupply_kept (d : DescRef) (s : State) : NextKept s (execParamSupply d s) := by
  simp [execParamSupply]
@[simp] theorem execEngineResetAssert_kept (s : State) : NextKept s (execEngineResetAssert s) := by
  unfold execEngineResetAssert; (try simp only []); (repeat' split) <;> simp
@[simp] theorem execInputLoss_kept (mV : Nat) (s : State) : NextKept s (execInputLoss mV s) := by
  unfold execInputLoss; (try simp only []); (repeat' split) <;> simp
@[simp] theorem execStandbyPowerOn_kept (s : State) : NextKept s (execStandbyPowerOn s) := by
  unfold execStandbyPowerOn; (try simp only []); (repeat' split) <;> simp
@[simp] theorem execStandbyPowerOff_kept (s : State) : NextKept s (execStandbyPowerOff s) := by
  simp [execStandbyPowerOff]
@[simp] theorem execStart_kept (mV : Nat) (s : State) : NextKept s (execStart mV s) := by
  unfold execStart; (try simp only []); (repeat' split) <;> simp
@[simp] theorem execTopologySet_kept (d : DescRef) (s : State) : NextKept s (execTopologySet d s) := by
  simp [execTopologySet]
@[simp] theorem execPbWaitTimeout_kept (s : State) : NextKept s (execPbWaitTimeout s) := by
  unfold execPbWaitTimeout; (try simp only []); (repeat' split) <;> simp
@[simp] theorem execReadmit_kept (d : DescRef) (s : State) : NextKept s (execReadmit d s) := by
  unfold execReadmit; (try simp only []); (repeat' split) <;> simp
@[simp] theorem execReadmitStageEnd_kept (f : StageFound) (s : State) : NextKept s (execReadmitStageEnd f s) := by
  unfold execReadmitStageEnd; (try simp only []); (repeat' split) <;> simp
@[simp] theorem execCeil_kept (c : BitVec 3) (s : State) : NextKept s (execCeil c s) := by
  simp [execCeil]
@[simp] theorem execFlowEn_kept (en : Bool) (s : State) : NextKept s (execFlowEn en s) := by
  simp [execFlowEn]
@[simp] theorem execTmuxCtl_kept (v : Word) (s : State) : NextKept s (execTmuxCtl v s) := by
  unfold execTmuxCtl; (try simp only []); (repeat' split) <;> simp
@[simp] theorem execSel_kept (n : Fin 16) (v : Word) (s : State) : NextKept s (execSel n v s) := by
  unfold execSel; (try simp only []); (repeat' split) <;> simp
@[simp] theorem execRegisterWrite_kept (off : Nat) (size : Nat) (v : DWord) (s : State) : NextKept s (execRegisterWrite off size v s) := by
  simp [execRegisterWrite]
@[simp] theorem execMgmtReopen_kept (s : State) : NextKept s (execMgmtReopen s) := by
  unfold execMgmtReopen; (try simp only []); (repeat' split) <;> simp
@[simp] theorem execMgmtReopenTimeout_kept (s : State) : NextKept s (execMgmtReopenTimeout s) := by
  unfold execMgmtReopenTimeout; (try simp only []); (repeat' split) <;> simp
@[simp] theorem execPbData_kept (off : Word) (bytes : List Byte) (s : State) : NextKept s (execPbData off bytes s) := by
  unfold execPbData; (try simp only []); (repeat' split) <;> simp
@[simp] theorem execPbCommit_kept (s : State) : NextKept s (execPbCommit s) := by
  unfold execPbCommit; (try simp only []); (repeat' split) <;> simp
@[simp] theorem execPbAbort_kept (s : State) : NextKept s (execPbAbort s) := by
  unfold execPbAbort; (try simp only []); (repeat' split) <;> simp
@[simp] theorem sideband_kept (b : List Byte) (s : State) : NextKept s (sideband b s) := by
  simp [sideband]
@[simp] theorem execStatus_kept (s : State) : NextKept s (execStatus s) := by
  simp [execStatus]
@[simp] theorem execFatalRead_kept (s : State) : NextKept s (execFatalRead s) := by
  simp [execFatalRead]
@[simp] theorem execModuleId_kept (s : State) : NextKept s (execModuleId s) := by
  simp [execModuleId]
@[simp] theorem execTelemetry_kept (s : State) : NextKept s (execTelemetry s) := by
  simp [execTelemetry]
@[simp] theorem execIdcode_kept (s : State) : NextKept s (execIdcode s) := by
  unfold execIdcode; (try simp only []); (repeat' split) <;> simp
@[simp] theorem execBypass_kept (s : State) : NextKept s (execBypass s) := by
  simp [execBypass]
@[simp] theorem execTapReset_kept (s : State) : NextKept s (execTapReset s) := by
  simp [execTapReset]
@[simp] theorem execBoundaryScan_kept (drive : Bool) (bits : List Bool) (s : State) :
    NextKept s (execBoundaryScan drive bits s) := by
  unfold execBoundaryScan
  simp only []
  (repeat' split) <;> simp
@[simp] theorem execCompletionTimeout_kept (tag : Nat) (s : State) : NextKept s (execCompletionTimeout tag s) := by
  simp [execCompletionTimeout]

/-! ## The rows that may move fuses forward -/

theorem nextForward_of_kept {s : State} {r : Res} (h : NextKept s r) : NextForward s r := by
  cases r with
  | next t => exact forward_of_kept h
  | fault _ => exact h
  | refused _ => exact h

theorem execStageEnd_forward (f : StageFound) (s : State) : NextForward s (execStageEnd f s) := by
  unfold execStageEnd
  split
  · exact forward_refl s
  · split
    · split
      · split
        · exact forward_refl s
        · exact forward_of_kept rfl
      · exact forward_of_kept (by simp)
    · split
      · exact forward_refl s
      · split
        · exact forward_of_kept (by simp)
        · exact forward_of_kept (by simp)
        · exact forward_of_kept (by simp)
        · exact forward_ite (endStage5_forward f s) (forward_refl s)
        · exact forward_ite (forward_refl s) (endStage6_forward f s)
        · exact forward_ite (forward_refl s) (tryTopo_forward s)
        · exact forward_refl s

theorem execTopologyWaitTimeout_forward (s : State) : NextForward s (execTopologyWaitTimeout s) := by
  unfold execTopologyWaitTimeout
  split
  · exact classify_forward s
  · exact forward_refl s

theorem execHostReadCompletion_forward (tag : Nat) (rd : HostRead) (s : State) : NextForward s (execHostReadCompletion tag rd s) := by
  unfold execHostReadCompletion onLink
  refine forward_ite (withRead_forward _ _ _ fun x r s => ?_) (forward_refl s)
  split
  · exact hostDeliver_forward _ _ _ _
  · exact forward_trans (forward_of_kept (by simp)) (hostPoison_forward _ _ _ _)
  · exact forward_of_kept (by simp)

end Sys2Proof.Machine
end

