-- ==== Sys2Proof/Laws/Memory.lean ====
section
/-! SUPPORT. Laws of the keyed lists and of the byte memories: a read after a write, other addresses, and that every memory operation keeps
the canonical form (R113, R119, R130). -/

namespace Sys2Proof.Machine

/-! ## Keyed lists -/

@[simp] theorem lookupD_put_self {α : Type} (d v : α) (a : Nat) (l : List (Nat × α)) : lookupD d (put a v l) a = v := by
  induction l with
  | nil => simp [put, lookupD]
  | cons e t ih =>
    obtain ⟨k, w⟩ := e
    unfold put
    split
    · simp [lookupD]
    · split
      · simp [lookupD]
      · rw [lookupD, if_neg (fun h => ‹¬ a = k› h.symm), ih]

theorem lookupD_put_ne {α : Type} (d v : α) {a b : Nat} (h : b ≠ a) (l : List (Nat × α)) : lookupD d (put a v l) b = lookupD d l b := by
  induction l with
  | nil => simp [put, lookupD, Ne.symm h]
  | cons e t ih =>
    obtain ⟨k, w⟩ := e
    unfold put
    split
    · simp [lookupD, Ne.symm h]
    · split
      · subst ‹a = k›; simp [lookupD, Ne.symm h]
      · simp only [lookupD, ih]

@[simp] theorem find?_put_self {α : Type} (v : α) (a : Nat) (l : List (Nat × α)) : find? (put a v l) a = some v := by
  induction l with
  | nil => simp [put, find?]
  | cons e t ih =>
    obtain ⟨k, w⟩ := e
    unfold put
    split
    · simp [find?]
    · split
      · simp [find?]
      · rw [find?, if_neg (fun h => ‹¬ a = k› h.symm), ih]

theorem find?_put_ne {α : Type} (v : α) {a b : Nat} (h : b ≠ a) (l : List (Nat × α)) : find? (put a v l) b = find? l b := by
  induction l with
  | nil => simp [put, find?, Ne.symm h]
  | cons e t ih =>
    obtain ⟨k, w⟩ := e
    unfold put
    split
    · simp [find?, Ne.symm h]
    · split
      · subst ‹a = k›; simp [find?, Ne.symm h]
      · simp only [find?, ih]

theorem lookupD_drop_ne {α : Type} (d : α) {a b : Nat} (h : b ≠ a) (l : List (Nat × α)) : lookupD d (drop_ a l) b = lookupD d l b := by
  induction l with
  | nil => rfl
  | cons e t ih =>
    obtain ⟨k, w⟩ := e
    unfold drop_
    split
    · subst ‹a = k›; simp [lookupD, Ne.symm h]
    · simp only [lookupD, ih]

/-! ## The canonical form -/

/-- A lower bound is weakened. -/
theorem wfFrom_mono {m : List Host.Cell} {lo lo' : Nat} (h : wfFrom (some lo) m) (hl : lo' ≤ lo) : wfFrom (some lo') m := by
  cases m with
  | nil => rfl
  | cons e t =>
    obtain ⟨a, b⟩ := e
    simp only [wfFrom, Bool.and_eq_true, decide_eq_true_eq] at h ⊢
    exact ⟨⟨by omega, h.1.2⟩, h.2⟩

theorem wfFrom_none {m : List Host.Cell} {lo : Nat} (h : wfFrom (some lo) m) : wfFrom none m := by
  cases m with
  | nil => rfl
  | cons e t =>
    obtain ⟨a, b⟩ := e
    simp only [wfFrom, Bool.and_eq_true, decide_eq_true_eq] at h ⊢
    exact ⟨⟨trivial, h.1.2⟩, h.2⟩

theorem wfFrom_put {a : Nat} {b : Byte} (hb : b ≠ blank) {m : List Host.Cell} :
    ∀ {lo : Option Nat}, (∀ l, lo = some l → l < a) → wfFrom lo m → wfFrom lo (put a b m) := by
  induction m with
  | nil =>
    intro lo hl _
    cases lo with
    | none => simp [put, wfFrom, hb]
    | some l => simp [put, wfFrom, hb, hl l rfl]
  | cons e t ih =>
    obtain ⟨k, w⟩ := e
    intro lo hl h
    simp only [wfFrom, Bool.and_eq_true, decide_eq_true_eq] at h
    unfold put
    split
    · simp only [wfFrom, Bool.and_eq_true, decide_eq_true_eq]
      refine ⟨⟨?_, hb⟩, ⟨by assumption, h.1.2⟩, h.2⟩
      cases lo with
      | none => rfl
      | some l => simp [hl l rfl]
    · split
      · subst ‹a = k›
        simp only [wfFrom, Bool.and_eq_true, decide_eq_true_eq]
        exact ⟨⟨h.1.1, hb⟩, h.2⟩
      · simp only [wfFrom, Bool.and_eq_true, decide_eq_true_eq]
        exact ⟨⟨h.1.1, h.1.2⟩, ih (fun l hl => by cases hl; omega) h.2⟩

theorem wfFrom_drop {a : Nat} {m : List Host.Cell} : ∀ {lo : Option Nat}, wfFrom lo m → wfFrom lo (drop_ a m) := by
  induction m with
  | nil => intro lo _; rfl
  | cons e t ih =>
    obtain ⟨k, w⟩ := e
    intro lo h
    simp only [wfFrom, Bool.and_eq_true, decide_eq_true_eq] at h
    unfold drop_
    split
    · cases lo with
      | none => exact wfFrom_none h.2
      | some l =>
        have := h.1.1
        simp at this
        exact wfFrom_mono h.2 (by omega)
    · simp only [wfFrom, Bool.and_eq_true, decide_eq_true_eq]
      exact ⟨⟨h.1.1, h.1.2⟩, ih h.2⟩

/-- The empty memory is canonical, so that of reset is. -/
@[simp] theorem wf_nil : Memory.wf [] = true := rfl

/-- A write of one byte keeps the canonical form. -/
theorem wf_writeByte {m : List Host.Cell} (h : Memory.wf m) (a : Nat) (b : Byte) : Memory.wf (writeByte m a b) := by
  unfold writeByte
  split
  · exact wfFrom_drop h
  · exact wfFrom_put ‹_› (fun l hl => by cases hl) h

theorem wf_writeLE (n : Nat) : ∀ {m : List Host.Cell} (a x : Nat), Memory.wf m → Memory.wf (writeLE m a n x) := by
  induction n with
  | zero => intro m a x h; exact h
  | succ n ih => intro m a x h; exact ih _ _ (wf_writeByte h _ _)

theorem wf_writeBytes (l : List Byte) : ∀ {m : List Host.Cell} (a : Nat), Memory.wf m → Memory.wf (writeBytes m a l) := by
  induction l with
  | nil => intro m a h; exact h
  | cons b t ih => intro m a h; exact ih _ (wf_writeByte h _ _)

theorem wf_writeLine {m : List Host.Cell} (h : Memory.wf m) (k : Nat) (x : Line) : Memory.wf (writeLine m k x) := wf_writeLE _ _ _ h

/-! ## Reads after writes -/

theorem lookupD_above {m : List Host.Cell} {a : Nat} : ∀ {lo : Nat}, wfFrom (some lo) m → a ≤ lo → lookupD blank m a = blank := by
  induction m with
  | nil => intro lo _ _; rfl
  | cons e t ih =>
    obtain ⟨k, w⟩ := e
    intro lo h hl
    simp only [wfFrom, Bool.and_eq_true, decide_eq_true_eq] at h
    have hk := h.1.1
    simp only [lookupD]
    rw [if_neg (by omega)]
    exact ih h.2 (by omega)

theorem lookupD_drop_self {m : List Host.Cell} {a : Nat} : ∀ {lo : Option Nat}, wfFrom lo m → lookupD blank (drop_ a m) a = blank := by
  induction m with
  | nil => intro lo _; rfl
  | cons e t ih =>
    obtain ⟨k, w⟩ := e
    intro lo h
    simp only [wfFrom, Bool.and_eq_true, decide_eq_true_eq] at h
    unfold drop_
    split
    · exact lookupD_above h.2 (by omega)
    · simp only [lookupD]
      rw [if_neg (fun h => ‹¬ a = k› h.symm)]
      exact ih h.2

/-- A byte just written reads back. -/
theorem readByte_writeByte_self {m : List Host.Cell} (h : Memory.wf m) (a : Nat) (b : Byte) : readByte (writeByte m a b) a = b := by
  unfold readByte writeByte
  split
  · subst ‹b = blank›; exact lookupD_drop_self h
  · exact lookupD_put_self _ _ _ _

/-- Every other byte reads as before. -/
theorem readByte_writeByte_ne {a c : Nat} (hc : c ≠ a) (m : List Host.Cell) (b : Byte) : readByte (writeByte m a b) c = readByte m c := by
  unfold readByte writeByte
  split
  · exact lookupD_drop_ne _ hc _
  · exact lookupD_put_ne _ _ hc _

/-- Bytes outside a little-endian write read as before. -/
theorem readByte_writeLE_out (n : Nat) : ∀ (m : List Host.Cell) (a x c : Nat), (c < a ∨ a + n ≤ c) →
    readByte (writeLE m a n x) c = readByte m c := by
  induction n with
  | zero => intros; rfl
  | succ n ih =>
    intro m a x c h
    rw [writeLE, ih _ _ _ _ (by omega), readByte_writeByte_ne (by omega)]

/-- Byte `i` of a little-endian write. -/
theorem readByte_writeLE_in (n : Nat) : ∀ (m : List Host.Cell) (a x i : Nat), Memory.wf m → i < n →
    readByte (writeLE m a n x) (a + i) = BitVec.ofNat 8 (x / 256 ^ i) := by
  induction n with
  | zero => intro m a x i _ hi; omega
  | succ n ih =>
    intro m a x i h hi
    rw [writeLE]
    cases i with
    | zero => rw [readByte_writeLE_out _ _ _ _ _ (by omega), Nat.add_zero, readByte_writeByte_self h]; simp
    | succ i =>
      have e : a + (i + 1) = (a + 1) + i := by omega
      rw [e, ih _ _ _ _ (wf_writeByte h _ _) (by omega), Nat.div_div_eq_div_mul]
      congr 2
      rw [Nat.pow_succ]; exact Nat.mul_comm _ _

/-- Bytes outside a line written read as before. -/
theorem readByte_writeLine_out (m : List Host.Cell) (k : Nat) (x : Line) (c : Nat) (h : c < 64 * k ∨ 64 * k + 64 ≤ c) :
    readByte (writeLine m k x) c = readByte m c := readByte_writeLE_out _ _ _ _ _ h

end Sys2Proof.Machine
end

