-- ==== Sys2Proof/Laws/State.lean ====
section
/-! SUPPORT. One lemma for each field under each update of the state, true by definition, so that no proof unfolds a record update. -/

namespace Sys2Proof.Machine

/-! `setTile` changes only `tiles`. -/
@[simp] theorem setTile_pending (t : TileAt) (x : Tile) (s : State) : (setTile t x s).pending = s.pending := rfl
@[simp] theorem setTile_free (t : TileAt) (x : Tile) (s : State) : (setTile t x s).free = s.free := rfl
@[simp] theorem setTile_time (t : TileAt) (x : Tile) (s : State) : (setTile t x s).time = s.time := rfl
@[simp] theorem setTile_beats (t : TileAt) (x : Tile) (s : State) : (setTile t x s).beats = s.beats := rfl
@[simp] theorem setTile_links (t : TileAt) (x : Tile) (s : State) : (setTile t x s).links = s.links := rfl
@[simp] theorem setTile_parcels (t : TileAt) (x : Tile) (s : State) : (setTile t x s).parcels = s.parcels := rfl
@[simp] theorem setTile_pwr (t : TileAt) (x : Tile) (s : State) : (setTile t x s).pwr = s.pwr := rfl
@[simp] theorem setTile_progs (t : TileAt) (x : Tile) (s : State) : (setTile t x s).progs = s.progs := rfl
@[simp] theorem setTile_placing (t : TileAt) (x : Tile) (s : State) : (setTile t x s).placing = s.placing := rfl
@[simp] theorem setTile_memo (t : TileAt) (x : Tile) (s : State) : (setTile t x s).memo = s.memo := rfl
@[simp] theorem setTile_watches (t : TileAt) (x : Tile) (s : State) : (setTile t x s).watches = s.watches := rfl
@[simp] theorem setTile_snet (t : TileAt) (x : Tile) (s : State) : (setTile t x s).snet = s.snet := rfl
@[simp] theorem setTile_hostif (t : TileAt) (x : Tile) (s : State) : (setTile t x s).hostif = s.hostif := rfl
@[simp] theorem setTile_stage (t : TileAt) (x : Tile) (s : State) : (setTile t x s).stage = s.stage := rfl
@[simp] theorem setTile_reserved (t : TileAt) (x : Tile) (s : State) : (setTile t x s).reserved = s.reserved := rfl
@[simp] theorem setTile_edge (t : TileAt) (x : Tile) (s : State) : (setTile t x s).edge = s.edge := rfl
@[simp] theorem setTile_colls (t : TileAt) (x : Tile) (s : State) : (setTile t x s).colls = s.colls := rfl
@[simp] theorem setTile_nextCid (t : TileAt) (x : Tile) (s : State) : (setTile t x s).nextCid = s.nextCid := rfl
@[simp] theorem setTile_sealHubs (t : TileAt) (x : Tile) (s : State) : (setTile t x s).sealHubs = s.sealHubs := rfl
@[simp] theorem setTile_adders (t : TileAt) (x : Tile) (s : State) : (setTile t x s).adders = s.adders := rfl
@[simp] theorem setTile_marks (t : TileAt) (x : Tile) (s : State) : (setTile t x s).marks = s.marks := rfl
@[simp] theorem setTile_moving (t : TileAt) (x : Tile) (s : State) : (setTile t x s).moving = s.moving := rfl
@[simp] theorem setTile_deferred (t : TileAt) (x : Tile) (s : State) : (setTile t x s).deferred = s.deferred := rfl
@[simp] theorem setTile_atClose (t : TileAt) (x : Tile) (s : State) : (setTile t x s).atClose = s.atClose := rfl
@[simp] theorem setTile_log (t : TileAt) (x : Tile) (s : State) : (setTile t x s).log = s.log := rfl
@[simp] theorem setTile_doms (t : TileAt) (x : Tile) (s : State) : (setTile t x s).doms = s.doms := rfl
@[simp] theorem setTile_lees (t : TileAt) (x : Tile) (s : State) : (setTile t x s).lees = s.lees := rfl
@[simp] theorem setTile_leesSeq (t : TileAt) (x : Tile) (s : State) : (setTile t x s).leesSeq = s.leesSeq := rfl
@[simp] theorem setTile_boot (t : TileAt) (x : Tile) (s : State) : (setTile t x s).boot = s.boot := rfl
@[simp] theorem setTile_sec (t : TileAt) (x : Tile) (s : State) : (setTile t x s).sec = s.sec := rfl
@[simp] theorem setTile_sb (t : TileAt) (x : Tile) (s : State) : (setTile t x s).sb = s.sb := rfl
@[simp] theorem setTile_dbg (t : TileAt) (x : Tile) (s : State) : (setTile t x s).dbg = s.dbg := rfl
@[simp] theorem setTile_module (t : TileAt) (x : Tile) (s : State) : (setTile t x s).module = s.module := rfl
@[simp] theorem setTile_out (t : TileAt) (x : Tile) (s : State) : (setTile t x s).out = s.out := rfl

/-! `updTile` changes only `tiles`. -/
@[simp] theorem updTile_pending (t : TileAt) (f : Tile → Tile) (s : State) : (updTile t f s).pending = s.pending := rfl
@[simp] theorem updTile_free (t : TileAt) (f : Tile → Tile) (s : State) : (updTile t f s).free = s.free := rfl
@[simp] theorem updTile_time (t : TileAt) (f : Tile → Tile) (s : State) : (updTile t f s).time = s.time := rfl
@[simp] theorem updTile_beats (t : TileAt) (f : Tile → Tile) (s : State) : (updTile t f s).beats = s.beats := rfl
@[simp] theorem updTile_links (t : TileAt) (f : Tile → Tile) (s : State) : (updTile t f s).links = s.links := rfl
@[simp] theorem updTile_parcels (t : TileAt) (f : Tile → Tile) (s : State) : (updTile t f s).parcels = s.parcels := rfl
@[simp] theorem updTile_pwr (t : TileAt) (f : Tile → Tile) (s : State) : (updTile t f s).pwr = s.pwr := rfl
@[simp] theorem updTile_progs (t : TileAt) (f : Tile → Tile) (s : State) : (updTile t f s).progs = s.progs := rfl
@[simp] theorem updTile_placing (t : TileAt) (f : Tile → Tile) (s : State) : (updTile t f s).placing = s.placing := rfl
@[simp] theorem updTile_memo (t : TileAt) (f : Tile → Tile) (s : State) : (updTile t f s).memo = s.memo := rfl
@[simp] theorem updTile_watches (t : TileAt) (f : Tile → Tile) (s : State) : (updTile t f s).watches = s.watches := rfl
@[simp] theorem updTile_snet (t : TileAt) (f : Tile → Tile) (s : State) : (updTile t f s).snet = s.snet := rfl
@[simp] theorem updTile_hostif (t : TileAt) (f : Tile → Tile) (s : State) : (updTile t f s).hostif = s.hostif := rfl
@[simp] theorem updTile_stage (t : TileAt) (f : Tile → Tile) (s : State) : (updTile t f s).stage = s.stage := rfl
@[simp] theorem updTile_reserved (t : TileAt) (f : Tile → Tile) (s : State) : (updTile t f s).reserved = s.reserved := rfl
@[simp] theorem updTile_edge (t : TileAt) (f : Tile → Tile) (s : State) : (updTile t f s).edge = s.edge := rfl
@[simp] theorem updTile_colls (t : TileAt) (f : Tile → Tile) (s : State) : (updTile t f s).colls = s.colls := rfl
@[simp] theorem updTile_nextCid (t : TileAt) (f : Tile → Tile) (s : State) : (updTile t f s).nextCid = s.nextCid := rfl
@[simp] theorem updTile_sealHubs (t : TileAt) (f : Tile → Tile) (s : State) : (updTile t f s).sealHubs = s.sealHubs := rfl
@[simp] theorem updTile_adders (t : TileAt) (f : Tile → Tile) (s : State) : (updTile t f s).adders = s.adders := rfl
@[simp] theorem updTile_marks (t : TileAt) (f : Tile → Tile) (s : State) : (updTile t f s).marks = s.marks := rfl
@[simp] theorem updTile_moving (t : TileAt) (f : Tile → Tile) (s : State) : (updTile t f s).moving = s.moving := rfl
@[simp] theorem updTile_deferred (t : TileAt) (f : Tile → Tile) (s : State) : (updTile t f s).deferred = s.deferred := rfl
@[simp] theorem updTile_atClose (t : TileAt) (f : Tile → Tile) (s : State) : (updTile t f s).atClose = s.atClose := rfl
@[simp] theorem updTile_log (t : TileAt) (f : Tile → Tile) (s : State) : (updTile t f s).log = s.log := rfl
@[simp] theorem updTile_doms (t : TileAt) (f : Tile → Tile) (s : State) : (updTile t f s).doms = s.doms := rfl
@[simp] theorem updTile_lees (t : TileAt) (f : Tile → Tile) (s : State) : (updTile t f s).lees = s.lees := rfl
@[simp] theorem updTile_leesSeq (t : TileAt) (f : Tile → Tile) (s : State) : (updTile t f s).leesSeq = s.leesSeq := rfl
@[simp] theorem updTile_boot (t : TileAt) (f : Tile → Tile) (s : State) : (updTile t f s).boot = s.boot := rfl
@[simp] theorem updTile_sec (t : TileAt) (f : Tile → Tile) (s : State) : (updTile t f s).sec = s.sec := rfl
@[simp] theorem updTile_sb (t : TileAt) (f : Tile → Tile) (s : State) : (updTile t f s).sb = s.sb := rfl
@[simp] theorem updTile_dbg (t : TileAt) (f : Tile → Tile) (s : State) : (updTile t f s).dbg = s.dbg := rfl
@[simp] theorem updTile_module (t : TileAt) (f : Tile → Tile) (s : State) : (updTile t f s).module = s.module := rfl
@[simp] theorem updTile_out (t : TileAt) (f : Tile → Tile) (s : State) : (updTile t f s).out = s.out := rfl

/-! `updTask` changes only `tiles`. -/
@[simp] theorem updTask_pending (k : TaskAt) (f : Task → Task) (s : State) : (updTask k f s).pending = s.pending := rfl
@[simp] theorem updTask_free (k : TaskAt) (f : Task → Task) (s : State) : (updTask k f s).free = s.free := rfl
@[simp] theorem updTask_time (k : TaskAt) (f : Task → Task) (s : State) : (updTask k f s).time = s.time := rfl
@[simp] theorem updTask_beats (k : TaskAt) (f : Task → Task) (s : State) : (updTask k f s).beats = s.beats := rfl
@[simp] theorem updTask_links (k : TaskAt) (f : Task → Task) (s : State) : (updTask k f s).links = s.links := rfl
@[simp] theorem updTask_parcels (k : TaskAt) (f : Task → Task) (s : State) : (updTask k f s).parcels = s.parcels := rfl
@[simp] theorem updTask_pwr (k : TaskAt) (f : Task → Task) (s : State) : (updTask k f s).pwr = s.pwr := rfl
@[simp] theorem updTask_progs (k : TaskAt) (f : Task → Task) (s : State) : (updTask k f s).progs = s.progs := rfl
@[simp] theorem updTask_placing (k : TaskAt) (f : Task → Task) (s : State) : (updTask k f s).placing = s.placing := rfl
@[simp] theorem updTask_memo (k : TaskAt) (f : Task → Task) (s : State) : (updTask k f s).memo = s.memo := rfl
@[simp] theorem updTask_watches (k : TaskAt) (f : Task → Task) (s : State) : (updTask k f s).watches = s.watches := rfl
@[simp] theorem updTask_snet (k : TaskAt) (f : Task → Task) (s : State) : (updTask k f s).snet = s.snet := rfl
@[simp] theorem updTask_hostif (k : TaskAt) (f : Task → Task) (s : State) : (updTask k f s).hostif = s.hostif := rfl
@[simp] theorem updTask_stage (k : TaskAt) (f : Task → Task) (s : State) : (updTask k f s).stage = s.stage := rfl
@[simp] theorem updTask_reserved (k : TaskAt) (f : Task → Task) (s : State) : (updTask k f s).reserved = s.reserved := rfl
@[simp] theorem updTask_edge (k : TaskAt) (f : Task → Task) (s : State) : (updTask k f s).edge = s.edge := rfl
@[simp] theorem updTask_colls (k : TaskAt) (f : Task → Task) (s : State) : (updTask k f s).colls = s.colls := rfl
@[simp] theorem updTask_nextCid (k : TaskAt) (f : Task → Task) (s : State) : (updTask k f s).nextCid = s.nextCid := rfl
@[simp] theorem updTask_sealHubs (k : TaskAt) (f : Task → Task) (s : State) : (updTask k f s).sealHubs = s.sealHubs := rfl
@[simp] theorem updTask_adders (k : TaskAt) (f : Task → Task) (s : State) : (updTask k f s).adders = s.adders := rfl
@[simp] theorem updTask_marks (k : TaskAt) (f : Task → Task) (s : State) : (updTask k f s).marks = s.marks := rfl
@[simp] theorem updTask_moving (k : TaskAt) (f : Task → Task) (s : State) : (updTask k f s).moving = s.moving := rfl
@[simp] theorem updTask_deferred (k : TaskAt) (f : Task → Task) (s : State) : (updTask k f s).deferred = s.deferred := rfl
@[simp] theorem updTask_atClose (k : TaskAt) (f : Task → Task) (s : State) : (updTask k f s).atClose = s.atClose := rfl
@[simp] theorem updTask_log (k : TaskAt) (f : Task → Task) (s : State) : (updTask k f s).log = s.log := rfl
@[simp] theorem updTask_doms (k : TaskAt) (f : Task → Task) (s : State) : (updTask k f s).doms = s.doms := rfl
@[simp] theorem updTask_lees (k : TaskAt) (f : Task → Task) (s : State) : (updTask k f s).lees = s.lees := rfl
@[simp] theorem updTask_leesSeq (k : TaskAt) (f : Task → Task) (s : State) : (updTask k f s).leesSeq = s.leesSeq := rfl
@[simp] theorem updTask_boot (k : TaskAt) (f : Task → Task) (s : State) : (updTask k f s).boot = s.boot := rfl
@[simp] theorem updTask_sec (k : TaskAt) (f : Task → Task) (s : State) : (updTask k f s).sec = s.sec := rfl
@[simp] theorem updTask_sb (k : TaskAt) (f : Task → Task) (s : State) : (updTask k f s).sb = s.sb := rfl
@[simp] theorem updTask_dbg (k : TaskAt) (f : Task → Task) (s : State) : (updTask k f s).dbg = s.dbg := rfl
@[simp] theorem updTask_module (k : TaskAt) (f : Task → Task) (s : State) : (updTask k f s).module = s.module := rfl
@[simp] theorem updTask_out (k : TaskAt) (f : Task → Task) (s : State) : (updTask k f s).out = s.out := rfl

/-! `schedule` changes only `tiles`. -/
@[simp] theorem schedule_pending (t : TileAt) (due : Nat) (early : Bool) (r : Reader) (a : Act) (s : State) : (schedule t due early r a s).pending = s.pending := rfl
@[simp] theorem schedule_free (t : TileAt) (due : Nat) (early : Bool) (r : Reader) (a : Act) (s : State) : (schedule t due early r a s).free = s.free := rfl
@[simp] theorem schedule_time (t : TileAt) (due : Nat) (early : Bool) (r : Reader) (a : Act) (s : State) : (schedule t due early r a s).time = s.time := rfl
@[simp] theorem schedule_beats (t : TileAt) (due : Nat) (early : Bool) (r : Reader) (a : Act) (s : State) : (schedule t due early r a s).beats = s.beats := rfl
@[simp] theorem schedule_links (t : TileAt) (due : Nat) (early : Bool) (r : Reader) (a : Act) (s : State) : (schedule t due early r a s).links = s.links := rfl
@[simp] theorem schedule_parcels (t : TileAt) (due : Nat) (early : Bool) (r : Reader) (a : Act) (s : State) : (schedule t due early r a s).parcels = s.parcels := rfl
@[simp] theorem schedule_pwr (t : TileAt) (due : Nat) (early : Bool) (r : Reader) (a : Act) (s : State) : (schedule t due early r a s).pwr = s.pwr := rfl
@[simp] theorem schedule_progs (t : TileAt) (due : Nat) (early : Bool) (r : Reader) (a : Act) (s : State) : (schedule t due early r a s).progs = s.progs := rfl
@[simp] theorem schedule_placing (t : TileAt) (due : Nat) (early : Bool) (r : Reader) (a : Act) (s : State) : (schedule t due early r a s).placing = s.placing := rfl
@[simp] theorem schedule_memo (t : TileAt) (due : Nat) (early : Bool) (r : Reader) (a : Act) (s : State) : (schedule t due early r a s).memo = s.memo := rfl
@[simp] theorem schedule_watches (t : TileAt) (due : Nat) (early : Bool) (r : Reader) (a : Act) (s : State) : (schedule t due early r a s).watches = s.watches := rfl
@[simp] theorem schedule_snet (t : TileAt) (due : Nat) (early : Bool) (r : Reader) (a : Act) (s : State) : (schedule t due early r a s).snet = s.snet := rfl
@[simp] theorem schedule_hostif (t : TileAt) (due : Nat) (early : Bool) (r : Reader) (a : Act) (s : State) : (schedule t due early r a s).hostif = s.hostif := rfl
@[simp] theorem schedule_stage (t : TileAt) (due : Nat) (early : Bool) (r : Reader) (a : Act) (s : State) : (schedule t due early r a s).stage = s.stage := rfl
@[simp] theorem schedule_reserved (t : TileAt) (due : Nat) (early : Bool) (r : Reader) (a : Act) (s : State) : (schedule t due early r a s).reserved = s.reserved := rfl
@[simp] theorem schedule_edge (t : TileAt) (due : Nat) (early : Bool) (r : Reader) (a : Act) (s : State) : (schedule t due early r a s).edge = s.edge := rfl
@[simp] theorem schedule_colls (t : TileAt) (due : Nat) (early : Bool) (r : Reader) (a : Act) (s : State) : (schedule t due early r a s).colls = s.colls := rfl
@[simp] theorem schedule_nextCid (t : TileAt) (due : Nat) (early : Bool) (r : Reader) (a : Act) (s : State) : (schedule t due early r a s).nextCid = s.nextCid := rfl
@[simp] theorem schedule_sealHubs (t : TileAt) (due : Nat) (early : Bool) (r : Reader) (a : Act) (s : State) : (schedule t due early r a s).sealHubs = s.sealHubs := rfl
@[simp] theorem schedule_adders (t : TileAt) (due : Nat) (early : Bool) (r : Reader) (a : Act) (s : State) : (schedule t due early r a s).adders = s.adders := rfl
@[simp] theorem schedule_marks (t : TileAt) (due : Nat) (early : Bool) (r : Reader) (a : Act) (s : State) : (schedule t due early r a s).marks = s.marks := rfl
@[simp] theorem schedule_moving (t : TileAt) (due : Nat) (early : Bool) (r : Reader) (a : Act) (s : State) : (schedule t due early r a s).moving = s.moving := rfl
@[simp] theorem schedule_deferred (t : TileAt) (due : Nat) (early : Bool) (r : Reader) (a : Act) (s : State) : (schedule t due early r a s).deferred = s.deferred := rfl
@[simp] theorem schedule_atClose (t : TileAt) (due : Nat) (early : Bool) (r : Reader) (a : Act) (s : State) : (schedule t due early r a s).atClose = s.atClose := rfl
@[simp] theorem schedule_log (t : TileAt) (due : Nat) (early : Bool) (r : Reader) (a : Act) (s : State) : (schedule t due early r a s).log = s.log := rfl
@[simp] theorem schedule_doms (t : TileAt) (due : Nat) (early : Bool) (r : Reader) (a : Act) (s : State) : (schedule t due early r a s).doms = s.doms := rfl
@[simp] theorem schedule_lees (t : TileAt) (due : Nat) (early : Bool) (r : Reader) (a : Act) (s : State) : (schedule t due early r a s).lees = s.lees := rfl
@[simp] theorem schedule_leesSeq (t : TileAt) (due : Nat) (early : Bool) (r : Reader) (a : Act) (s : State) : (schedule t due early r a s).leesSeq = s.leesSeq := rfl
@[simp] theorem schedule_boot (t : TileAt) (due : Nat) (early : Bool) (r : Reader) (a : Act) (s : State) : (schedule t due early r a s).boot = s.boot := rfl
@[simp] theorem schedule_sec (t : TileAt) (due : Nat) (early : Bool) (r : Reader) (a : Act) (s : State) : (schedule t due early r a s).sec = s.sec := rfl
@[simp] theorem schedule_sb (t : TileAt) (due : Nat) (early : Bool) (r : Reader) (a : Act) (s : State) : (schedule t due early r a s).sb = s.sb := rfl
@[simp] theorem schedule_dbg (t : TileAt) (due : Nat) (early : Bool) (r : Reader) (a : Act) (s : State) : (schedule t due early r a s).dbg = s.dbg := rfl
@[simp] theorem schedule_module (t : TileAt) (due : Nat) (early : Bool) (r : Reader) (a : Act) (s : State) : (schedule t due early r a s).module = s.module := rfl
@[simp] theorem schedule_out (t : TileAt) (due : Nat) (early : Bool) (r : Reader) (a : Act) (s : State) : (schedule t due early r a s).out = s.out := rfl

/-! `putVec` changes only `tiles`. -/
@[simp] theorem putVec_pending (k : TaskAt) (vd : BitVec 3) (v : Line) (rng : Word) (s : State) : (putVec k vd v rng s).pending = s.pending := rfl
@[simp] theorem putVec_free (k : TaskAt) (vd : BitVec 3) (v : Line) (rng : Word) (s : State) : (putVec k vd v rng s).free = s.free := rfl
@[simp] theorem putVec_time (k : TaskAt) (vd : BitVec 3) (v : Line) (rng : Word) (s : State) : (putVec k vd v rng s).time = s.time := rfl
@[simp] theorem putVec_beats (k : TaskAt) (vd : BitVec 3) (v : Line) (rng : Word) (s : State) : (putVec k vd v rng s).beats = s.beats := rfl
@[simp] theorem putVec_links (k : TaskAt) (vd : BitVec 3) (v : Line) (rng : Word) (s : State) : (putVec k vd v rng s).links = s.links := rfl
@[simp] theorem putVec_parcels (k : TaskAt) (vd : BitVec 3) (v : Line) (rng : Word) (s : State) : (putVec k vd v rng s).parcels = s.parcels := rfl
@[simp] theorem putVec_pwr (k : TaskAt) (vd : BitVec 3) (v : Line) (rng : Word) (s : State) : (putVec k vd v rng s).pwr = s.pwr := rfl
@[simp] theorem putVec_progs (k : TaskAt) (vd : BitVec 3) (v : Line) (rng : Word) (s : State) : (putVec k vd v rng s).progs = s.progs := rfl
@[simp] theorem putVec_placing (k : TaskAt) (vd : BitVec 3) (v : Line) (rng : Word) (s : State) : (putVec k vd v rng s).placing = s.placing := rfl
@[simp] theorem putVec_memo (k : TaskAt) (vd : BitVec 3) (v : Line) (rng : Word) (s : State) : (putVec k vd v rng s).memo = s.memo := rfl
@[simp] theorem putVec_watches (k : TaskAt) (vd : BitVec 3) (v : Line) (rng : Word) (s : State) : (putVec k vd v rng s).watches = s.watches := rfl
@[simp] theorem putVec_snet (k : TaskAt) (vd : BitVec 3) (v : Line) (rng : Word) (s : State) : (putVec k vd v rng s).snet = s.snet := rfl
@[simp] theorem putVec_hostif (k : TaskAt) (vd : BitVec 3) (v : Line) (rng : Word) (s : State) : (putVec k vd v rng s).hostif = s.hostif := rfl
@[simp] theorem putVec_stage (k : TaskAt) (vd : BitVec 3) (v : Line) (rng : Word) (s : State) : (putVec k vd v rng s).stage = s.stage := rfl
@[simp] theorem putVec_reserved (k : TaskAt) (vd : BitVec 3) (v : Line) (rng : Word) (s : State) : (putVec k vd v rng s).reserved = s.reserved := rfl
@[simp] theorem putVec_edge (k : TaskAt) (vd : BitVec 3) (v : Line) (rng : Word) (s : State) : (putVec k vd v rng s).edge = s.edge := rfl
@[simp] theorem putVec_colls (k : TaskAt) (vd : BitVec 3) (v : Line) (rng : Word) (s : State) : (putVec k vd v rng s).colls = s.colls := rfl
@[simp] theorem putVec_nextCid (k : TaskAt) (vd : BitVec 3) (v : Line) (rng : Word) (s : State) : (putVec k vd v rng s).nextCid = s.nextCid := rfl
@[simp] theorem putVec_sealHubs (k : TaskAt) (vd : BitVec 3) (v : Line) (rng : Word) (s : State) : (putVec k vd v rng s).sealHubs = s.sealHubs := rfl
@[simp] theorem putVec_adders (k : TaskAt) (vd : BitVec 3) (v : Line) (rng : Word) (s : State) : (putVec k vd v rng s).adders = s.adders := rfl
@[simp] theorem putVec_marks (k : TaskAt) (vd : BitVec 3) (v : Line) (rng : Word) (s : State) : (putVec k vd v rng s).marks = s.marks := rfl
@[simp] theorem putVec_moving (k : TaskAt) (vd : BitVec 3) (v : Line) (rng : Word) (s : State) : (putVec k vd v rng s).moving = s.moving := rfl
@[simp] theorem putVec_deferred (k : TaskAt) (vd : BitVec 3) (v : Line) (rng : Word) (s : State) : (putVec k vd v rng s).deferred = s.deferred := rfl
@[simp] theorem putVec_atClose (k : TaskAt) (vd : BitVec 3) (v : Line) (rng : Word) (s : State) : (putVec k vd v rng s).atClose = s.atClose := rfl
@[simp] theorem putVec_log (k : TaskAt) (vd : BitVec 3) (v : Line) (rng : Word) (s : State) : (putVec k vd v rng s).log = s.log := rfl
@[simp] theorem putVec_doms (k : TaskAt) (vd : BitVec 3) (v : Line) (rng : Word) (s : State) : (putVec k vd v rng s).doms = s.doms := rfl
@[simp] theorem putVec_lees (k : TaskAt) (vd : BitVec 3) (v : Line) (rng : Word) (s : State) : (putVec k vd v rng s).lees = s.lees := rfl
@[simp] theorem putVec_leesSeq (k : TaskAt) (vd : BitVec 3) (v : Line) (rng : Word) (s : State) : (putVec k vd v rng s).leesSeq = s.leesSeq := rfl
@[simp] theorem putVec_boot (k : TaskAt) (vd : BitVec 3) (v : Line) (rng : Word) (s : State) : (putVec k vd v rng s).boot = s.boot := rfl
@[simp] theorem putVec_sec (k : TaskAt) (vd : BitVec 3) (v : Line) (rng : Word) (s : State) : (putVec k vd v rng s).sec = s.sec := rfl
@[simp] theorem putVec_sb (k : TaskAt) (vd : BitVec 3) (v : Line) (rng : Word) (s : State) : (putVec k vd v rng s).sb = s.sb := rfl
@[simp] theorem putVec_dbg (k : TaskAt) (vd : BitVec 3) (v : Line) (rng : Word) (s : State) : (putVec k vd v rng s).dbg = s.dbg := rfl
@[simp] theorem putVec_module (k : TaskAt) (vd : BitVec 3) (v : Line) (rng : Word) (s : State) : (putVec k vd v rng s).module = s.module := rfl
@[simp] theorem putVec_out (k : TaskAt) (vd : BitVec 3) (v : Line) (rng : Word) (s : State) : (putVec k vd v rng s).out = s.out := rfl

/-! `countOwn` changes only `tiles`. -/
@[simp] theorem countOwn_pending (k : TaskAt) (s : State) : (countOwn k s).pending = s.pending := rfl
@[simp] theorem countOwn_free (k : TaskAt) (s : State) : (countOwn k s).free = s.free := rfl
@[simp] theorem countOwn_time (k : TaskAt) (s : State) : (countOwn k s).time = s.time := rfl
@[simp] theorem countOwn_beats (k : TaskAt) (s : State) : (countOwn k s).beats = s.beats := rfl
@[simp] theorem countOwn_links (k : TaskAt) (s : State) : (countOwn k s).links = s.links := rfl
@[simp] theorem countOwn_parcels (k : TaskAt) (s : State) : (countOwn k s).parcels = s.parcels := rfl
@[simp] theorem countOwn_pwr (k : TaskAt) (s : State) : (countOwn k s).pwr = s.pwr := rfl
@[simp] theorem countOwn_progs (k : TaskAt) (s : State) : (countOwn k s).progs = s.progs := rfl
@[simp] theorem countOwn_placing (k : TaskAt) (s : State) : (countOwn k s).placing = s.placing := rfl
@[simp] theorem countOwn_memo (k : TaskAt) (s : State) : (countOwn k s).memo = s.memo := rfl
@[simp] theorem countOwn_watches (k : TaskAt) (s : State) : (countOwn k s).watches = s.watches := rfl
@[simp] theorem countOwn_snet (k : TaskAt) (s : State) : (countOwn k s).snet = s.snet := rfl
@[simp] theorem countOwn_hostif (k : TaskAt) (s : State) : (countOwn k s).hostif = s.hostif := rfl
@[simp] theorem countOwn_stage (k : TaskAt) (s : State) : (countOwn k s).stage = s.stage := rfl
@[simp] theorem countOwn_reserved (k : TaskAt) (s : State) : (countOwn k s).reserved = s.reserved := rfl
@[simp] theorem countOwn_edge (k : TaskAt) (s : State) : (countOwn k s).edge = s.edge := rfl
@[simp] theorem countOwn_colls (k : TaskAt) (s : State) : (countOwn k s).colls = s.colls := rfl
@[simp] theorem countOwn_nextCid (k : TaskAt) (s : State) : (countOwn k s).nextCid = s.nextCid := rfl
@[simp] theorem countOwn_sealHubs (k : TaskAt) (s : State) : (countOwn k s).sealHubs = s.sealHubs := rfl
@[simp] theorem countOwn_adders (k : TaskAt) (s : State) : (countOwn k s).adders = s.adders := rfl
@[simp] theorem countOwn_marks (k : TaskAt) (s : State) : (countOwn k s).marks = s.marks := rfl
@[simp] theorem countOwn_moving (k : TaskAt) (s : State) : (countOwn k s).moving = s.moving := rfl
@[simp] theorem countOwn_deferred (k : TaskAt) (s : State) : (countOwn k s).deferred = s.deferred := rfl
@[simp] theorem countOwn_atClose (k : TaskAt) (s : State) : (countOwn k s).atClose = s.atClose := rfl
@[simp] theorem countOwn_log (k : TaskAt) (s : State) : (countOwn k s).log = s.log := rfl
@[simp] theorem countOwn_doms (k : TaskAt) (s : State) : (countOwn k s).doms = s.doms := rfl
@[simp] theorem countOwn_lees (k : TaskAt) (s : State) : (countOwn k s).lees = s.lees := rfl
@[simp] theorem countOwn_leesSeq (k : TaskAt) (s : State) : (countOwn k s).leesSeq = s.leesSeq := rfl
@[simp] theorem countOwn_boot (k : TaskAt) (s : State) : (countOwn k s).boot = s.boot := rfl
@[simp] theorem countOwn_sec (k : TaskAt) (s : State) : (countOwn k s).sec = s.sec := rfl
@[simp] theorem countOwn_sb (k : TaskAt) (s : State) : (countOwn k s).sb = s.sb := rfl
@[simp] theorem countOwn_dbg (k : TaskAt) (s : State) : (countOwn k s).dbg = s.dbg := rfl
@[simp] theorem countOwn_module (k : TaskAt) (s : State) : (countOwn k s).module = s.module := rfl
@[simp] theorem countOwn_out (k : TaskAt) (s : State) : (countOwn k s).out = s.out := rfl

/-! `storeLine` changes only `tiles`. -/
@[simp] theorem storeLine_pending (t : TileAt) (m : MemSpace) (line : Nat) (v : Line) (s : State) : (storeLine t m line v s).pending = s.pending := rfl
@[simp] theorem storeLine_free (t : TileAt) (m : MemSpace) (line : Nat) (v : Line) (s : State) : (storeLine t m line v s).free = s.free := rfl
@[simp] theorem storeLine_time (t : TileAt) (m : MemSpace) (line : Nat) (v : Line) (s : State) : (storeLine t m line v s).time = s.time := rfl
@[simp] theorem storeLine_beats (t : TileAt) (m : MemSpace) (line : Nat) (v : Line) (s : State) : (storeLine t m line v s).beats = s.beats := rfl
@[simp] theorem storeLine_links (t : TileAt) (m : MemSpace) (line : Nat) (v : Line) (s : State) : (storeLine t m line v s).links = s.links := rfl
@[simp] theorem storeLine_parcels (t : TileAt) (m : MemSpace) (line : Nat) (v : Line) (s : State) : (storeLine t m line v s).parcels = s.parcels := rfl
@[simp] theorem storeLine_pwr (t : TileAt) (m : MemSpace) (line : Nat) (v : Line) (s : State) : (storeLine t m line v s).pwr = s.pwr := rfl
@[simp] theorem storeLine_progs (t : TileAt) (m : MemSpace) (line : Nat) (v : Line) (s : State) : (storeLine t m line v s).progs = s.progs := rfl
@[simp] theorem storeLine_placing (t : TileAt) (m : MemSpace) (line : Nat) (v : Line) (s : State) : (storeLine t m line v s).placing = s.placing := rfl
@[simp] theorem storeLine_memo (t : TileAt) (m : MemSpace) (line : Nat) (v : Line) (s : State) : (storeLine t m line v s).memo = s.memo := rfl
@[simp] theorem storeLine_watches (t : TileAt) (m : MemSpace) (line : Nat) (v : Line) (s : State) : (storeLine t m line v s).watches = s.watches := rfl
@[simp] theorem storeLine_snet (t : TileAt) (m : MemSpace) (line : Nat) (v : Line) (s : State) : (storeLine t m line v s).snet = s.snet := rfl
@[simp] theorem storeLine_hostif (t : TileAt) (m : MemSpace) (line : Nat) (v : Line) (s : State) : (storeLine t m line v s).hostif = s.hostif := rfl
@[simp] theorem storeLine_stage (t : TileAt) (m : MemSpace) (line : Nat) (v : Line) (s : State) : (storeLine t m line v s).stage = s.stage := rfl
@[simp] theorem storeLine_reserved (t : TileAt) (m : MemSpace) (line : Nat) (v : Line) (s : State) : (storeLine t m line v s).reserved = s.reserved := rfl
@[simp] theorem storeLine_edge (t : TileAt) (m : MemSpace) (line : Nat) (v : Line) (s : State) : (storeLine t m line v s).edge = s.edge := rfl
@[simp] theorem storeLine_colls (t : TileAt) (m : MemSpace) (line : Nat) (v : Line) (s : State) : (storeLine t m line v s).colls = s.colls := rfl
@[simp] theorem storeLine_nextCid (t : TileAt) (m : MemSpace) (line : Nat) (v : Line) (s : State) : (storeLine t m line v s).nextCid = s.nextCid := rfl
@[simp] theorem storeLine_sealHubs (t : TileAt) (m : MemSpace) (line : Nat) (v : Line) (s : State) : (storeLine t m line v s).sealHubs = s.sealHubs := rfl
@[simp] theorem storeLine_adders (t : TileAt) (m : MemSpace) (line : Nat) (v : Line) (s : State) : (storeLine t m line v s).adders = s.adders := rfl
@[simp] theorem storeLine_marks (t : TileAt) (m : MemSpace) (line : Nat) (v : Line) (s : State) : (storeLine t m line v s).marks = s.marks := rfl
@[simp] theorem storeLine_moving (t : TileAt) (m : MemSpace) (line : Nat) (v : Line) (s : State) : (storeLine t m line v s).moving = s.moving := rfl
@[simp] theorem storeLine_deferred (t : TileAt) (m : MemSpace) (line : Nat) (v : Line) (s : State) : (storeLine t m line v s).deferred = s.deferred := rfl
@[simp] theorem storeLine_atClose (t : TileAt) (m : MemSpace) (line : Nat) (v : Line) (s : State) : (storeLine t m line v s).atClose = s.atClose := rfl
@[simp] theorem storeLine_log (t : TileAt) (m : MemSpace) (line : Nat) (v : Line) (s : State) : (storeLine t m line v s).log = s.log := rfl
@[simp] theorem storeLine_doms (t : TileAt) (m : MemSpace) (line : Nat) (v : Line) (s : State) : (storeLine t m line v s).doms = s.doms := rfl
@[simp] theorem storeLine_lees (t : TileAt) (m : MemSpace) (line : Nat) (v : Line) (s : State) : (storeLine t m line v s).lees = s.lees := rfl
@[simp] theorem storeLine_leesSeq (t : TileAt) (m : MemSpace) (line : Nat) (v : Line) (s : State) : (storeLine t m line v s).leesSeq = s.leesSeq := rfl
@[simp] theorem storeLine_boot (t : TileAt) (m : MemSpace) (line : Nat) (v : Line) (s : State) : (storeLine t m line v s).boot = s.boot := rfl
@[simp] theorem storeLine_sec (t : TileAt) (m : MemSpace) (line : Nat) (v : Line) (s : State) : (storeLine t m line v s).sec = s.sec := rfl
@[simp] theorem storeLine_sb (t : TileAt) (m : MemSpace) (line : Nat) (v : Line) (s : State) : (storeLine t m line v s).sb = s.sb := rfl
@[simp] theorem storeLine_dbg (t : TileAt) (m : MemSpace) (line : Nat) (v : Line) (s : State) : (storeLine t m line v s).dbg = s.dbg := rfl
@[simp] theorem storeLine_module (t : TileAt) (m : MemSpace) (line : Nat) (v : Line) (s : State) : (storeLine t m line v s).module = s.module := rfl
@[simp] theorem storeLine_out (t : TileAt) (m : MemSpace) (line : Nat) (v : Line) (s : State) : (storeLine t m line v s).out = s.out := rfl

/-! `storeBytes` changes only `tiles`. -/
@[simp] theorem storeBytes_pending (t : TileAt) (a n v : Nat) (s : State) : (storeBytes t a n v s).pending = s.pending := rfl
@[simp] theorem storeBytes_free (t : TileAt) (a n v : Nat) (s : State) : (storeBytes t a n v s).free = s.free := rfl
@[simp] theorem storeBytes_time (t : TileAt) (a n v : Nat) (s : State) : (storeBytes t a n v s).time = s.time := rfl
@[simp] theorem storeBytes_beats (t : TileAt) (a n v : Nat) (s : State) : (storeBytes t a n v s).beats = s.beats := rfl
@[simp] theorem storeBytes_links (t : TileAt) (a n v : Nat) (s : State) : (storeBytes t a n v s).links = s.links := rfl
@[simp] theorem storeBytes_parcels (t : TileAt) (a n v : Nat) (s : State) : (storeBytes t a n v s).parcels = s.parcels := rfl
@[simp] theorem storeBytes_pwr (t : TileAt) (a n v : Nat) (s : State) : (storeBytes t a n v s).pwr = s.pwr := rfl
@[simp] theorem storeBytes_progs (t : TileAt) (a n v : Nat) (s : State) : (storeBytes t a n v s).progs = s.progs := rfl
@[simp] theorem storeBytes_placing (t : TileAt) (a n v : Nat) (s : State) : (storeBytes t a n v s).placing = s.placing := rfl
@[simp] theorem storeBytes_memo (t : TileAt) (a n v : Nat) (s : State) : (storeBytes t a n v s).memo = s.memo := rfl
@[simp] theorem storeBytes_watches (t : TileAt) (a n v : Nat) (s : State) : (storeBytes t a n v s).watches = s.watches := rfl
@[simp] theorem storeBytes_snet (t : TileAt) (a n v : Nat) (s : State) : (storeBytes t a n v s).snet = s.snet := rfl
@[simp] theorem storeBytes_hostif (t : TileAt) (a n v : Nat) (s : State) : (storeBytes t a n v s).hostif = s.hostif := rfl
@[simp] theorem storeBytes_stage (t : TileAt) (a n v : Nat) (s : State) : (storeBytes t a n v s).stage = s.stage := rfl
@[simp] theorem storeBytes_reserved (t : TileAt) (a n v : Nat) (s : State) : (storeBytes t a n v s).reserved = s.reserved := rfl
@[simp] theorem storeBytes_edge (t : TileAt) (a n v : Nat) (s : State) : (storeBytes t a n v s).edge = s.edge := rfl
@[simp] theorem storeBytes_colls (t : TileAt) (a n v : Nat) (s : State) : (storeBytes t a n v s).colls = s.colls := rfl
@[simp] theorem storeBytes_nextCid (t : TileAt) (a n v : Nat) (s : State) : (storeBytes t a n v s).nextCid = s.nextCid := rfl
@[simp] theorem storeBytes_sealHubs (t : TileAt) (a n v : Nat) (s : State) : (storeBytes t a n v s).sealHubs = s.sealHubs := rfl
@[simp] theorem storeBytes_adders (t : TileAt) (a n v : Nat) (s : State) : (storeBytes t a n v s).adders = s.adders := rfl
@[simp] theorem storeBytes_marks (t : TileAt) (a n v : Nat) (s : State) : (storeBytes t a n v s).marks = s.marks := rfl
@[simp] theorem storeBytes_moving (t : TileAt) (a n v : Nat) (s : State) : (storeBytes t a n v s).moving = s.moving := rfl
@[simp] theorem storeBytes_deferred (t : TileAt) (a n v : Nat) (s : State) : (storeBytes t a n v s).deferred = s.deferred := rfl
@[simp] theorem storeBytes_atClose (t : TileAt) (a n v : Nat) (s : State) : (storeBytes t a n v s).atClose = s.atClose := rfl
@[simp] theorem storeBytes_log (t : TileAt) (a n v : Nat) (s : State) : (storeBytes t a n v s).log = s.log := rfl
@[simp] theorem storeBytes_doms (t : TileAt) (a n v : Nat) (s : State) : (storeBytes t a n v s).doms = s.doms := rfl
@[simp] theorem storeBytes_lees (t : TileAt) (a n v : Nat) (s : State) : (storeBytes t a n v s).lees = s.lees := rfl
@[simp] theorem storeBytes_leesSeq (t : TileAt) (a n v : Nat) (s : State) : (storeBytes t a n v s).leesSeq = s.leesSeq := rfl
@[simp] theorem storeBytes_boot (t : TileAt) (a n v : Nat) (s : State) : (storeBytes t a n v s).boot = s.boot := rfl
@[simp] theorem storeBytes_sec (t : TileAt) (a n v : Nat) (s : State) : (storeBytes t a n v s).sec = s.sec := rfl
@[simp] theorem storeBytes_sb (t : TileAt) (a n v : Nat) (s : State) : (storeBytes t a n v s).sb = s.sb := rfl
@[simp] theorem storeBytes_dbg (t : TileAt) (a n v : Nat) (s : State) : (storeBytes t a n v s).dbg = s.dbg := rfl
@[simp] theorem storeBytes_module (t : TileAt) (a n v : Nat) (s : State) : (storeBytes t a n v s).module = s.module := rfl
@[simp] theorem storeBytes_out (t : TileAt) (a n v : Nat) (s : State) : (storeBytes t a n v s).out = s.out := rfl

/-! `pushWord` changes only `links`. -/
@[simp] theorem pushWord_pending (t : TileAt) (port beat : Nat) (w : TWord) (s : State) : (pushWord t port beat w s).pending = s.pending := rfl
@[simp] theorem pushWord_free (t : TileAt) (port beat : Nat) (w : TWord) (s : State) : (pushWord t port beat w s).free = s.free := rfl
@[simp] theorem pushWord_time (t : TileAt) (port beat : Nat) (w : TWord) (s : State) : (pushWord t port beat w s).time = s.time := rfl
@[simp] theorem pushWord_beats (t : TileAt) (port beat : Nat) (w : TWord) (s : State) : (pushWord t port beat w s).beats = s.beats := rfl
@[simp] theorem pushWord_tiles (t : TileAt) (port beat : Nat) (w : TWord) (s : State) : (pushWord t port beat w s).tiles = s.tiles := rfl
@[simp] theorem pushWord_parcels (t : TileAt) (port beat : Nat) (w : TWord) (s : State) : (pushWord t port beat w s).parcels = s.parcels := rfl
@[simp] theorem pushWord_pwr (t : TileAt) (port beat : Nat) (w : TWord) (s : State) : (pushWord t port beat w s).pwr = s.pwr := rfl
@[simp] theorem pushWord_progs (t : TileAt) (port beat : Nat) (w : TWord) (s : State) : (pushWord t port beat w s).progs = s.progs := rfl
@[simp] theorem pushWord_placing (t : TileAt) (port beat : Nat) (w : TWord) (s : State) : (pushWord t port beat w s).placing = s.placing := rfl
@[simp] theorem pushWord_memo (t : TileAt) (port beat : Nat) (w : TWord) (s : State) : (pushWord t port beat w s).memo = s.memo := rfl
@[simp] theorem pushWord_watches (t : TileAt) (port beat : Nat) (w : TWord) (s : State) : (pushWord t port beat w s).watches = s.watches := rfl
@[simp] theorem pushWord_snet (t : TileAt) (port beat : Nat) (w : TWord) (s : State) : (pushWord t port beat w s).snet = s.snet := rfl
@[simp] theorem pushWord_hostif (t : TileAt) (port beat : Nat) (w : TWord) (s : State) : (pushWord t port beat w s).hostif = s.hostif := rfl
@[simp] theorem pushWord_stage (t : TileAt) (port beat : Nat) (w : TWord) (s : State) : (pushWord t port beat w s).stage = s.stage := rfl
@[simp] theorem pushWord_reserved (t : TileAt) (port beat : Nat) (w : TWord) (s : State) : (pushWord t port beat w s).reserved = s.reserved := rfl
@[simp] theorem pushWord_edge (t : TileAt) (port beat : Nat) (w : TWord) (s : State) : (pushWord t port beat w s).edge = s.edge := rfl
@[simp] theorem pushWord_colls (t : TileAt) (port beat : Nat) (w : TWord) (s : State) : (pushWord t port beat w s).colls = s.colls := rfl
@[simp] theorem pushWord_nextCid (t : TileAt) (port beat : Nat) (w : TWord) (s : State) : (pushWord t port beat w s).nextCid = s.nextCid := rfl
@[simp] theorem pushWord_sealHubs (t : TileAt) (port beat : Nat) (w : TWord) (s : State) : (pushWord t port beat w s).sealHubs = s.sealHubs := rfl
@[simp] theorem pushWord_adders (t : TileAt) (port beat : Nat) (w : TWord) (s : State) : (pushWord t port beat w s).adders = s.adders := rfl
@[simp] theorem pushWord_marks (t : TileAt) (port beat : Nat) (w : TWord) (s : State) : (pushWord t port beat w s).marks = s.marks := rfl
@[simp] theorem pushWord_moving (t : TileAt) (port beat : Nat) (w : TWord) (s : State) : (pushWord t port beat w s).moving = s.moving := rfl
@[simp] theorem pushWord_deferred (t : TileAt) (port beat : Nat) (w : TWord) (s : State) : (pushWord t port beat w s).deferred = s.deferred := rfl
@[simp] theorem pushWord_atClose (t : TileAt) (port beat : Nat) (w : TWord) (s : State) : (pushWord t port beat w s).atClose = s.atClose := rfl
@[simp] theorem pushWord_log (t : TileAt) (port beat : Nat) (w : TWord) (s : State) : (pushWord t port beat w s).log = s.log := rfl
@[simp] theorem pushWord_doms (t : TileAt) (port beat : Nat) (w : TWord) (s : State) : (pushWord t port beat w s).doms = s.doms := rfl
@[simp] theorem pushWord_lees (t : TileAt) (port beat : Nat) (w : TWord) (s : State) : (pushWord t port beat w s).lees = s.lees := rfl
@[simp] theorem pushWord_leesSeq (t : TileAt) (port beat : Nat) (w : TWord) (s : State) : (pushWord t port beat w s).leesSeq = s.leesSeq := rfl
@[simp] theorem pushWord_boot (t : TileAt) (port beat : Nat) (w : TWord) (s : State) : (pushWord t port beat w s).boot = s.boot := rfl
@[simp] theorem pushWord_sec (t : TileAt) (port beat : Nat) (w : TWord) (s : State) : (pushWord t port beat w s).sec = s.sec := rfl
@[simp] theorem pushWord_sb (t : TileAt) (port beat : Nat) (w : TWord) (s : State) : (pushWord t port beat w s).sb = s.sb := rfl
@[simp] theorem pushWord_dbg (t : TileAt) (port beat : Nat) (w : TWord) (s : State) : (pushWord t port beat w s).dbg = s.dbg := rfl
@[simp] theorem pushWord_module (t : TileAt) (port beat : Nat) (w : TWord) (s : State) : (pushWord t port beat w s).module = s.module := rfl
@[simp] theorem pushWord_out (t : TileAt) (port beat : Nat) (w : TWord) (s : State) : (pushWord t port beat w s).out = s.out := rfl

/-! `setProg` changes only `progs`. -/
@[simp] theorem setProg_pending (k : Fin 8) (p : Option Prog) (s : State) : (setProg k p s).pending = s.pending := rfl
@[simp] theorem setProg_free (k : Fin 8) (p : Option Prog) (s : State) : (setProg k p s).free = s.free := rfl
@[simp] theorem setProg_time (k : Fin 8) (p : Option Prog) (s : State) : (setProg k p s).time = s.time := rfl
@[simp] theorem setProg_beats (k : Fin 8) (p : Option Prog) (s : State) : (setProg k p s).beats = s.beats := rfl
@[simp] theorem setProg_tiles (k : Fin 8) (p : Option Prog) (s : State) : (setProg k p s).tiles = s.tiles := rfl
@[simp] theorem setProg_links (k : Fin 8) (p : Option Prog) (s : State) : (setProg k p s).links = s.links := rfl
@[simp] theorem setProg_parcels (k : Fin 8) (p : Option Prog) (s : State) : (setProg k p s).parcels = s.parcels := rfl
@[simp] theorem setProg_pwr (k : Fin 8) (p : Option Prog) (s : State) : (setProg k p s).pwr = s.pwr := rfl
@[simp] theorem setProg_placing (k : Fin 8) (p : Option Prog) (s : State) : (setProg k p s).placing = s.placing := rfl
@[simp] theorem setProg_memo (k : Fin 8) (p : Option Prog) (s : State) : (setProg k p s).memo = s.memo := rfl
@[simp] theorem setProg_watches (k : Fin 8) (p : Option Prog) (s : State) : (setProg k p s).watches = s.watches := rfl
@[simp] theorem setProg_snet (k : Fin 8) (p : Option Prog) (s : State) : (setProg k p s).snet = s.snet := rfl
@[simp] theorem setProg_hostif (k : Fin 8) (p : Option Prog) (s : State) : (setProg k p s).hostif = s.hostif := rfl
@[simp] theorem setProg_stage (k : Fin 8) (p : Option Prog) (s : State) : (setProg k p s).stage = s.stage := rfl
@[simp] theorem setProg_reserved (k : Fin 8) (p : Option Prog) (s : State) : (setProg k p s).reserved = s.reserved := rfl
@[simp] theorem setProg_edge (k : Fin 8) (p : Option Prog) (s : State) : (setProg k p s).edge = s.edge := rfl
@[simp] theorem setProg_colls (k : Fin 8) (p : Option Prog) (s : State) : (setProg k p s).colls = s.colls := rfl
@[simp] theorem setProg_nextCid (k : Fin 8) (p : Option Prog) (s : State) : (setProg k p s).nextCid = s.nextCid := rfl
@[simp] theorem setProg_sealHubs (k : Fin 8) (p : Option Prog) (s : State) : (setProg k p s).sealHubs = s.sealHubs := rfl
@[simp] theorem setProg_adders (k : Fin 8) (p : Option Prog) (s : State) : (setProg k p s).adders = s.adders := rfl
@[simp] theorem setProg_marks (k : Fin 8) (p : Option Prog) (s : State) : (setProg k p s).marks = s.marks := rfl
@[simp] theorem setProg_moving (k : Fin 8) (p : Option Prog) (s : State) : (setProg k p s).moving = s.moving := rfl
@[simp] theorem setProg_deferred (k : Fin 8) (p : Option Prog) (s : State) : (setProg k p s).deferred = s.deferred := rfl
@[simp] theorem setProg_atClose (k : Fin 8) (p : Option Prog) (s : State) : (setProg k p s).atClose = s.atClose := rfl
@[simp] theorem setProg_log (k : Fin 8) (p : Option Prog) (s : State) : (setProg k p s).log = s.log := rfl
@[simp] theorem setProg_doms (k : Fin 8) (p : Option Prog) (s : State) : (setProg k p s).doms = s.doms := rfl
@[simp] theorem setProg_lees (k : Fin 8) (p : Option Prog) (s : State) : (setProg k p s).lees = s.lees := rfl
@[simp] theorem setProg_leesSeq (k : Fin 8) (p : Option Prog) (s : State) : (setProg k p s).leesSeq = s.leesSeq := rfl
@[simp] theorem setProg_boot (k : Fin 8) (p : Option Prog) (s : State) : (setProg k p s).boot = s.boot := rfl
@[simp] theorem setProg_sec (k : Fin 8) (p : Option Prog) (s : State) : (setProg k p s).sec = s.sec := rfl
@[simp] theorem setProg_sb (k : Fin 8) (p : Option Prog) (s : State) : (setProg k p s).sb = s.sb := rfl
@[simp] theorem setProg_dbg (k : Fin 8) (p : Option Prog) (s : State) : (setProg k p s).dbg = s.dbg := rfl
@[simp] theorem setProg_module (k : Fin 8) (p : Option Prog) (s : State) : (setProg k p s).module = s.module := rfl
@[simp] theorem setProg_out (k : Fin 8) (p : Option Prog) (s : State) : (setProg k p s).out = s.out := rfl

/-! `updProg` changes only `progs`. -/
@[simp] theorem updProg_pending (k : Fin 8) (f : Prog → Prog) (s : State) : (updProg k f s).pending = s.pending := rfl
@[simp] theorem updProg_free (k : Fin 8) (f : Prog → Prog) (s : State) : (updProg k f s).free = s.free := rfl
@[simp] theorem updProg_time (k : Fin 8) (f : Prog → Prog) (s : State) : (updProg k f s).time = s.time := rfl
@[simp] theorem updProg_beats (k : Fin 8) (f : Prog → Prog) (s : State) : (updProg k f s).beats = s.beats := rfl
@[simp] theorem updProg_tiles (k : Fin 8) (f : Prog → Prog) (s : State) : (updProg k f s).tiles = s.tiles := rfl
@[simp] theorem updProg_links (k : Fin 8) (f : Prog → Prog) (s : State) : (updProg k f s).links = s.links := rfl
@[simp] theorem updProg_parcels (k : Fin 8) (f : Prog → Prog) (s : State) : (updProg k f s).parcels = s.parcels := rfl
@[simp] theorem updProg_pwr (k : Fin 8) (f : Prog → Prog) (s : State) : (updProg k f s).pwr = s.pwr := rfl
@[simp] theorem updProg_placing (k : Fin 8) (f : Prog → Prog) (s : State) : (updProg k f s).placing = s.placing := rfl
@[simp] theorem updProg_memo (k : Fin 8) (f : Prog → Prog) (s : State) : (updProg k f s).memo = s.memo := rfl
@[simp] theorem updProg_watches (k : Fin 8) (f : Prog → Prog) (s : State) : (updProg k f s).watches = s.watches := rfl
@[simp] theorem updProg_snet (k : Fin 8) (f : Prog → Prog) (s : State) : (updProg k f s).snet = s.snet := rfl
@[simp] theorem updProg_hostif (k : Fin 8) (f : Prog → Prog) (s : State) : (updProg k f s).hostif = s.hostif := rfl
@[simp] theorem updProg_stage (k : Fin 8) (f : Prog → Prog) (s : State) : (updProg k f s).stage = s.stage := rfl
@[simp] theorem updProg_reserved (k : Fin 8) (f : Prog → Prog) (s : State) : (updProg k f s).reserved = s.reserved := rfl
@[simp] theorem updProg_edge (k : Fin 8) (f : Prog → Prog) (s : State) : (updProg k f s).edge = s.edge := rfl
@[simp] theorem updProg_colls (k : Fin 8) (f : Prog → Prog) (s : State) : (updProg k f s).colls = s.colls := rfl
@[simp] theorem updProg_nextCid (k : Fin 8) (f : Prog → Prog) (s : State) : (updProg k f s).nextCid = s.nextCid := rfl
@[simp] theorem updProg_sealHubs (k : Fin 8) (f : Prog → Prog) (s : State) : (updProg k f s).sealHubs = s.sealHubs := rfl
@[simp] theorem updProg_adders (k : Fin 8) (f : Prog → Prog) (s : State) : (updProg k f s).adders = s.adders := rfl
@[simp] theorem updProg_marks (k : Fin 8) (f : Prog → Prog) (s : State) : (updProg k f s).marks = s.marks := rfl
@[simp] theorem updProg_moving (k : Fin 8) (f : Prog → Prog) (s : State) : (updProg k f s).moving = s.moving := rfl
@[simp] theorem updProg_deferred (k : Fin 8) (f : Prog → Prog) (s : State) : (updProg k f s).deferred = s.deferred := rfl
@[simp] theorem updProg_atClose (k : Fin 8) (f : Prog → Prog) (s : State) : (updProg k f s).atClose = s.atClose := rfl
@[simp] theorem updProg_log (k : Fin 8) (f : Prog → Prog) (s : State) : (updProg k f s).log = s.log := rfl
@[simp] theorem updProg_doms (k : Fin 8) (f : Prog → Prog) (s : State) : (updProg k f s).doms = s.doms := rfl
@[simp] theorem updProg_lees (k : Fin 8) (f : Prog → Prog) (s : State) : (updProg k f s).lees = s.lees := rfl
@[simp] theorem updProg_leesSeq (k : Fin 8) (f : Prog → Prog) (s : State) : (updProg k f s).leesSeq = s.leesSeq := rfl
@[simp] theorem updProg_boot (k : Fin 8) (f : Prog → Prog) (s : State) : (updProg k f s).boot = s.boot := rfl
@[simp] theorem updProg_sec (k : Fin 8) (f : Prog → Prog) (s : State) : (updProg k f s).sec = s.sec := rfl
@[simp] theorem updProg_sb (k : Fin 8) (f : Prog → Prog) (s : State) : (updProg k f s).sb = s.sb := rfl
@[simp] theorem updProg_dbg (k : Fin 8) (f : Prog → Prog) (s : State) : (updProg k f s).dbg = s.dbg := rfl
@[simp] theorem updProg_module (k : Fin 8) (f : Prog → Prog) (s : State) : (updProg k f s).module = s.module := rfl
@[simp] theorem updProg_out (k : Fin 8) (f : Prog → Prog) (s : State) : (updProg k f s).out = s.out := rfl

/-! `setDom` changes only `doms`. -/
@[simp] theorem setDom_pending (c : Nat) (d : Dom) (s : State) : (setDom c d s).pending = s.pending := rfl
@[simp] theorem setDom_free (c : Nat) (d : Dom) (s : State) : (setDom c d s).free = s.free := rfl
@[simp] theorem setDom_time (c : Nat) (d : Dom) (s : State) : (setDom c d s).time = s.time := rfl
@[simp] theorem setDom_beats (c : Nat) (d : Dom) (s : State) : (setDom c d s).beats = s.beats := rfl
@[simp] theorem setDom_tiles (c : Nat) (d : Dom) (s : State) : (setDom c d s).tiles = s.tiles := rfl
@[simp] theorem setDom_links (c : Nat) (d : Dom) (s : State) : (setDom c d s).links = s.links := rfl
@[simp] theorem setDom_parcels (c : Nat) (d : Dom) (s : State) : (setDom c d s).parcels = s.parcels := rfl
@[simp] theorem setDom_pwr (c : Nat) (d : Dom) (s : State) : (setDom c d s).pwr = s.pwr := rfl
@[simp] theorem setDom_progs (c : Nat) (d : Dom) (s : State) : (setDom c d s).progs = s.progs := rfl
@[simp] theorem setDom_placing (c : Nat) (d : Dom) (s : State) : (setDom c d s).placing = s.placing := rfl
@[simp] theorem setDom_memo (c : Nat) (d : Dom) (s : State) : (setDom c d s).memo = s.memo := rfl
@[simp] theorem setDom_watches (c : Nat) (d : Dom) (s : State) : (setDom c d s).watches = s.watches := rfl
@[simp] theorem setDom_snet (c : Nat) (d : Dom) (s : State) : (setDom c d s).snet = s.snet := rfl
@[simp] theorem setDom_hostif (c : Nat) (d : Dom) (s : State) : (setDom c d s).hostif = s.hostif := rfl
@[simp] theorem setDom_stage (c : Nat) (d : Dom) (s : State) : (setDom c d s).stage = s.stage := rfl
@[simp] theorem setDom_reserved (c : Nat) (d : Dom) (s : State) : (setDom c d s).reserved = s.reserved := rfl
@[simp] theorem setDom_edge (c : Nat) (d : Dom) (s : State) : (setDom c d s).edge = s.edge := rfl
@[simp] theorem setDom_colls (c : Nat) (d : Dom) (s : State) : (setDom c d s).colls = s.colls := rfl
@[simp] theorem setDom_nextCid (c : Nat) (d : Dom) (s : State) : (setDom c d s).nextCid = s.nextCid := rfl
@[simp] theorem setDom_sealHubs (c : Nat) (d : Dom) (s : State) : (setDom c d s).sealHubs = s.sealHubs := rfl
@[simp] theorem setDom_adders (c : Nat) (d : Dom) (s : State) : (setDom c d s).adders = s.adders := rfl
@[simp] theorem setDom_marks (c : Nat) (d : Dom) (s : State) : (setDom c d s).marks = s.marks := rfl
@[simp] theorem setDom_moving (c : Nat) (d : Dom) (s : State) : (setDom c d s).moving = s.moving := rfl
@[simp] theorem setDom_deferred (c : Nat) (d : Dom) (s : State) : (setDom c d s).deferred = s.deferred := rfl
@[simp] theorem setDom_atClose (c : Nat) (d : Dom) (s : State) : (setDom c d s).atClose = s.atClose := rfl
@[simp] theorem setDom_log (c : Nat) (d : Dom) (s : State) : (setDom c d s).log = s.log := rfl
@[simp] theorem setDom_lees (c : Nat) (d : Dom) (s : State) : (setDom c d s).lees = s.lees := rfl
@[simp] theorem setDom_leesSeq (c : Nat) (d : Dom) (s : State) : (setDom c d s).leesSeq = s.leesSeq := rfl
@[simp] theorem setDom_boot (c : Nat) (d : Dom) (s : State) : (setDom c d s).boot = s.boot := rfl
@[simp] theorem setDom_sec (c : Nat) (d : Dom) (s : State) : (setDom c d s).sec = s.sec := rfl
@[simp] theorem setDom_sb (c : Nat) (d : Dom) (s : State) : (setDom c d s).sb = s.sb := rfl
@[simp] theorem setDom_dbg (c : Nat) (d : Dom) (s : State) : (setDom c d s).dbg = s.dbg := rfl
@[simp] theorem setDom_module (c : Nat) (d : Dom) (s : State) : (setDom c d s).module = s.module := rfl
@[simp] theorem setDom_out (c : Nat) (d : Dom) (s : State) : (setDom c d s).out = s.out := rfl

/-! `updDom` changes only `doms`. -/
@[simp] theorem updDom_pending (c : Nat) (f : Dom → Dom) (s : State) : (updDom c f s).pending = s.pending := rfl
@[simp] theorem updDom_free (c : Nat) (f : Dom → Dom) (s : State) : (updDom c f s).free = s.free := rfl
@[simp] theorem updDom_time (c : Nat) (f : Dom → Dom) (s : State) : (updDom c f s).time = s.time := rfl
@[simp] theorem updDom_beats (c : Nat) (f : Dom → Dom) (s : State) : (updDom c f s).beats = s.beats := rfl
@[simp] theorem updDom_tiles (c : Nat) (f : Dom → Dom) (s : State) : (updDom c f s).tiles = s.tiles := rfl
@[simp] theorem updDom_links (c : Nat) (f : Dom → Dom) (s : State) : (updDom c f s).links = s.links := rfl
@[simp] theorem updDom_parcels (c : Nat) (f : Dom → Dom) (s : State) : (updDom c f s).parcels = s.parcels := rfl
@[simp] theorem updDom_pwr (c : Nat) (f : Dom → Dom) (s : State) : (updDom c f s).pwr = s.pwr := rfl
@[simp] theorem updDom_progs (c : Nat) (f : Dom → Dom) (s : State) : (updDom c f s).progs = s.progs := rfl
@[simp] theorem updDom_placing (c : Nat) (f : Dom → Dom) (s : State) : (updDom c f s).placing = s.placing := rfl
@[simp] theorem updDom_memo (c : Nat) (f : Dom → Dom) (s : State) : (updDom c f s).memo = s.memo := rfl
@[simp] theorem updDom_watches (c : Nat) (f : Dom → Dom) (s : State) : (updDom c f s).watches = s.watches := rfl
@[simp] theorem updDom_snet (c : Nat) (f : Dom → Dom) (s : State) : (updDom c f s).snet = s.snet := rfl
@[simp] theorem updDom_hostif (c : Nat) (f : Dom → Dom) (s : State) : (updDom c f s).hostif = s.hostif := rfl
@[simp] theorem updDom_stage (c : Nat) (f : Dom → Dom) (s : State) : (updDom c f s).stage = s.stage := rfl
@[simp] theorem updDom_reserved (c : Nat) (f : Dom → Dom) (s : State) : (updDom c f s).reserved = s.reserved := rfl
@[simp] theorem updDom_edge (c : Nat) (f : Dom → Dom) (s : State) : (updDom c f s).edge = s.edge := rfl
@[simp] theorem updDom_colls (c : Nat) (f : Dom → Dom) (s : State) : (updDom c f s).colls = s.colls := rfl
@[simp] theorem updDom_nextCid (c : Nat) (f : Dom → Dom) (s : State) : (updDom c f s).nextCid = s.nextCid := rfl
@[simp] theorem updDom_sealHubs (c : Nat) (f : Dom → Dom) (s : State) : (updDom c f s).sealHubs = s.sealHubs := rfl
@[simp] theorem updDom_adders (c : Nat) (f : Dom → Dom) (s : State) : (updDom c f s).adders = s.adders := rfl
@[simp] theorem updDom_marks (c : Nat) (f : Dom → Dom) (s : State) : (updDom c f s).marks = s.marks := rfl
@[simp] theorem updDom_moving (c : Nat) (f : Dom → Dom) (s : State) : (updDom c f s).moving = s.moving := rfl
@[simp] theorem updDom_deferred (c : Nat) (f : Dom → Dom) (s : State) : (updDom c f s).deferred = s.deferred := rfl
@[simp] theorem updDom_atClose (c : Nat) (f : Dom → Dom) (s : State) : (updDom c f s).atClose = s.atClose := rfl
@[simp] theorem updDom_log (c : Nat) (f : Dom → Dom) (s : State) : (updDom c f s).log = s.log := rfl
@[simp] theorem updDom_lees (c : Nat) (f : Dom → Dom) (s : State) : (updDom c f s).lees = s.lees := rfl
@[simp] theorem updDom_leesSeq (c : Nat) (f : Dom → Dom) (s : State) : (updDom c f s).leesSeq = s.leesSeq := rfl
@[simp] theorem updDom_boot (c : Nat) (f : Dom → Dom) (s : State) : (updDom c f s).boot = s.boot := rfl
@[simp] theorem updDom_sec (c : Nat) (f : Dom → Dom) (s : State) : (updDom c f s).sec = s.sec := rfl
@[simp] theorem updDom_sb (c : Nat) (f : Dom → Dom) (s : State) : (updDom c f s).sb = s.sb := rfl
@[simp] theorem updDom_dbg (c : Nat) (f : Dom → Dom) (s : State) : (updDom c f s).dbg = s.dbg := rfl
@[simp] theorem updDom_module (c : Nat) (f : Dom → Dom) (s : State) : (updDom c f s).module = s.module := rfl
@[simp] theorem updDom_out (c : Nat) (f : Dom → Dom) (s : State) : (updDom c f s).out = s.out := rfl

/-! `domTo` changes only `doms`. -/
@[simp] theorem domTo_pending (c : Nat) (st : DomSt) (s : State) : (domTo c st s).pending = s.pending := rfl
@[simp] theorem domTo_free (c : Nat) (st : DomSt) (s : State) : (domTo c st s).free = s.free := rfl
@[simp] theorem domTo_time (c : Nat) (st : DomSt) (s : State) : (domTo c st s).time = s.time := rfl
@[simp] theorem domTo_beats (c : Nat) (st : DomSt) (s : State) : (domTo c st s).beats = s.beats := rfl
@[simp] theorem domTo_tiles (c : Nat) (st : DomSt) (s : State) : (domTo c st s).tiles = s.tiles := rfl
@[simp] theorem domTo_links (c : Nat) (st : DomSt) (s : State) : (domTo c st s).links = s.links := rfl
@[simp] theorem domTo_parcels (c : Nat) (st : DomSt) (s : State) : (domTo c st s).parcels = s.parcels := rfl
@[simp] theorem domTo_pwr (c : Nat) (st : DomSt) (s : State) : (domTo c st s).pwr = s.pwr := rfl
@[simp] theorem domTo_progs (c : Nat) (st : DomSt) (s : State) : (domTo c st s).progs = s.progs := rfl
@[simp] theorem domTo_placing (c : Nat) (st : DomSt) (s : State) : (domTo c st s).placing = s.placing := rfl
@[simp] theorem domTo_memo (c : Nat) (st : DomSt) (s : State) : (domTo c st s).memo = s.memo := rfl
@[simp] theorem domTo_watches (c : Nat) (st : DomSt) (s : State) : (domTo c st s).watches = s.watches := rfl
@[simp] theorem domTo_snet (c : Nat) (st : DomSt) (s : State) : (domTo c st s).snet = s.snet := rfl
@[simp] theorem domTo_hostif (c : Nat) (st : DomSt) (s : State) : (domTo c st s).hostif = s.hostif := rfl
@[simp] theorem domTo_stage (c : Nat) (st : DomSt) (s : State) : (domTo c st s).stage = s.stage := rfl
@[simp] theorem domTo_reserved (c : Nat) (st : DomSt) (s : State) : (domTo c st s).reserved = s.reserved := rfl
@[simp] theorem domTo_edge (c : Nat) (st : DomSt) (s : State) : (domTo c st s).edge = s.edge := rfl
@[simp] theorem domTo_colls (c : Nat) (st : DomSt) (s : State) : (domTo c st s).colls = s.colls := rfl
@[simp] theorem domTo_nextCid (c : Nat) (st : DomSt) (s : State) : (domTo c st s).nextCid = s.nextCid := rfl
@[simp] theorem domTo_sealHubs (c : Nat) (st : DomSt) (s : State) : (domTo c st s).sealHubs = s.sealHubs := rfl
@[simp] theorem domTo_adders (c : Nat) (st : DomSt) (s : State) : (domTo c st s).adders = s.adders := rfl
@[simp] theorem domTo_marks (c : Nat) (st : DomSt) (s : State) : (domTo c st s).marks = s.marks := rfl
@[simp] theorem domTo_moving (c : Nat) (st : DomSt) (s : State) : (domTo c st s).moving = s.moving := rfl
@[simp] theorem domTo_deferred (c : Nat) (st : DomSt) (s : State) : (domTo c st s).deferred = s.deferred := rfl
@[simp] theorem domTo_atClose (c : Nat) (st : DomSt) (s : State) : (domTo c st s).atClose = s.atClose := rfl
@[simp] theorem domTo_log (c : Nat) (st : DomSt) (s : State) : (domTo c st s).log = s.log := rfl
@[simp] theorem domTo_lees (c : Nat) (st : DomSt) (s : State) : (domTo c st s).lees = s.lees := rfl
@[simp] theorem domTo_leesSeq (c : Nat) (st : DomSt) (s : State) : (domTo c st s).leesSeq = s.leesSeq := rfl
@[simp] theorem domTo_boot (c : Nat) (st : DomSt) (s : State) : (domTo c st s).boot = s.boot := rfl
@[simp] theorem domTo_sec (c : Nat) (st : DomSt) (s : State) : (domTo c st s).sec = s.sec := rfl
@[simp] theorem domTo_sb (c : Nat) (st : DomSt) (s : State) : (domTo c st s).sb = s.sb := rfl
@[simp] theorem domTo_dbg (c : Nat) (st : DomSt) (s : State) : (domTo c st s).dbg = s.dbg := rfl
@[simp] theorem domTo_module (c : Nat) (st : DomSt) (s : State) : (domTo c st s).module = s.module := rfl
@[simp] theorem domTo_out (c : Nat) (st : DomSt) (s : State) : (domTo c st s).out = s.out := rfl

/-! `updParcel` changes only `parcels`. -/
@[simp] theorem updParcel_pending (p : Fin 12) (f : Parcel → Parcel) (s : State) : (updParcel p f s).pending = s.pending := rfl
@[simp] theorem updParcel_free (p : Fin 12) (f : Parcel → Parcel) (s : State) : (updParcel p f s).free = s.free := rfl
@[simp] theorem updParcel_time (p : Fin 12) (f : Parcel → Parcel) (s : State) : (updParcel p f s).time = s.time := rfl
@[simp] theorem updParcel_beats (p : Fin 12) (f : Parcel → Parcel) (s : State) : (updParcel p f s).beats = s.beats := rfl
@[simp] theorem updParcel_tiles (p : Fin 12) (f : Parcel → Parcel) (s : State) : (updParcel p f s).tiles = s.tiles := rfl
@[simp] theorem updParcel_links (p : Fin 12) (f : Parcel → Parcel) (s : State) : (updParcel p f s).links = s.links := rfl
@[simp] theorem updParcel_pwr (p : Fin 12) (f : Parcel → Parcel) (s : State) : (updParcel p f s).pwr = s.pwr := rfl
@[simp] theorem updParcel_progs (p : Fin 12) (f : Parcel → Parcel) (s : State) : (updParcel p f s).progs = s.progs := rfl
@[simp] theorem updParcel_placing (p : Fin 12) (f : Parcel → Parcel) (s : State) : (updParcel p f s).placing = s.placing := rfl
@[simp] theorem updParcel_memo (p : Fin 12) (f : Parcel → Parcel) (s : State) : (updParcel p f s).memo = s.memo := rfl
@[simp] theorem updParcel_watches (p : Fin 12) (f : Parcel → Parcel) (s : State) : (updParcel p f s).watches = s.watches := rfl
@[simp] theorem updParcel_snet (p : Fin 12) (f : Parcel → Parcel) (s : State) : (updParcel p f s).snet = s.snet := rfl
@[simp] theorem updParcel_hostif (p : Fin 12) (f : Parcel → Parcel) (s : State) : (updParcel p f s).hostif = s.hostif := rfl
@[simp] theorem updParcel_stage (p : Fin 12) (f : Parcel → Parcel) (s : State) : (updParcel p f s).stage = s.stage := rfl
@[simp] theorem updParcel_reserved (p : Fin 12) (f : Parcel → Parcel) (s : State) : (updParcel p f s).reserved = s.reserved := rfl
@[simp] theorem updParcel_edge (p : Fin 12) (f : Parcel → Parcel) (s : State) : (updParcel p f s).edge = s.edge := rfl
@[simp] theorem updParcel_colls (p : Fin 12) (f : Parcel → Parcel) (s : State) : (updParcel p f s).colls = s.colls := rfl
@[simp] theorem updParcel_nextCid (p : Fin 12) (f : Parcel → Parcel) (s : State) : (updParcel p f s).nextCid = s.nextCid := rfl
@[simp] theorem updParcel_sealHubs (p : Fin 12) (f : Parcel → Parcel) (s : State) : (updParcel p f s).sealHubs = s.sealHubs := rfl
@[simp] theorem updParcel_adders (p : Fin 12) (f : Parcel → Parcel) (s : State) : (updParcel p f s).adders = s.adders := rfl
@[simp] theorem updParcel_marks (p : Fin 12) (f : Parcel → Parcel) (s : State) : (updParcel p f s).marks = s.marks := rfl
@[simp] theorem updParcel_moving (p : Fin 12) (f : Parcel → Parcel) (s : State) : (updParcel p f s).moving = s.moving := rfl
@[simp] theorem updParcel_deferred (p : Fin 12) (f : Parcel → Parcel) (s : State) : (updParcel p f s).deferred = s.deferred := rfl
@[simp] theorem updParcel_atClose (p : Fin 12) (f : Parcel → Parcel) (s : State) : (updParcel p f s).atClose = s.atClose := rfl
@[simp] theorem updParcel_log (p : Fin 12) (f : Parcel → Parcel) (s : State) : (updParcel p f s).log = s.log := rfl
@[simp] theorem updParcel_doms (p : Fin 12) (f : Parcel → Parcel) (s : State) : (updParcel p f s).doms = s.doms := rfl
@[simp] theorem updParcel_lees (p : Fin 12) (f : Parcel → Parcel) (s : State) : (updParcel p f s).lees = s.lees := rfl
@[simp] theorem updParcel_leesSeq (p : Fin 12) (f : Parcel → Parcel) (s : State) : (updParcel p f s).leesSeq = s.leesSeq := rfl
@[simp] theorem updParcel_boot (p : Fin 12) (f : Parcel → Parcel) (s : State) : (updParcel p f s).boot = s.boot := rfl
@[simp] theorem updParcel_sec (p : Fin 12) (f : Parcel → Parcel) (s : State) : (updParcel p f s).sec = s.sec := rfl
@[simp] theorem updParcel_sb (p : Fin 12) (f : Parcel → Parcel) (s : State) : (updParcel p f s).sb = s.sb := rfl
@[simp] theorem updParcel_dbg (p : Fin 12) (f : Parcel → Parcel) (s : State) : (updParcel p f s).dbg = s.dbg := rfl
@[simp] theorem updParcel_module (p : Fin 12) (f : Parcel → Parcel) (s : State) : (updParcel p f s).module = s.module := rfl
@[simp] theorem updParcel_out (p : Fin 12) (f : Parcel → Parcel) (s : State) : (updParcel p f s).out = s.out := rfl

/-! `emit` changes only `out`. -/
@[simp] theorem emit_pending (o : Out) (s : State) : (emit o s).pending = s.pending := rfl
@[simp] theorem emit_free (o : Out) (s : State) : (emit o s).free = s.free := rfl
@[simp] theorem emit_time (o : Out) (s : State) : (emit o s).time = s.time := rfl
@[simp] theorem emit_beats (o : Out) (s : State) : (emit o s).beats = s.beats := rfl
@[simp] theorem emit_tiles (o : Out) (s : State) : (emit o s).tiles = s.tiles := rfl
@[simp] theorem emit_links (o : Out) (s : State) : (emit o s).links = s.links := rfl
@[simp] theorem emit_parcels (o : Out) (s : State) : (emit o s).parcels = s.parcels := rfl
@[simp] theorem emit_pwr (o : Out) (s : State) : (emit o s).pwr = s.pwr := rfl
@[simp] theorem emit_progs (o : Out) (s : State) : (emit o s).progs = s.progs := rfl
@[simp] theorem emit_placing (o : Out) (s : State) : (emit o s).placing = s.placing := rfl
@[simp] theorem emit_memo (o : Out) (s : State) : (emit o s).memo = s.memo := rfl
@[simp] theorem emit_watches (o : Out) (s : State) : (emit o s).watches = s.watches := rfl
@[simp] theorem emit_snet (o : Out) (s : State) : (emit o s).snet = s.snet := rfl
@[simp] theorem emit_hostif (o : Out) (s : State) : (emit o s).hostif = s.hostif := rfl
@[simp] theorem emit_stage (o : Out) (s : State) : (emit o s).stage = s.stage := rfl
@[simp] theorem emit_reserved (o : Out) (s : State) : (emit o s).reserved = s.reserved := rfl
@[simp] theorem emit_edge (o : Out) (s : State) : (emit o s).edge = s.edge := rfl
@[simp] theorem emit_colls (o : Out) (s : State) : (emit o s).colls = s.colls := rfl
@[simp] theorem emit_nextCid (o : Out) (s : State) : (emit o s).nextCid = s.nextCid := rfl
@[simp] theorem emit_sealHubs (o : Out) (s : State) : (emit o s).sealHubs = s.sealHubs := rfl
@[simp] theorem emit_adders (o : Out) (s : State) : (emit o s).adders = s.adders := rfl
@[simp] theorem emit_marks (o : Out) (s : State) : (emit o s).marks = s.marks := rfl
@[simp] theorem emit_moving (o : Out) (s : State) : (emit o s).moving = s.moving := rfl
@[simp] theorem emit_deferred (o : Out) (s : State) : (emit o s).deferred = s.deferred := rfl
@[simp] theorem emit_atClose (o : Out) (s : State) : (emit o s).atClose = s.atClose := rfl
@[simp] theorem emit_log (o : Out) (s : State) : (emit o s).log = s.log := rfl
@[simp] theorem emit_doms (o : Out) (s : State) : (emit o s).doms = s.doms := rfl
@[simp] theorem emit_lees (o : Out) (s : State) : (emit o s).lees = s.lees := rfl
@[simp] theorem emit_leesSeq (o : Out) (s : State) : (emit o s).leesSeq = s.leesSeq := rfl
@[simp] theorem emit_boot (o : Out) (s : State) : (emit o s).boot = s.boot := rfl
@[simp] theorem emit_sec (o : Out) (s : State) : (emit o s).sec = s.sec := rfl
@[simp] theorem emit_sb (o : Out) (s : State) : (emit o s).sb = s.sb := rfl
@[simp] theorem emit_dbg (o : Out) (s : State) : (emit o s).dbg = s.dbg := rfl
@[simp] theorem emit_module (o : Out) (s : State) : (emit o s).module = s.module := rfl

/-! `setSq` changes only `hostif`. -/
@[simp] theorem setSq_pending (p : Fin 64) (q : Sq) (s : State) : (setSq p q s).pending = s.pending := rfl
@[simp] theorem setSq_free (p : Fin 64) (q : Sq) (s : State) : (setSq p q s).free = s.free := rfl
@[simp] theorem setSq_time (p : Fin 64) (q : Sq) (s : State) : (setSq p q s).time = s.time := rfl
@[simp] theorem setSq_beats (p : Fin 64) (q : Sq) (s : State) : (setSq p q s).beats = s.beats := rfl
@[simp] theorem setSq_tiles (p : Fin 64) (q : Sq) (s : State) : (setSq p q s).tiles = s.tiles := rfl
@[simp] theorem setSq_links (p : Fin 64) (q : Sq) (s : State) : (setSq p q s).links = s.links := rfl
@[simp] theorem setSq_parcels (p : Fin 64) (q : Sq) (s : State) : (setSq p q s).parcels = s.parcels := rfl
@[simp] theorem setSq_pwr (p : Fin 64) (q : Sq) (s : State) : (setSq p q s).pwr = s.pwr := rfl
@[simp] theorem setSq_progs (p : Fin 64) (q : Sq) (s : State) : (setSq p q s).progs = s.progs := rfl
@[simp] theorem setSq_placing (p : Fin 64) (q : Sq) (s : State) : (setSq p q s).placing = s.placing := rfl
@[simp] theorem setSq_memo (p : Fin 64) (q : Sq) (s : State) : (setSq p q s).memo = s.memo := rfl
@[simp] theorem setSq_watches (p : Fin 64) (q : Sq) (s : State) : (setSq p q s).watches = s.watches := rfl
@[simp] theorem setSq_snet (p : Fin 64) (q : Sq) (s : State) : (setSq p q s).snet = s.snet := rfl
@[simp] theorem setSq_stage (p : Fin 64) (q : Sq) (s : State) : (setSq p q s).stage = s.stage := rfl
@[simp] theorem setSq_reserved (p : Fin 64) (q : Sq) (s : State) : (setSq p q s).reserved = s.reserved := rfl
@[simp] theorem setSq_edge (p : Fin 64) (q : Sq) (s : State) : (setSq p q s).edge = s.edge := rfl
@[simp] theorem setSq_colls (p : Fin 64) (q : Sq) (s : State) : (setSq p q s).colls = s.colls := rfl
@[simp] theorem setSq_nextCid (p : Fin 64) (q : Sq) (s : State) : (setSq p q s).nextCid = s.nextCid := rfl
@[simp] theorem setSq_sealHubs (p : Fin 64) (q : Sq) (s : State) : (setSq p q s).sealHubs = s.sealHubs := rfl
@[simp] theorem setSq_adders (p : Fin 64) (q : Sq) (s : State) : (setSq p q s).adders = s.adders := rfl
@[simp] theorem setSq_marks (p : Fin 64) (q : Sq) (s : State) : (setSq p q s).marks = s.marks := rfl
@[simp] theorem setSq_moving (p : Fin 64) (q : Sq) (s : State) : (setSq p q s).moving = s.moving := rfl
@[simp] theorem setSq_deferred (p : Fin 64) (q : Sq) (s : State) : (setSq p q s).deferred = s.deferred := rfl
@[simp] theorem setSq_atClose (p : Fin 64) (q : Sq) (s : State) : (setSq p q s).atClose = s.atClose := rfl
@[simp] theorem setSq_log (p : Fin 64) (q : Sq) (s : State) : (setSq p q s).log = s.log := rfl
@[simp] theorem setSq_doms (p : Fin 64) (q : Sq) (s : State) : (setSq p q s).doms = s.doms := rfl
@[simp] theorem setSq_lees (p : Fin 64) (q : Sq) (s : State) : (setSq p q s).lees = s.lees := rfl
@[simp] theorem setSq_leesSeq (p : Fin 64) (q : Sq) (s : State) : (setSq p q s).leesSeq = s.leesSeq := rfl
@[simp] theorem setSq_boot (p : Fin 64) (q : Sq) (s : State) : (setSq p q s).boot = s.boot := rfl
@[simp] theorem setSq_sec (p : Fin 64) (q : Sq) (s : State) : (setSq p q s).sec = s.sec := rfl
@[simp] theorem setSq_sb (p : Fin 64) (q : Sq) (s : State) : (setSq p q s).sb = s.sb := rfl
@[simp] theorem setSq_dbg (p : Fin 64) (q : Sq) (s : State) : (setSq p q s).dbg = s.dbg := rfl
@[simp] theorem setSq_module (p : Fin 64) (q : Sq) (s : State) : (setSq p q s).module = s.module := rfl
@[simp] theorem setSq_out (p : Fin 64) (q : Sq) (s : State) : (setSq p q s).out = s.out := rfl

/-! `setCq` changes only `hostif`. -/
@[simp] theorem setCq_pending (p : Fin 64) (q : Cq) (s : State) : (setCq p q s).pending = s.pending := rfl
@[simp] theorem setCq_free (p : Fin 64) (q : Cq) (s : State) : (setCq p q s).free = s.free := rfl
@[simp] theorem setCq_time (p : Fin 64) (q : Cq) (s : State) : (setCq p q s).time = s.time := rfl
@[simp] theorem setCq_beats (p : Fin 64) (q : Cq) (s : State) : (setCq p q s).beats = s.beats := rfl
@[simp] theorem setCq_tiles (p : Fin 64) (q : Cq) (s : State) : (setCq p q s).tiles = s.tiles := rfl
@[simp] theorem setCq_links (p : Fin 64) (q : Cq) (s : State) : (setCq p q s).links = s.links := rfl
@[simp] theorem setCq_parcels (p : Fin 64) (q : Cq) (s : State) : (setCq p q s).parcels = s.parcels := rfl
@[simp] theorem setCq_pwr (p : Fin 64) (q : Cq) (s : State) : (setCq p q s).pwr = s.pwr := rfl
@[simp] theorem setCq_progs (p : Fin 64) (q : Cq) (s : State) : (setCq p q s).progs = s.progs := rfl
@[simp] theorem setCq_placing (p : Fin 64) (q : Cq) (s : State) : (setCq p q s).placing = s.placing := rfl
@[simp] theorem setCq_memo (p : Fin 64) (q : Cq) (s : State) : (setCq p q s).memo = s.memo := rfl
@[simp] theorem setCq_watches (p : Fin 64) (q : Cq) (s : State) : (setCq p q s).watches = s.watches := rfl
@[simp] theorem setCq_snet (p : Fin 64) (q : Cq) (s : State) : (setCq p q s).snet = s.snet := rfl
@[simp] theorem setCq_stage (p : Fin 64) (q : Cq) (s : State) : (setCq p q s).stage = s.stage := rfl
@[simp] theorem setCq_reserved (p : Fin 64) (q : Cq) (s : State) : (setCq p q s).reserved = s.reserved := rfl
@[simp] theorem setCq_edge (p : Fin 64) (q : Cq) (s : State) : (setCq p q s).edge = s.edge := rfl
@[simp] theorem setCq_colls (p : Fin 64) (q : Cq) (s : State) : (setCq p q s).colls = s.colls := rfl
@[simp] theorem setCq_nextCid (p : Fin 64) (q : Cq) (s : State) : (setCq p q s).nextCid = s.nextCid := rfl
@[simp] theorem setCq_sealHubs (p : Fin 64) (q : Cq) (s : State) : (setCq p q s).sealHubs = s.sealHubs := rfl
@[simp] theorem setCq_adders (p : Fin 64) (q : Cq) (s : State) : (setCq p q s).adders = s.adders := rfl
@[simp] theorem setCq_marks (p : Fin 64) (q : Cq) (s : State) : (setCq p q s).marks = s.marks := rfl
@[simp] theorem setCq_moving (p : Fin 64) (q : Cq) (s : State) : (setCq p q s).moving = s.moving := rfl
@[simp] theorem setCq_deferred (p : Fin 64) (q : Cq) (s : State) : (setCq p q s).deferred = s.deferred := rfl
@[simp] theorem setCq_atClose (p : Fin 64) (q : Cq) (s : State) : (setCq p q s).atClose = s.atClose := rfl
@[simp] theorem setCq_log (p : Fin 64) (q : Cq) (s : State) : (setCq p q s).log = s.log := rfl
@[simp] theorem setCq_doms (p : Fin 64) (q : Cq) (s : State) : (setCq p q s).doms = s.doms := rfl
@[simp] theorem setCq_lees (p : Fin 64) (q : Cq) (s : State) : (setCq p q s).lees = s.lees := rfl
@[simp] theorem setCq_leesSeq (p : Fin 64) (q : Cq) (s : State) : (setCq p q s).leesSeq = s.leesSeq := rfl
@[simp] theorem setCq_boot (p : Fin 64) (q : Cq) (s : State) : (setCq p q s).boot = s.boot := rfl
@[simp] theorem setCq_sec (p : Fin 64) (q : Cq) (s : State) : (setCq p q s).sec = s.sec := rfl
@[simp] theorem setCq_sb (p : Fin 64) (q : Cq) (s : State) : (setCq p q s).sb = s.sb := rfl
@[simp] theorem setCq_dbg (p : Fin 64) (q : Cq) (s : State) : (setCq p q s).dbg = s.dbg := rfl
@[simp] theorem setCq_module (p : Fin 64) (q : Cq) (s : State) : (setCq p q s).module = s.module := rfl
@[simp] theorem setCq_out (p : Fin 64) (q : Cq) (s : State) : (setCq p q s).out = s.out := rfl

/-! `updDesc` changes only `hostif`. -/
@[simp] theorem updDesc_pending (d : DescRef) (f : Desc → Desc) (s : State) : (updDesc d f s).pending = s.pending := rfl
@[simp] theorem updDesc_free (d : DescRef) (f : Desc → Desc) (s : State) : (updDesc d f s).free = s.free := rfl
@[simp] theorem updDesc_time (d : DescRef) (f : Desc → Desc) (s : State) : (updDesc d f s).time = s.time := rfl
@[simp] theorem updDesc_beats (d : DescRef) (f : Desc → Desc) (s : State) : (updDesc d f s).beats = s.beats := rfl
@[simp] theorem updDesc_tiles (d : DescRef) (f : Desc → Desc) (s : State) : (updDesc d f s).tiles = s.tiles := rfl
@[simp] theorem updDesc_links (d : DescRef) (f : Desc → Desc) (s : State) : (updDesc d f s).links = s.links := rfl
@[simp] theorem updDesc_parcels (d : DescRef) (f : Desc → Desc) (s : State) : (updDesc d f s).parcels = s.parcels := rfl
@[simp] theorem updDesc_pwr (d : DescRef) (f : Desc → Desc) (s : State) : (updDesc d f s).pwr = s.pwr := rfl
@[simp] theorem updDesc_progs (d : DescRef) (f : Desc → Desc) (s : State) : (updDesc d f s).progs = s.progs := rfl
@[simp] theorem updDesc_placing (d : DescRef) (f : Desc → Desc) (s : State) : (updDesc d f s).placing = s.placing := rfl
@[simp] theorem updDesc_memo (d : DescRef) (f : Desc → Desc) (s : State) : (updDesc d f s).memo = s.memo := rfl
@[simp] theorem updDesc_watches (d : DescRef) (f : Desc → Desc) (s : State) : (updDesc d f s).watches = s.watches := rfl
@[simp] theorem updDesc_snet (d : DescRef) (f : Desc → Desc) (s : State) : (updDesc d f s).snet = s.snet := rfl
@[simp] theorem updDesc_stage (d : DescRef) (f : Desc → Desc) (s : State) : (updDesc d f s).stage = s.stage := rfl
@[simp] theorem updDesc_reserved (d : DescRef) (f : Desc → Desc) (s : State) : (updDesc d f s).reserved = s.reserved := rfl
@[simp] theorem updDesc_edge (d : DescRef) (f : Desc → Desc) (s : State) : (updDesc d f s).edge = s.edge := rfl
@[simp] theorem updDesc_colls (d : DescRef) (f : Desc → Desc) (s : State) : (updDesc d f s).colls = s.colls := rfl
@[simp] theorem updDesc_nextCid (d : DescRef) (f : Desc → Desc) (s : State) : (updDesc d f s).nextCid = s.nextCid := rfl
@[simp] theorem updDesc_sealHubs (d : DescRef) (f : Desc → Desc) (s : State) : (updDesc d f s).sealHubs = s.sealHubs := rfl
@[simp] theorem updDesc_adders (d : DescRef) (f : Desc → Desc) (s : State) : (updDesc d f s).adders = s.adders := rfl
@[simp] theorem updDesc_marks (d : DescRef) (f : Desc → Desc) (s : State) : (updDesc d f s).marks = s.marks := rfl
@[simp] theorem updDesc_moving (d : DescRef) (f : Desc → Desc) (s : State) : (updDesc d f s).moving = s.moving := rfl
@[simp] theorem updDesc_deferred (d : DescRef) (f : Desc → Desc) (s : State) : (updDesc d f s).deferred = s.deferred := rfl
@[simp] theorem updDesc_atClose (d : DescRef) (f : Desc → Desc) (s : State) : (updDesc d f s).atClose = s.atClose := rfl
@[simp] theorem updDesc_log (d : DescRef) (f : Desc → Desc) (s : State) : (updDesc d f s).log = s.log := rfl
@[simp] theorem updDesc_doms (d : DescRef) (f : Desc → Desc) (s : State) : (updDesc d f s).doms = s.doms := rfl
@[simp] theorem updDesc_lees (d : DescRef) (f : Desc → Desc) (s : State) : (updDesc d f s).lees = s.lees := rfl
@[simp] theorem updDesc_leesSeq (d : DescRef) (f : Desc → Desc) (s : State) : (updDesc d f s).leesSeq = s.leesSeq := rfl
@[simp] theorem updDesc_boot (d : DescRef) (f : Desc → Desc) (s : State) : (updDesc d f s).boot = s.boot := rfl
@[simp] theorem updDesc_sec (d : DescRef) (f : Desc → Desc) (s : State) : (updDesc d f s).sec = s.sec := rfl
@[simp] theorem updDesc_sb (d : DescRef) (f : Desc → Desc) (s : State) : (updDesc d f s).sb = s.sb := rfl
@[simp] theorem updDesc_dbg (d : DescRef) (f : Desc → Desc) (s : State) : (updDesc d f s).dbg = s.dbg := rfl
@[simp] theorem updDesc_module (d : DescRef) (f : Desc → Desc) (s : State) : (updDesc d f s).module = s.module := rfl
@[simp] theorem updDesc_out (d : DescRef) (f : Desc → Desc) (s : State) : (updDesc d f s).out = s.out := rfl

/-! `setPort` changes only `edge`. -/
@[simp] theorem setPort_pending (n : Fin 24) (p : Port) (s : State) : (setPort n p s).pending = s.pending := rfl
@[simp] theorem setPort_free (n : Fin 24) (p : Port) (s : State) : (setPort n p s).free = s.free := rfl
@[simp] theorem setPort_time (n : Fin 24) (p : Port) (s : State) : (setPort n p s).time = s.time := rfl
@[simp] theorem setPort_beats (n : Fin 24) (p : Port) (s : State) : (setPort n p s).beats = s.beats := rfl
@[simp] theorem setPort_tiles (n : Fin 24) (p : Port) (s : State) : (setPort n p s).tiles = s.tiles := rfl
@[simp] theorem setPort_links (n : Fin 24) (p : Port) (s : State) : (setPort n p s).links = s.links := rfl
@[simp] theorem setPort_parcels (n : Fin 24) (p : Port) (s : State) : (setPort n p s).parcels = s.parcels := rfl
@[simp] theorem setPort_pwr (n : Fin 24) (p : Port) (s : State) : (setPort n p s).pwr = s.pwr := rfl
@[simp] theorem setPort_progs (n : Fin 24) (p : Port) (s : State) : (setPort n p s).progs = s.progs := rfl
@[simp] theorem setPort_placing (n : Fin 24) (p : Port) (s : State) : (setPort n p s).placing = s.placing := rfl
@[simp] theorem setPort_memo (n : Fin 24) (p : Port) (s : State) : (setPort n p s).memo = s.memo := rfl
@[simp] theorem setPort_watches (n : Fin 24) (p : Port) (s : State) : (setPort n p s).watches = s.watches := rfl
@[simp] theorem setPort_snet (n : Fin 24) (p : Port) (s : State) : (setPort n p s).snet = s.snet := rfl
@[simp] theorem setPort_hostif (n : Fin 24) (p : Port) (s : State) : (setPort n p s).hostif = s.hostif := rfl
@[simp] theorem setPort_stage (n : Fin 24) (p : Port) (s : State) : (setPort n p s).stage = s.stage := rfl
@[simp] theorem setPort_reserved (n : Fin 24) (p : Port) (s : State) : (setPort n p s).reserved = s.reserved := rfl
@[simp] theorem setPort_colls (n : Fin 24) (p : Port) (s : State) : (setPort n p s).colls = s.colls := rfl
@[simp] theorem setPort_nextCid (n : Fin 24) (p : Port) (s : State) : (setPort n p s).nextCid = s.nextCid := rfl
@[simp] theorem setPort_sealHubs (n : Fin 24) (p : Port) (s : State) : (setPort n p s).sealHubs = s.sealHubs := rfl
@[simp] theorem setPort_adders (n : Fin 24) (p : Port) (s : State) : (setPort n p s).adders = s.adders := rfl
@[simp] theorem setPort_marks (n : Fin 24) (p : Port) (s : State) : (setPort n p s).marks = s.marks := rfl
@[simp] theorem setPort_moving (n : Fin 24) (p : Port) (s : State) : (setPort n p s).moving = s.moving := rfl
@[simp] theorem setPort_deferred (n : Fin 24) (p : Port) (s : State) : (setPort n p s).deferred = s.deferred := rfl
@[simp] theorem setPort_atClose (n : Fin 24) (p : Port) (s : State) : (setPort n p s).atClose = s.atClose := rfl
@[simp] theorem setPort_log (n : Fin 24) (p : Port) (s : State) : (setPort n p s).log = s.log := rfl
@[simp] theorem setPort_doms (n : Fin 24) (p : Port) (s : State) : (setPort n p s).doms = s.doms := rfl
@[simp] theorem setPort_lees (n : Fin 24) (p : Port) (s : State) : (setPort n p s).lees = s.lees := rfl
@[simp] theorem setPort_leesSeq (n : Fin 24) (p : Port) (s : State) : (setPort n p s).leesSeq = s.leesSeq := rfl
@[simp] theorem setPort_boot (n : Fin 24) (p : Port) (s : State) : (setPort n p s).boot = s.boot := rfl
@[simp] theorem setPort_sec (n : Fin 24) (p : Port) (s : State) : (setPort n p s).sec = s.sec := rfl
@[simp] theorem setPort_sb (n : Fin 24) (p : Port) (s : State) : (setPort n p s).sb = s.sb := rfl
@[simp] theorem setPort_dbg (n : Fin 24) (p : Port) (s : State) : (setPort n p s).dbg = s.dbg := rfl
@[simp] theorem setPort_module (n : Fin 24) (p : Port) (s : State) : (setPort n p s).module = s.module := rfl
@[simp] theorem setPort_out (n : Fin 24) (p : Port) (s : State) : (setPort n p s).out = s.out := rfl

/-! `updPort` changes only `edge`. -/
@[simp] theorem updPort_pending (n : Fin 24) (f : Port → Port) (s : State) : (updPort n f s).pending = s.pending := rfl
@[simp] theorem updPort_free (n : Fin 24) (f : Port → Port) (s : State) : (updPort n f s).free = s.free := rfl
@[simp] theorem updPort_time (n : Fin 24) (f : Port → Port) (s : State) : (updPort n f s).time = s.time := rfl
@[simp] theorem updPort_beats (n : Fin 24) (f : Port → Port) (s : State) : (updPort n f s).beats = s.beats := rfl
@[simp] theorem updPort_tiles (n : Fin 24) (f : Port → Port) (s : State) : (updPort n f s).tiles = s.tiles := rfl
@[simp] theorem updPort_links (n : Fin 24) (f : Port → Port) (s : State) : (updPort n f s).links = s.links := rfl
@[simp] theorem updPort_parcels (n : Fin 24) (f : Port → Port) (s : State) : (updPort n f s).parcels = s.parcels := rfl
@[simp] theorem updPort_pwr (n : Fin 24) (f : Port → Port) (s : State) : (updPort n f s).pwr = s.pwr := rfl
@[simp] theorem updPort_progs (n : Fin 24) (f : Port → Port) (s : State) : (updPort n f s).progs = s.progs := rfl
@[simp] theorem updPort_placing (n : Fin 24) (f : Port → Port) (s : State) : (updPort n f s).placing = s.placing := rfl
@[simp] theorem updPort_memo (n : Fin 24) (f : Port → Port) (s : State) : (updPort n f s).memo = s.memo := rfl
@[simp] theorem updPort_watches (n : Fin 24) (f : Port → Port) (s : State) : (updPort n f s).watches = s.watches := rfl
@[simp] theorem updPort_snet (n : Fin 24) (f : Port → Port) (s : State) : (updPort n f s).snet = s.snet := rfl
@[simp] theorem updPort_hostif (n : Fin 24) (f : Port → Port) (s : State) : (updPort n f s).hostif = s.hostif := rfl
@[simp] theorem updPort_stage (n : Fin 24) (f : Port → Port) (s : State) : (updPort n f s).stage = s.stage := rfl
@[simp] theorem updPort_reserved (n : Fin 24) (f : Port → Port) (s : State) : (updPort n f s).reserved = s.reserved := rfl
@[simp] theorem updPort_colls (n : Fin 24) (f : Port → Port) (s : State) : (updPort n f s).colls = s.colls := rfl
@[simp] theorem updPort_nextCid (n : Fin 24) (f : Port → Port) (s : State) : (updPort n f s).nextCid = s.nextCid := rfl
@[simp] theorem updPort_sealHubs (n : Fin 24) (f : Port → Port) (s : State) : (updPort n f s).sealHubs = s.sealHubs := rfl
@[simp] theorem updPort_adders (n : Fin 24) (f : Port → Port) (s : State) : (updPort n f s).adders = s.adders := rfl
@[simp] theorem updPort_marks (n : Fin 24) (f : Port → Port) (s : State) : (updPort n f s).marks = s.marks := rfl
@[simp] theorem updPort_moving (n : Fin 24) (f : Port → Port) (s : State) : (updPort n f s).moving = s.moving := rfl
@[simp] theorem updPort_deferred (n : Fin 24) (f : Port → Port) (s : State) : (updPort n f s).deferred = s.deferred := rfl
@[simp] theorem updPort_atClose (n : Fin 24) (f : Port → Port) (s : State) : (updPort n f s).atClose = s.atClose := rfl
@[simp] theorem updPort_log (n : Fin 24) (f : Port → Port) (s : State) : (updPort n f s).log = s.log := rfl
@[simp] theorem updPort_doms (n : Fin 24) (f : Port → Port) (s : State) : (updPort n f s).doms = s.doms := rfl
@[simp] theorem updPort_lees (n : Fin 24) (f : Port → Port) (s : State) : (updPort n f s).lees = s.lees := rfl
@[simp] theorem updPort_leesSeq (n : Fin 24) (f : Port → Port) (s : State) : (updPort n f s).leesSeq = s.leesSeq := rfl
@[simp] theorem updPort_boot (n : Fin 24) (f : Port → Port) (s : State) : (updPort n f s).boot = s.boot := rfl
@[simp] theorem updPort_sec (n : Fin 24) (f : Port → Port) (s : State) : (updPort n f s).sec = s.sec := rfl
@[simp] theorem updPort_sb (n : Fin 24) (f : Port → Port) (s : State) : (updPort n f s).sb = s.sb := rfl
@[simp] theorem updPort_dbg (n : Fin 24) (f : Port → Port) (s : State) : (updPort n f s).dbg = s.dbg := rfl
@[simp] theorem updPort_module (n : Fin 24) (f : Port → Port) (s : State) : (updPort n f s).module = s.module := rfl
@[simp] theorem updPort_out (n : Fin 24) (f : Port → Port) (s : State) : (updPort n f s).out = s.out := rfl

/-! `setEchan` changes only `edge`. -/
@[simp] theorem setEchan_pending (k : Nat) (c : EChan) (s : State) : (setEchan k c s).pending = s.pending := rfl
@[simp] theorem setEchan_free (k : Nat) (c : EChan) (s : State) : (setEchan k c s).free = s.free := rfl
@[simp] theorem setEchan_time (k : Nat) (c : EChan) (s : State) : (setEchan k c s).time = s.time := rfl
@[simp] theorem setEchan_beats (k : Nat) (c : EChan) (s : State) : (setEchan k c s).beats = s.beats := rfl
@[simp] theorem setEchan_tiles (k : Nat) (c : EChan) (s : State) : (setEchan k c s).tiles = s.tiles := rfl
@[simp] theorem setEchan_links (k : Nat) (c : EChan) (s : State) : (setEchan k c s).links = s.links := rfl
@[simp] theorem setEchan_parcels (k : Nat) (c : EChan) (s : State) : (setEchan k c s).parcels = s.parcels := rfl
@[simp] theorem setEchan_pwr (k : Nat) (c : EChan) (s : State) : (setEchan k c s).pwr = s.pwr := rfl
@[simp] theorem setEchan_progs (k : Nat) (c : EChan) (s : State) : (setEchan k c s).progs = s.progs := rfl
@[simp] theorem setEchan_placing (k : Nat) (c : EChan) (s : State) : (setEchan k c s).placing = s.placing := rfl
@[simp] theorem setEchan_memo (k : Nat) (c : EChan) (s : State) : (setEchan k c s).memo = s.memo := rfl
@[simp] theorem setEchan_watches (k : Nat) (c : EChan) (s : State) : (setEchan k c s).watches = s.watches := rfl
@[simp] theorem setEchan_snet (k : Nat) (c : EChan) (s : State) : (setEchan k c s).snet = s.snet := rfl
@[simp] theorem setEchan_hostif (k : Nat) (c : EChan) (s : State) : (setEchan k c s).hostif = s.hostif := rfl
@[simp] theorem setEchan_stage (k : Nat) (c : EChan) (s : State) : (setEchan k c s).stage = s.stage := rfl
@[simp] theorem setEchan_reserved (k : Nat) (c : EChan) (s : State) : (setEchan k c s).reserved = s.reserved := rfl
@[simp] theorem setEchan_colls (k : Nat) (c : EChan) (s : State) : (setEchan k c s).colls = s.colls := rfl
@[simp] theorem setEchan_nextCid (k : Nat) (c : EChan) (s : State) : (setEchan k c s).nextCid = s.nextCid := rfl
@[simp] theorem setEchan_sealHubs (k : Nat) (c : EChan) (s : State) : (setEchan k c s).sealHubs = s.sealHubs := rfl
@[simp] theorem setEchan_adders (k : Nat) (c : EChan) (s : State) : (setEchan k c s).adders = s.adders := rfl
@[simp] theorem setEchan_marks (k : Nat) (c : EChan) (s : State) : (setEchan k c s).marks = s.marks := rfl
@[simp] theorem setEchan_moving (k : Nat) (c : EChan) (s : State) : (setEchan k c s).moving = s.moving := rfl
@[simp] theorem setEchan_deferred (k : Nat) (c : EChan) (s : State) : (setEchan k c s).deferred = s.deferred := rfl
@[simp] theorem setEchan_atClose (k : Nat) (c : EChan) (s : State) : (setEchan k c s).atClose = s.atClose := rfl
@[simp] theorem setEchan_log (k : Nat) (c : EChan) (s : State) : (setEchan k c s).log = s.log := rfl
@[simp] theorem setEchan_doms (k : Nat) (c : EChan) (s : State) : (setEchan k c s).doms = s.doms := rfl
@[simp] theorem setEchan_lees (k : Nat) (c : EChan) (s : State) : (setEchan k c s).lees = s.lees := rfl
@[simp] theorem setEchan_leesSeq (k : Nat) (c : EChan) (s : State) : (setEchan k c s).leesSeq = s.leesSeq := rfl
@[simp] theorem setEchan_boot (k : Nat) (c : EChan) (s : State) : (setEchan k c s).boot = s.boot := rfl
@[simp] theorem setEchan_sec (k : Nat) (c : EChan) (s : State) : (setEchan k c s).sec = s.sec := rfl
@[simp] theorem setEchan_sb (k : Nat) (c : EChan) (s : State) : (setEchan k c s).sb = s.sb := rfl
@[simp] theorem setEchan_dbg (k : Nat) (c : EChan) (s : State) : (setEchan k c s).dbg = s.dbg := rfl
@[simp] theorem setEchan_module (k : Nat) (c : EChan) (s : State) : (setEchan k c s).module = s.module := rfl
@[simp] theorem setEchan_out (k : Nat) (c : EChan) (s : State) : (setEchan k c s).out = s.out := rfl

/-! `setPeer` changes only `edge`. -/
@[simp] theorem setPeer_pending (d : Nat) (p : Peer) (s : State) : (setPeer d p s).pending = s.pending := rfl
@[simp] theorem setPeer_free (d : Nat) (p : Peer) (s : State) : (setPeer d p s).free = s.free := rfl
@[simp] theorem setPeer_time (d : Nat) (p : Peer) (s : State) : (setPeer d p s).time = s.time := rfl
@[simp] theorem setPeer_beats (d : Nat) (p : Peer) (s : State) : (setPeer d p s).beats = s.beats := rfl
@[simp] theorem setPeer_tiles (d : Nat) (p : Peer) (s : State) : (setPeer d p s).tiles = s.tiles := rfl
@[simp] theorem setPeer_links (d : Nat) (p : Peer) (s : State) : (setPeer d p s).links = s.links := rfl
@[simp] theorem setPeer_parcels (d : Nat) (p : Peer) (s : State) : (setPeer d p s).parcels = s.parcels := rfl
@[simp] theorem setPeer_pwr (d : Nat) (p : Peer) (s : State) : (setPeer d p s).pwr = s.pwr := rfl
@[simp] theorem setPeer_progs (d : Nat) (p : Peer) (s : State) : (setPeer d p s).progs = s.progs := rfl
@[simp] theorem setPeer_placing (d : Nat) (p : Peer) (s : State) : (setPeer d p s).placing = s.placing := rfl
@[simp] theorem setPeer_memo (d : Nat) (p : Peer) (s : State) : (setPeer d p s).memo = s.memo := rfl
@[simp] theorem setPeer_watches (d : Nat) (p : Peer) (s : State) : (setPeer d p s).watches = s.watches := rfl
@[simp] theorem setPeer_snet (d : Nat) (p : Peer) (s : State) : (setPeer d p s).snet = s.snet := rfl
@[simp] theorem setPeer_hostif (d : Nat) (p : Peer) (s : State) : (setPeer d p s).hostif = s.hostif := rfl
@[simp] theorem setPeer_stage (d : Nat) (p : Peer) (s : State) : (setPeer d p s).stage = s.stage := rfl
@[simp] theorem setPeer_reserved (d : Nat) (p : Peer) (s : State) : (setPeer d p s).reserved = s.reserved := rfl
@[simp] theorem setPeer_colls (d : Nat) (p : Peer) (s : State) : (setPeer d p s).colls = s.colls := rfl
@[simp] theorem setPeer_nextCid (d : Nat) (p : Peer) (s : State) : (setPeer d p s).nextCid = s.nextCid := rfl
@[simp] theorem setPeer_sealHubs (d : Nat) (p : Peer) (s : State) : (setPeer d p s).sealHubs = s.sealHubs := rfl
@[simp] theorem setPeer_adders (d : Nat) (p : Peer) (s : State) : (setPeer d p s).adders = s.adders := rfl
@[simp] theorem setPeer_marks (d : Nat) (p : Peer) (s : State) : (setPeer d p s).marks = s.marks := rfl
@[simp] theorem setPeer_moving (d : Nat) (p : Peer) (s : State) : (setPeer d p s).moving = s.moving := rfl
@[simp] theorem setPeer_deferred (d : Nat) (p : Peer) (s : State) : (setPeer d p s).deferred = s.deferred := rfl
@[simp] theorem setPeer_atClose (d : Nat) (p : Peer) (s : State) : (setPeer d p s).atClose = s.atClose := rfl
@[simp] theorem setPeer_log (d : Nat) (p : Peer) (s : State) : (setPeer d p s).log = s.log := rfl
@[simp] theorem setPeer_doms (d : Nat) (p : Peer) (s : State) : (setPeer d p s).doms = s.doms := rfl
@[simp] theorem setPeer_lees (d : Nat) (p : Peer) (s : State) : (setPeer d p s).lees = s.lees := rfl
@[simp] theorem setPeer_leesSeq (d : Nat) (p : Peer) (s : State) : (setPeer d p s).leesSeq = s.leesSeq := rfl
@[simp] theorem setPeer_boot (d : Nat) (p : Peer) (s : State) : (setPeer d p s).boot = s.boot := rfl
@[simp] theorem setPeer_sec (d : Nat) (p : Peer) (s : State) : (setPeer d p s).sec = s.sec := rfl
@[simp] theorem setPeer_sb (d : Nat) (p : Peer) (s : State) : (setPeer d p s).sb = s.sb := rfl
@[simp] theorem setPeer_dbg (d : Nat) (p : Peer) (s : State) : (setPeer d p s).dbg = s.dbg := rfl
@[simp] theorem setPeer_module (d : Nat) (p : Peer) (s : State) : (setPeer d p s).module = s.module := rfl
@[simp] theorem setPeer_out (d : Nat) (p : Peer) (s : State) : (setPeer d p s).out = s.out := rfl

/-! `setVc` changes only `snet`. -/
@[simp] theorem setVc_pending (key : Nat) (v : NetVc) (s : State) : (setVc key v s).pending = s.pending := rfl
@[simp] theorem setVc_free (key : Nat) (v : NetVc) (s : State) : (setVc key v s).free = s.free := rfl
@[simp] theorem setVc_time (key : Nat) (v : NetVc) (s : State) : (setVc key v s).time = s.time := rfl
@[simp] theorem setVc_beats (key : Nat) (v : NetVc) (s : State) : (setVc key v s).beats = s.beats := rfl
@[simp] theorem setVc_tiles (key : Nat) (v : NetVc) (s : State) : (setVc key v s).tiles = s.tiles := rfl
@[simp] theorem setVc_links (key : Nat) (v : NetVc) (s : State) : (setVc key v s).links = s.links := rfl
@[simp] theorem setVc_parcels (key : Nat) (v : NetVc) (s : State) : (setVc key v s).parcels = s.parcels := rfl
@[simp] theorem setVc_pwr (key : Nat) (v : NetVc) (s : State) : (setVc key v s).pwr = s.pwr := rfl
@[simp] theorem setVc_progs (key : Nat) (v : NetVc) (s : State) : (setVc key v s).progs = s.progs := rfl
@[simp] theorem setVc_placing (key : Nat) (v : NetVc) (s : State) : (setVc key v s).placing = s.placing := rfl
@[simp] theorem setVc_memo (key : Nat) (v : NetVc) (s : State) : (setVc key v s).memo = s.memo := rfl
@[simp] theorem setVc_watches (key : Nat) (v : NetVc) (s : State) : (setVc key v s).watches = s.watches := rfl
@[simp] theorem setVc_hostif (key : Nat) (v : NetVc) (s : State) : (setVc key v s).hostif = s.hostif := rfl
@[simp] theorem setVc_stage (key : Nat) (v : NetVc) (s : State) : (setVc key v s).stage = s.stage := rfl
@[simp] theorem setVc_reserved (key : Nat) (v : NetVc) (s : State) : (setVc key v s).reserved = s.reserved := rfl
@[simp] theorem setVc_edge (key : Nat) (v : NetVc) (s : State) : (setVc key v s).edge = s.edge := rfl
@[simp] theorem setVc_colls (key : Nat) (v : NetVc) (s : State) : (setVc key v s).colls = s.colls := rfl
@[simp] theorem setVc_nextCid (key : Nat) (v : NetVc) (s : State) : (setVc key v s).nextCid = s.nextCid := rfl
@[simp] theorem setVc_sealHubs (key : Nat) (v : NetVc) (s : State) : (setVc key v s).sealHubs = s.sealHubs := rfl
@[simp] theorem setVc_adders (key : Nat) (v : NetVc) (s : State) : (setVc key v s).adders = s.adders := rfl
@[simp] theorem setVc_marks (key : Nat) (v : NetVc) (s : State) : (setVc key v s).marks = s.marks := rfl
@[simp] theorem setVc_moving (key : Nat) (v : NetVc) (s : State) : (setVc key v s).moving = s.moving := rfl
@[simp] theorem setVc_deferred (key : Nat) (v : NetVc) (s : State) : (setVc key v s).deferred = s.deferred := rfl
@[simp] theorem setVc_atClose (key : Nat) (v : NetVc) (s : State) : (setVc key v s).atClose = s.atClose := rfl
@[simp] theorem setVc_log (key : Nat) (v : NetVc) (s : State) : (setVc key v s).log = s.log := rfl
@[simp] theorem setVc_doms (key : Nat) (v : NetVc) (s : State) : (setVc key v s).doms = s.doms := rfl
@[simp] theorem setVc_lees (key : Nat) (v : NetVc) (s : State) : (setVc key v s).lees = s.lees := rfl
@[simp] theorem setVc_leesSeq (key : Nat) (v : NetVc) (s : State) : (setVc key v s).leesSeq = s.leesSeq := rfl
@[simp] theorem setVc_boot (key : Nat) (v : NetVc) (s : State) : (setVc key v s).boot = s.boot := rfl
@[simp] theorem setVc_sec (key : Nat) (v : NetVc) (s : State) : (setVc key v s).sec = s.sec := rfl
@[simp] theorem setVc_sb (key : Nat) (v : NetVc) (s : State) : (setVc key v s).sb = s.sb := rfl
@[simp] theorem setVc_dbg (key : Nat) (v : NetVc) (s : State) : (setVc key v s).dbg = s.dbg := rfl
@[simp] theorem setVc_module (key : Nat) (v : NetVc) (s : State) : (setVc key v s).module = s.module := rfl
@[simp] theorem setVc_out (key : Nat) (v : NetVc) (s : State) : (setVc key v s).out = s.out := rfl

/-! `setOut` changes only `snet`. -/
@[simp] theorem setOut_pending (key : Nat) (o : NetOut) (s : State) : (setOut key o s).pending = s.pending := rfl
@[simp] theorem setOut_free (key : Nat) (o : NetOut) (s : State) : (setOut key o s).free = s.free := rfl
@[simp] theorem setOut_time (key : Nat) (o : NetOut) (s : State) : (setOut key o s).time = s.time := rfl
@[simp] theorem setOut_beats (key : Nat) (o : NetOut) (s : State) : (setOut key o s).beats = s.beats := rfl
@[simp] theorem setOut_tiles (key : Nat) (o : NetOut) (s : State) : (setOut key o s).tiles = s.tiles := rfl
@[simp] theorem setOut_links (key : Nat) (o : NetOut) (s : State) : (setOut key o s).links = s.links := rfl
@[simp] theorem setOut_parcels (key : Nat) (o : NetOut) (s : State) : (setOut key o s).parcels = s.parcels := rfl
@[simp] theorem setOut_pwr (key : Nat) (o : NetOut) (s : State) : (setOut key o s).pwr = s.pwr := rfl
@[simp] theorem setOut_progs (key : Nat) (o : NetOut) (s : State) : (setOut key o s).progs = s.progs := rfl
@[simp] theorem setOut_placing (key : Nat) (o : NetOut) (s : State) : (setOut key o s).placing = s.placing := rfl
@[simp] theorem setOut_memo (key : Nat) (o : NetOut) (s : State) : (setOut key o s).memo = s.memo := rfl
@[simp] theorem setOut_watches (key : Nat) (o : NetOut) (s : State) : (setOut key o s).watches = s.watches := rfl
@[simp] theorem setOut_hostif (key : Nat) (o : NetOut) (s : State) : (setOut key o s).hostif = s.hostif := rfl
@[simp] theorem setOut_stage (key : Nat) (o : NetOut) (s : State) : (setOut key o s).stage = s.stage := rfl
@[simp] theorem setOut_reserved (key : Nat) (o : NetOut) (s : State) : (setOut key o s).reserved = s.reserved := rfl
@[simp] theorem setOut_edge (key : Nat) (o : NetOut) (s : State) : (setOut key o s).edge = s.edge := rfl
@[simp] theorem setOut_colls (key : Nat) (o : NetOut) (s : State) : (setOut key o s).colls = s.colls := rfl
@[simp] theorem setOut_nextCid (key : Nat) (o : NetOut) (s : State) : (setOut key o s).nextCid = s.nextCid := rfl
@[simp] theorem setOut_sealHubs (key : Nat) (o : NetOut) (s : State) : (setOut key o s).sealHubs = s.sealHubs := rfl
@[simp] theorem setOut_adders (key : Nat) (o : NetOut) (s : State) : (setOut key o s).adders = s.adders := rfl
@[simp] theorem setOut_marks (key : Nat) (o : NetOut) (s : State) : (setOut key o s).marks = s.marks := rfl
@[simp] theorem setOut_moving (key : Nat) (o : NetOut) (s : State) : (setOut key o s).moving = s.moving := rfl
@[simp] theorem setOut_deferred (key : Nat) (o : NetOut) (s : State) : (setOut key o s).deferred = s.deferred := rfl
@[simp] theorem setOut_atClose (key : Nat) (o : NetOut) (s : State) : (setOut key o s).atClose = s.atClose := rfl
@[simp] theorem setOut_log (key : Nat) (o : NetOut) (s : State) : (setOut key o s).log = s.log := rfl
@[simp] theorem setOut_doms (key : Nat) (o : NetOut) (s : State) : (setOut key o s).doms = s.doms := rfl
@[simp] theorem setOut_lees (key : Nat) (o : NetOut) (s : State) : (setOut key o s).lees = s.lees := rfl
@[simp] theorem setOut_leesSeq (key : Nat) (o : NetOut) (s : State) : (setOut key o s).leesSeq = s.leesSeq := rfl
@[simp] theorem setOut_boot (key : Nat) (o : NetOut) (s : State) : (setOut key o s).boot = s.boot := rfl
@[simp] theorem setOut_sec (key : Nat) (o : NetOut) (s : State) : (setOut key o s).sec = s.sec := rfl
@[simp] theorem setOut_sb (key : Nat) (o : NetOut) (s : State) : (setOut key o s).sb = s.sb := rfl
@[simp] theorem setOut_dbg (key : Nat) (o : NetOut) (s : State) : (setOut key o s).dbg = s.dbg := rfl
@[simp] theorem setOut_module (key : Nat) (o : NetOut) (s : State) : (setOut key o s).module = s.module := rfl
@[simp] theorem setOut_out (key : Nat) (o : NetOut) (s : State) : (setOut key o s).out = s.out := rfl

/-! `setFeed` changes only `snet`. -/
@[simp] theorem setFeed_pending (key : Nat) (l : List (Packet × Nat)) (s : State) : (setFeed key l s).pending = s.pending := rfl
@[simp] theorem setFeed_free (key : Nat) (l : List (Packet × Nat)) (s : State) : (setFeed key l s).free = s.free := rfl
@[simp] theorem setFeed_time (key : Nat) (l : List (Packet × Nat)) (s : State) : (setFeed key l s).time = s.time := rfl
@[simp] theorem setFeed_beats (key : Nat) (l : List (Packet × Nat)) (s : State) : (setFeed key l s).beats = s.beats := rfl
@[simp] theorem setFeed_tiles (key : Nat) (l : List (Packet × Nat)) (s : State) : (setFeed key l s).tiles = s.tiles := rfl
@[simp] theorem setFeed_links (key : Nat) (l : List (Packet × Nat)) (s : State) : (setFeed key l s).links = s.links := rfl
@[simp] theorem setFeed_parcels (key : Nat) (l : List (Packet × Nat)) (s : State) : (setFeed key l s).parcels = s.parcels := rfl
@[simp] theorem setFeed_pwr (key : Nat) (l : List (Packet × Nat)) (s : State) : (setFeed key l s).pwr = s.pwr := rfl
@[simp] theorem setFeed_progs (key : Nat) (l : List (Packet × Nat)) (s : State) : (setFeed key l s).progs = s.progs := rfl
@[simp] theorem setFeed_placing (key : Nat) (l : List (Packet × Nat)) (s : State) : (setFeed key l s).placing = s.placing := rfl
@[simp] theorem setFeed_memo (key : Nat) (l : List (Packet × Nat)) (s : State) : (setFeed key l s).memo = s.memo := rfl
@[simp] theorem setFeed_watches (key : Nat) (l : List (Packet × Nat)) (s : State) : (setFeed key l s).watches = s.watches := rfl
@[simp] theorem setFeed_hostif (key : Nat) (l : List (Packet × Nat)) (s : State) : (setFeed key l s).hostif = s.hostif := rfl
@[simp] theorem setFeed_stage (key : Nat) (l : List (Packet × Nat)) (s : State) : (setFeed key l s).stage = s.stage := rfl
@[simp] theorem setFeed_reserved (key : Nat) (l : List (Packet × Nat)) (s : State) : (setFeed key l s).reserved = s.reserved := rfl
@[simp] theorem setFeed_edge (key : Nat) (l : List (Packet × Nat)) (s : State) : (setFeed key l s).edge = s.edge := rfl
@[simp] theorem setFeed_colls (key : Nat) (l : List (Packet × Nat)) (s : State) : (setFeed key l s).colls = s.colls := rfl
@[simp] theorem setFeed_nextCid (key : Nat) (l : List (Packet × Nat)) (s : State) : (setFeed key l s).nextCid = s.nextCid := rfl
@[simp] theorem setFeed_sealHubs (key : Nat) (l : List (Packet × Nat)) (s : State) : (setFeed key l s).sealHubs = s.sealHubs := rfl
@[simp] theorem setFeed_adders (key : Nat) (l : List (Packet × Nat)) (s : State) : (setFeed key l s).adders = s.adders := rfl
@[simp] theorem setFeed_marks (key : Nat) (l : List (Packet × Nat)) (s : State) : (setFeed key l s).marks = s.marks := rfl
@[simp] theorem setFeed_moving (key : Nat) (l : List (Packet × Nat)) (s : State) : (setFeed key l s).moving = s.moving := rfl
@[simp] theorem setFeed_deferred (key : Nat) (l : List (Packet × Nat)) (s : State) : (setFeed key l s).deferred = s.deferred := rfl
@[simp] theorem setFeed_atClose (key : Nat) (l : List (Packet × Nat)) (s : State) : (setFeed key l s).atClose = s.atClose := rfl
@[simp] theorem setFeed_log (key : Nat) (l : List (Packet × Nat)) (s : State) : (setFeed key l s).log = s.log := rfl
@[simp] theorem setFeed_doms (key : Nat) (l : List (Packet × Nat)) (s : State) : (setFeed key l s).doms = s.doms := rfl
@[simp] theorem setFeed_lees (key : Nat) (l : List (Packet × Nat)) (s : State) : (setFeed key l s).lees = s.lees := rfl
@[simp] theorem setFeed_leesSeq (key : Nat) (l : List (Packet × Nat)) (s : State) : (setFeed key l s).leesSeq = s.leesSeq := rfl
@[simp] theorem setFeed_boot (key : Nat) (l : List (Packet × Nat)) (s : State) : (setFeed key l s).boot = s.boot := rfl
@[simp] theorem setFeed_sec (key : Nat) (l : List (Packet × Nat)) (s : State) : (setFeed key l s).sec = s.sec := rfl
@[simp] theorem setFeed_sb (key : Nat) (l : List (Packet × Nat)) (s : State) : (setFeed key l s).sb = s.sb := rfl
@[simp] theorem setFeed_dbg (key : Nat) (l : List (Packet × Nat)) (s : State) : (setFeed key l s).dbg = s.dbg := rfl
@[simp] theorem setFeed_module (key : Nat) (l : List (Packet × Nat)) (s : State) : (setFeed key l s).module = s.module := rfl
@[simp] theorem setFeed_out (key : Nat) (l : List (Packet × Nat)) (s : State) : (setFeed key l s).out = s.out := rfl

/-! `markSent` changes only `snet`. -/
@[simp] theorem markSent_pending (f : Packet → Packet) (p : Packet) (s : State) : (markSent f p s).pending = s.pending := rfl
@[simp] theorem markSent_free (f : Packet → Packet) (p : Packet) (s : State) : (markSent f p s).free = s.free := rfl
@[simp] theorem markSent_time (f : Packet → Packet) (p : Packet) (s : State) : (markSent f p s).time = s.time := rfl
@[simp] theorem markSent_beats (f : Packet → Packet) (p : Packet) (s : State) : (markSent f p s).beats = s.beats := rfl
@[simp] theorem markSent_tiles (f : Packet → Packet) (p : Packet) (s : State) : (markSent f p s).tiles = s.tiles := rfl
@[simp] theorem markSent_links (f : Packet → Packet) (p : Packet) (s : State) : (markSent f p s).links = s.links := rfl
@[simp] theorem markSent_parcels (f : Packet → Packet) (p : Packet) (s : State) : (markSent f p s).parcels = s.parcels := rfl
@[simp] theorem markSent_pwr (f : Packet → Packet) (p : Packet) (s : State) : (markSent f p s).pwr = s.pwr := rfl
@[simp] theorem markSent_progs (f : Packet → Packet) (p : Packet) (s : State) : (markSent f p s).progs = s.progs := rfl
@[simp] theorem markSent_placing (f : Packet → Packet) (p : Packet) (s : State) : (markSent f p s).placing = s.placing := rfl
@[simp] theorem markSent_memo (f : Packet → Packet) (p : Packet) (s : State) : (markSent f p s).memo = s.memo := rfl
@[simp] theorem markSent_watches (f : Packet → Packet) (p : Packet) (s : State) : (markSent f p s).watches = s.watches := rfl
@[simp] theorem markSent_hostif (f : Packet → Packet) (p : Packet) (s : State) : (markSent f p s).hostif = s.hostif := rfl
@[simp] theorem markSent_stage (f : Packet → Packet) (p : Packet) (s : State) : (markSent f p s).stage = s.stage := rfl
@[simp] theorem markSent_reserved (f : Packet → Packet) (p : Packet) (s : State) : (markSent f p s).reserved = s.reserved := rfl
@[simp] theorem markSent_edge (f : Packet → Packet) (p : Packet) (s : State) : (markSent f p s).edge = s.edge := rfl
@[simp] theorem markSent_colls (f : Packet → Packet) (p : Packet) (s : State) : (markSent f p s).colls = s.colls := rfl
@[simp] theorem markSent_nextCid (f : Packet → Packet) (p : Packet) (s : State) : (markSent f p s).nextCid = s.nextCid := rfl
@[simp] theorem markSent_sealHubs (f : Packet → Packet) (p : Packet) (s : State) : (markSent f p s).sealHubs = s.sealHubs := rfl
@[simp] theorem markSent_adders (f : Packet → Packet) (p : Packet) (s : State) : (markSent f p s).adders = s.adders := rfl
@[simp] theorem markSent_marks (f : Packet → Packet) (p : Packet) (s : State) : (markSent f p s).marks = s.marks := rfl
@[simp] theorem markSent_moving (f : Packet → Packet) (p : Packet) (s : State) : (markSent f p s).moving = s.moving := rfl
@[simp] theorem markSent_deferred (f : Packet → Packet) (p : Packet) (s : State) : (markSent f p s).deferred = s.deferred := rfl
@[simp] theorem markSent_atClose (f : Packet → Packet) (p : Packet) (s : State) : (markSent f p s).atClose = s.atClose := rfl
@[simp] theorem markSent_log (f : Packet → Packet) (p : Packet) (s : State) : (markSent f p s).log = s.log := rfl
@[simp] theorem markSent_doms (f : Packet → Packet) (p : Packet) (s : State) : (markSent f p s).doms = s.doms := rfl
@[simp] theorem markSent_lees (f : Packet → Packet) (p : Packet) (s : State) : (markSent f p s).lees = s.lees := rfl
@[simp] theorem markSent_leesSeq (f : Packet → Packet) (p : Packet) (s : State) : (markSent f p s).leesSeq = s.leesSeq := rfl
@[simp] theorem markSent_boot (f : Packet → Packet) (p : Packet) (s : State) : (markSent f p s).boot = s.boot := rfl
@[simp] theorem markSent_sec (f : Packet → Packet) (p : Packet) (s : State) : (markSent f p s).sec = s.sec := rfl
@[simp] theorem markSent_sb (f : Packet → Packet) (p : Packet) (s : State) : (markSent f p s).sb = s.sb := rfl
@[simp] theorem markSent_dbg (f : Packet → Packet) (p : Packet) (s : State) : (markSent f p s).dbg = s.dbg := rfl
@[simp] theorem markSent_module (f : Packet → Packet) (p : Packet) (s : State) : (markSent f p s).module = s.module := rfl
@[simp] theorem markSent_out (f : Packet → Packet) (p : Packet) (s : State) : (markSent f p s).out = s.out := rfl

end Sys2Proof.Machine
end

