-- ==== Sys2Proof/Laws/Still.lean ====
section
/-! SUPPORT. The operations and commands that touch no tile: cores, routers and memories stay as they are (`State.still`), one lemma for each. -/

namespace Sys2Proof.Machine

@[simp] theorem still_mk (s : State) pending_ free_ time_ beats_ links_ parcels_ pwr_ progs_ placing_ memo_ watches_ snet_ hostif_ stage_ reserved_ edge_ colls_ nextCid_ sealHubs_ adders_ marks_ moving_ deferred_ atClose_ log_ doms_ lees_ leesSeq_ boot_ sec_ sb_ dbg_ module_ out_ : State.still (State.mk pending_ free_ time_ beats_ s.tiles links_ parcels_ pwr_ progs_ placing_ memo_ watches_ snet_ hostif_ stage_ reserved_ edge_ colls_ nextCid_ sealHubs_ adders_ marks_ moving_ deferred_ atClose_ log_ doms_ lees_ leesSeq_ boot_ sec_ sb_ dbg_ module_ out_) = s.still := rfl
@[simp] theorem foldl_still {α : Type} (f : State → α → State) (h : ∀ s a, (f s a).still = s.still) (l : List α) :
    ∀ s, (l.foldl f s).still = s.still := by
  induction l with
  | nil => intro s; rfl
  | cons a t ih => intro s; rw [List.foldl_cons, ih, h]
@[simp] theorem still_ite (c : Prop) [Decidable c] (a b : State) : (if c then a else b).still = if c then a.still else b.still := by split <;> rfl
theorem pwr_still (s : State) (x : Pwr) : State.still { s with pwr := x } = s.still := rfl

@[simp] theorem nextStill_next (s t : State) : NextStill s (.next t) ↔ t.still = s.still := Iff.rfl

@[simp] theorem updParcel_still (p : Fin 12) (f : Parcel → Parcel) (s : State) : (updParcel p f s).still = s.still := by
  simp [updParcel]
@[simp] theorem setProg_still (k : Fin 8) (p : Option Prog) (s : State) : (setProg k p s).still = s.still := by
  simp [setProg]
@[simp] theorem updProg_still (k : Fin 8) (f : Prog → Prog) (s : State) : (updProg k f s).still = s.still := by
  simp [updProg]
@[simp] theorem freeDWord_still (s : State) : (freeDWord s).2.still = s.still := by
  simp [freeDWord]
@[simp] theorem setDom_still (c : Nat) (d : Dom) (s : State) : (setDom c d s).still = s.still := by
  simp [setDom]
@[simp] theorem updDom_still (c : Nat) (f : Dom → Dom) (s : State) : (updDom c f s).still = s.still := by
  simp [updDom]
@[simp] theorem domTo_still (c : Nat) (st : DomSt) (s : State) : (domTo c st s).still = s.still := by
  simp [domTo]
@[simp] theorem emit_still (o : Out) (s : State) : (emit o s).still = s.still := by
  simp [emit]
@[simp] theorem signal_still (v : Nat) (s : State) : (signal v s).still = s.still := by
  unfold signal; (repeat' split) <;> simp
@[simp] theorem attnApply_still (b : Nat) (s : State) : (attnApply b s).still = s.still := by
  unfold attnApply; simp only []; (repeat' split) <;> first | (simp; done) | (rw [foldl_still] <;> intros <;> simp; done)
@[simp] theorem attn_still (b : Nat) (s : State) : (attn b s).still = s.still := by
  unfold attn; (repeat' split) <;> simp
@[simp] theorem logNow_still (e : ErrRec) (s : State) : (logNow e s).still = s.still := by
  unfold logNow; (repeat' split) <;> simp
@[simp] theorem logBuffer_still (e : ErrRec) (ds : List Nat) (s : State) : (logBuffer e ds s).still = s.still := by
  unfold logBuffer; (repeat' split) <;> simp
@[simp] theorem logRec_still (e : ErrRec) (s : State) : (logRec e s).still = s.still := by
  unfold logRec; (repeat' split) <;> simp
@[simp] theorem logFor_still (e : ErrRec) (ds : List Nat) (s : State) : (logFor e ds s).still = s.still := by
  unfold logFor; (repeat' split) <;> simp
@[simp] theorem logEvent_still (cls : Nat) (low : Nat) (s : State) : (logEvent cls low s).still = s.still := by
  simp [logEvent]
@[simp] theorem updDesc_still (d : DescRef) (f : Desc → Desc) (s : State) : (updDesc d f s).still = s.still := by
  simp [updDesc]
@[simp] theorem decideDesc_still (d : DescRef) (status : Nat) (detail : Nat) (s : State) : (decideDesc d status detail s).still = s.still := by
  simp [decideDesc]
@[simp] theorem countIn_still (p : Packet) (s : State) : (countIn p s).still = s.still := by
  unfold countIn; (repeat' split) <;> simp
@[simp] theorem countOut_still (p : Packet) (s : State) : (countOut p s).still = s.still := by
  unfold countOut; (repeat' split) <;> simp
@[simp] theorem countLost_still (s : State) : (countLost s).still = s.still := by
  simp [countLost]
@[simp] theorem setVc_still (key : Nat) (v : NetVc) (s : State) : (setVc key v s).still = s.still := by
  simp [setVc]
@[simp] theorem setOut_still (key : Nat) (o : NetOut) (s : State) : (setOut key o s).still = s.still := by
  simp [setOut]
@[simp] theorem markSent_still (f : Packet → Packet) (p : Packet) (s : State) : (markSent f p s).still = s.still := by
  simp [markSent]
@[simp] theorem markGone_still (v0 : Packet) (v1 : State) : (markGone v0 v1).still = v1.still := by
  simp [markGone]
@[simp] theorem markBad_still (v0 : Packet) (v1 : State) : (markBad v0 v1).still = v1.still := by
  simp [markBad]
@[simp] theorem netLoss_still (p : Packet) (ejected : Bool) (s : State) : (netLoss p ejected s).still = s.still := by
  simp [netLoss]
@[simp] theorem ejectFlit_still (f : NetFlit) (s : State) : (ejectFlit f s).still = s.still := by
  simp [ejectFlit]
@[simp] theorem popFlit_still (key : Nat) (o : Nat) (s : State) : (popFlit key o s).still = s.still := by
  unfold popFlit; (repeat' split) <;> simp
@[simp] theorem pushFlit_still (key : Nat) (f : NetFlit) (s : State) : (pushFlit key f s).still = s.still := by
  simp [pushFlit]
@[simp] theorem moveFlit_still (r : Nat × Nat) (o : Nat) (e : Nat × NetFlit) (s : State) : (moveFlit r o e s).still = s.still := by
  unfold moveFlit; simp only []; (repeat' split) <;> first | (simp; done) | (rw [foldl_still] <;> intros <;> simp; done)
@[simp] theorem serveOut_still (s0 : State) (s : State) (g : (Nat × Nat) × Nat × List (Nat × NetFlit)) : (serveOut s0 s g).still = s.still := by
  unfold serveOut; simp only []; (repeat' split) <;> first | (simp; done) | (rw [foldl_still] <;> intros <;> simp; done)
@[simp] theorem discardFlit_still (s : State) (e : Nat × NetFlit × Nat) : (discardFlit s e).still = s.still := by
  simp [discardFlit]
@[simp] theorem noteSent_still (p : Packet) (s : State) : (noteSent p s).still = s.still := by
  simp [noteSent]
@[simp] theorem setFeed_still (key : Nat) (l : List (Packet × Nat)) (s : State) : (setFeed key l s).still = s.still := by
  simp [setFeed]
@[simp] theorem injectFlit_still (s0 : State) (s : State) (port : Nat) : (injectFlit s0 s port).still = s.still := by
  unfold injectFlit; simp only []; (repeat' split) <;> first | (simp; done) | (rw [foldl_still] <;> intros <;> simp; done)
@[simp] theorem netCycle_still (s : State) : (netCycle s).still = s.still := by
  simp [netCycle]
@[simp] theorem netRun_still (n : Nat) : ∀ s : State, (netRun n s).still = s.still := by
  induction n with
  | zero => intro s; rfl
  | succ n ih => intro s; unfold netRun; split <;> simp [ih]
@[simp] theorem netPass_still (s : State) : (netPass s).still = s.still := by
  simp [netPass]
@[simp] theorem feedPacket_still (p : Packet) (s : State) : (feedPacket p s).still = s.still := by
  simp [feedPacket]
@[simp] theorem pullPacket_still (p : Packet) (s : State) : (pullPacket p s).still = s.still := by
  simp [pullPacket]
@[simp] theorem cutNet_still (q : Fin 12) (s : State) : (cutNet q s).still = s.still := by
  simp [cutNet]
@[simp] theorem setPort_still (n : Fin 24) (p : Port) (s : State) : (setPort n p s).still = s.still := by
  simp [setPort]
@[simp] theorem updPort_still (n : Fin 24) (f : Port → Port) (s : State) : (updPort n f s).still = s.still := by
  simp [updPort]
@[simp] theorem sendPlain_still (n : Fin 24) (ftype : BitVec 2) (body : List Byte) (s : State) : (sendPlain n ftype body s).still = s.still := by
  simp [sendPlain]
@[simp] theorem sendCtrl_still (n : Fin 24) (body : List Byte) (s : State) : (sendCtrl n body s).still = s.still := by
  simp [sendCtrl]
@[simp] theorem sendIdle_still (n : Fin 24) (s : State) : (sendIdle n s).still = s.still := by
  simp [sendIdle]
@[simp] theorem idles_still (n : Fin 24) (k : Nat) : ∀ s : State, (idles n k s).still = s.still := by
  induction k with
  | zero => intro s; rfl
  | succ k ih => intro s; unfold idles; split <;> simp [ih]
@[simp] theorem resend_still (n : Fin 24) (f : Flit) (s : State) : (resend n f s).still = s.still := by
  simp [resend]
@[simp] theorem replayAll_still (n : Fin 24) (s : State) : (replayAll n s).still = s.still := by
  unfold replayAll; rw [foldl_still] <;> intros <;> first | (simp; done) | ((repeat' split) <;> (simp; done))
@[simp] theorem drainTx_still (n : Fin 24) (l : List (Nat × BitVec 64 × List Byte)) : ∀ s : State, (drainTx n l s).still = s.still := by
  induction l with
  | nil => intro s; rfl
  | cons a t ih =>
    intro s
    obtain ⟨vc, thdr, body⟩ := a
    unfold drainTx
    simp only []
    split <;> (rw [ih]; simp)
@[simp] theorem pumpPort_still (n : Fin 24) (s : State) : (pumpPort n s).still = s.still := by
  simp [pumpPort]
@[simp] theorem sendPkt_still (n : Fin 24) (k : EdgePkt) (s : State) : (sendPkt n k s).still = s.still := by
  simp [sendPkt]
@[simp] theorem setEchan_still (k : Nat) (c : EChan) (s : State) : (setEchan k c s).still = s.still := by
  simp [setEchan]
@[simp] theorem updEchan_still (k : Nat) (f : EChan → EChan) (s : State) : (updEchan k f s).still = s.still := by
  simp [updEchan]
@[simp] theorem setPeer_still (d : Nat) (p : Peer) (s : State) : (setPeer d p s).still = s.still := by
  simp [setPeer]
@[simp] theorem takePort_still (k : Nat) (s : State) : (takePort k s).still = s.still := by
  unfold takePort; (repeat' split) <;> simp
@[simp] theorem settle_still (k : Nat) (s : State) : (settle k s).still = s.still := by
  simp [settle]
@[simp] theorem peerDownDescs_still (k : Nat) (cause : Nat) (s : State) : (peerDownDescs k cause s).still = s.still := by
  unfold peerDownDescs; (try simp only []); repeat' first | rfl | (simp; done) | split | rw [foldl_still] | intro _
@[simp] theorem routeGone_still (k : Nat) (s : State) : (routeGone k s).still = s.still := by
  simp [routeGone]
@[simp] theorem boundary_still (k : Nat) (last : Bool) (s : State) : (boundary k last s).still = s.still := by
  unfold boundary; (repeat' split) <;> simp
@[simp] theorem fixHub_still (k : Nat) (s : State) : (fixHub k s).still = s.still := by
  simp [fixHub]
@[simp] theorem pumpN_still (k : Nat) (f : Nat) : ∀ s : State, (pumpN k f s).still = s.still := by
  induction f with
  | zero => intro s; rfl
  | succ f ih =>
    intro s; unfold pumpN; simp only []; split
    · rfl
    · split <;> simp [ih]
@[simp] theorem sendTack_still (k : Nat) (s : State) : (sendTack k s).still = s.still := by
  unfold sendTack; simp only []; (repeat' split) <;> first | (simp; done) | (rw [foldl_still] <;> intros <;> simp; done)
@[simp] theorem pump_still (k : Nat) (s : State) : (pump k s).still = s.still := by
  unfold pump; simp only []; split <;> simp
@[simp] theorem enqueue_still (k : Nat) (m : TxMsg) (s : State) : (enqueue k m s).still = s.still := by
  simp [enqueue]
@[simp] theorem postRecv_still (k : Nat) (r : RxPost) (s : State) : (postRecv k r s).still = s.still := by
  simp [postRecv]
@[simp] theorem placeTx_still (d : DescRef) (off : Nat) (b : List Byte) (s : State) : (placeTx d off b s).still = s.still := by
  unfold placeTx; (repeat' split) <;> simp
@[simp] theorem fillTx_still (k : Nat) (no : Nat) (b : List Byte) (s : State) : (fillTx k no b s).still = s.still := by
  unfold fillTx; simp only []; (repeat' split) <;> first | (simp; done) | (rw [foldl_still] <;> intros <;> simp; done)
@[simp] theorem dropTx_still (k : Nat) (no : Nat) (s : State) : (dropTx k no s).still = s.still := by
  unfold dropTx; simp only []; (repeat' split) <;> first | (simp; done) | (rw [foldl_still] <;> intros <;> simp; done)
@[simp] theorem abortEdge_still (d : DescRef) (s : State) : (abortEdge d s).still = s.still := by
  unfold abortEdge; simp only []; (repeat' split) <;> first | (simp; done) | (rw [foldl_still] <;> intros <;> simp; done)
@[simp] theorem breakChan_still (cause : Nat) (s : State) (e : Nat × EChan) : (breakChan cause s e).still = s.still := by
  simp [breakChan]
@[simp] theorem breakPeer_still (peer : Nat) (cause : Nat) (s : State) : (breakPeer peer cause s).still = s.still := by
  unfold breakPeer; simp only []; (repeat' split) <;> first | (simp; done) | (rw [foldl_still] <;> intros <;> simp; done)
@[simp] theorem movePortChans_still (n : Fin 24) (s : State) : (movePortChans n s).still = s.still := by
  unfold movePortChans; simp only []; (repeat' split) <;> first | (simp; done) | (rw [foldl_still] <;> intros <;> simp; done)
@[simp] theorem portTo_still (n : Fin 24) (st : PortSt) (s : State) : (portTo n st s).still = s.still := by
  unfold portTo; simp only []; (repeat' split) <;> first | (simp; done) | (rw [foldl_still] <;> intros <;> simp; done)
@[simp] theorem disablePort_still (n : Fin 24) (s : State) : (disablePort n s).still = s.still := by
  simp [disablePort]
@[simp] theorem failQuiet_still (n : Fin 24) (s : State) : (failQuiet n s).still = s.still := by
  simp [failQuiet]
@[simp] theorem failPort_still (n : Fin 24) (s : State) : (failPort n s).still = s.still := by
  simp [failPort]
@[simp] theorem retrainPort_still (n : Fin 24) (s : State) : (retrainPort n s).still = s.still := by
  simp [retrainPort]
@[simp] theorem dropColl_still (c : Coll) (s : State) : (dropColl c s).still = s.still := by
  unfold dropColl; simp only []; (repeat' split) <;> first | (simp; done) | (rw [foldl_still] <;> intros <;> simp; done)
@[simp] theorem sendHead_still (c : Coll) (k : Nat) (b : List Byte) (s : State) : (sendHead c k b s).still = s.still := by
  simp [sendHead]
@[simp] theorem sendAborts_still (c : Coll) (status : Nat) (detail : Nat) (s : State) : (sendAborts c status detail s).still = s.still := by
  unfold sendAborts; rw [foldl_still] <;> intros <;> first | (simp; done) | ((repeat' split) <;> (simp; done))
@[simp] theorem setDrain_still (c : Coll) (s : State) (k : Nat) : (setDrain c s k).still = s.still := by
  unfold setDrain; simp only []; (repeat' split) <;> first | (simp; done) | (rw [foldl_still] <;> intros <;> simp; done)
@[simp] theorem endCollTaken_still (c : Coll) (taken : Nat) (status : Nat) (detail : Nat) (s : State) : (endCollTaken c taken status detail s).still = s.still := by
  simp [endCollTaken]
@[simp] theorem endColl_still (c : Coll) (status : Nat) (detail : Nat) (s : State) : (endColl c status detail s).still = s.still := by
  simp [endColl]
@[simp] theorem writeTables_still (b : Fin 2) (m : BitVec 16) (s : State) : (writeTables b m s).still = s.still := by
  simp [writeTables]
@[simp] theorem loadRouters_still (q : Fin 12) (m : BitVec 16) (s : State) : (loadRouters q m s).still = s.still := by
  simp [loadRouters]
@[simp] theorem loadTables_still (m : BitVec 16) (s : State) : (loadTables m s).still = s.still := by
  simp [loadTables]
@[simp] theorem tableChange_still (m : BitVec 16) (s : State) : (tableChange m s).still = s.still := by
  unfold tableChange; (try simp only []); (repeat' split) <;> first | rfl | (simp; done) | (rw [foldl_still] <;> intros <;> first | (simp; done) | ((repeat' split) <;> (simp; done)))
@[simp] theorem idRead_still (n : Fin 24) (s : State) : (idRead n s).still = s.still := by
  simp [idRead]
@[simp] theorem servePort_still (s : State) (n : Fin 24) : (servePort s n).still = s.still := by
  unfold servePort; simp only []; (repeat' split) <;> first | (simp; done) | (rw [foldl_still] <;> intros <;> simp; done)
@[simp] theorem failDie_still (d : Nat) (s : State) : (failDie d s).still = s.still := by
  unfold failDie; rw [foldl_still] <;> intros <;> first | (simp; done) | ((repeat' split) <;> (simp; done))
@[simp] theorem servePorts_still (s : State) : (servePorts s).still = s.still := by
  unfold servePorts; rw [foldl_still] <;> intros <;> first | (simp; done) | ((repeat' split) <;> (simp; done))
@[simp] theorem fenceDescs_still (k : Fin 8) (s : State) : (fenceDescs k s).still = s.still := by
  unfold fenceDescs; simp only []; (repeat' split) <;> first | (simp; done) | (rw [foldl_still] <;> intros <;> simp; done)
@[simp] theorem fenceColls_still (k : Fin 8) (s : State) : (fenceColls k s).still = s.still := by
  unfold fenceColls; simp only []; (repeat' split) <;> first | (simp; done) | (rw [foldl_still] <;> intros <;> simp; done)
@[simp] theorem fenceProg_still (k : Fin 8) (cause : Nat) (rseq : Nat) (lees : Bool) (s : State) : (fenceProg k cause rseq lees s).still = s.still := by
  unfold fenceProg; simp only []; (repeat' split) <;> first | (simp; done) | (rw [foldl_still] <;> intros <;> simp; done)
@[simp] theorem recFence_still (e : ErrRec) (ks : List (Fin 8)) (cause : Nat) (s : State) : (recFence e ks cause s).still = s.still := by
  unfold recFence; simp only []; (repeat' split) <;> first | (simp; done) | (rw [foldl_still] <;> intros <;> simp; done)
@[simp] theorem spoil_still (t : TileAt) (s : State) : (spoil t s).still = s.still := by
  unfold spoil; rw [foldl_still] <;> intros <;> first | (simp; done) | ((repeat' split) <;> (simp; done))
@[simp] theorem loseStage_still (p : Fin 12) (s : State) : (loseStage p s).still = s.still := by
  unfold loseStage; simp only []; (repeat' split) <;> first | (simp; done) | (rw [foldl_still] <;> intros <;> simp; done)
@[simp] theorem areaLost_still (a : Area) (s : State) : (areaLost a s).still = s.still := by
  unfold areaLost; (repeat' split) <;> simp
@[simp] theorem copiesGone_still (p : Fin 12) (hit : TileAt → Bool) (s : State) : (copiesGone p hit s).still = s.still := by
  simp [copiesGone]
@[simp] theorem loseReserved_still (p : Fin 12) (s : State) : (loseReserved p s).still = s.still := by
  simp [loseReserved]
@[simp] theorem dropLinks_still (p : Fin 12) (s : State) : (dropLinks p s).still = s.still := by
  simp [dropLinks]
@[simp] theorem parcelTo_still (p : Fin 12) (st : PSt) (cause : Nat) (dst : DomSt) (dcause : Nat) (rseq : Nat) (s : State) : (parcelTo p st cause dst dcause rseq s).still = s.still := by
  simp [parcelTo]
@[simp] theorem startEvac_still (p : Fin 12) (cause : Nat) (s : State) : (startEvac p cause s).still = s.still := by
  unfold startEvac; (repeat' split) <;> simp
@[simp] theorem bumpGen_still (s : State) : (bumpGen s).still = s.still := by
  unfold bumpGen; simp only []; (repeat' split) <;> first | (simp; done) | (rw [foldl_still] <;> intros <;> simp; done)
@[simp] theorem addCulls_still (l : List (Nat × Nat × Nat)) (s : State) : (addCulls l s).still = s.still := by
  unfold addCulls; simp only []; (repeat' split) <;> first | (simp; done) | (rw [foldl_still] <;> intros <;> simp; done)
@[simp] theorem issueHold_still (h : Nat) (s : State) : (issueHold h s).still = s.still := by
  simp [issueHold]
@[simp] theorem startChange_still (target : Nat) (s : State) : (startChange target s).still = s.still := by
  simp [startChange]
@[simp] theorem evaluate_still (s : State) : (evaluate s).still = s.still := by
  unfold evaluate; simp only []; (repeat' split) <;> first | (simp; done) | (rw [foldl_still] <;> intros <;> simp; done)
@[simp] theorem forceSlow_still (s : State) : (forceSlow s).still = s.still := by
  unfold forceSlow; (repeat' split) <;> simp
@[simp] theorem setReplace_still (s : State) : (setReplace s).still = s.still := by
  unfold setReplace; (repeat' split) <;> simp
@[simp] theorem rateDown_still (p : Fin 12) (op : Nat) (s : State) : (rateDown p op s).still = s.still := by
  simp [rateDown]
@[simp] theorem retireParcel_still (p : Fin 12) (t : TileAt) (s : State) : (retireParcel p t s).still = s.still := by
  unfold retireParcel; (repeat' split) <;> simp
@[simp] theorem raiseTrim_still (p : Fin 12) (s : State) : (raiseTrim p s).still = s.still := by
  simp [raiseTrim]
@[simp] theorem compParcel_still (p : Fin 12) (t : TileAt) (s : State) : (compParcel p t s).still = s.still := by
  unfold compParcel; simp only []; (repeat' split) <;> first | (simp; done) | (rw [foldl_still] <;> intros <;> simp; done)
@[simp] theorem suspectTile_still (t : TileAt) (s : State) : (suspectTile t s).still = s.still := by
  unfold suspectTile; simp only []; (repeat' split) <;> first | (simp; done) | (rw [foldl_still] <;> intros <;> simp; done)
@[simp] theorem retireHub_still (h : Nat) (s : State) : (retireHub h s).still = s.still := by
  unfold retireHub; simp only []; (repeat' split) <;> first | (simp; done) | (rw [foldl_still] <;> intros <;> simp; done)
@[simp] theorem suspectHub_still (h : Fin 4) (s : State) : (suspectHub h s).still = s.still := by
  unfold suspectHub; simp only []; (repeat' split) <;> first | (simp; done) | (rw [foldl_still] <;> intros <;> simp; done)
@[simp] theorem hubsBack_still (s : State) : (hubsBack s).still = s.still := by
  unfold hubsBack; simp only []; (repeat' split) <;> first | (simp; done) | (rw [foldl_still] <;> intros <;> simp; done)
@[simp] theorem logSuspect_still (e : ErrRec) (s : State) : (logSuspect e s).still = s.still := by
  simp [logSuspect]
@[simp] theorem askHost_still (d : DescRef) (why : Why) (addr : DWord) (len : Nat) (s : State) : (askHost d why addr len s).still = s.still := by
  simp [askHost]
@[simp] theorem toHost_still (d : DescRef) (addr : DWord) (b : List Byte) (s : State) : (toHost d addr b s).still = s.still := by
  simp [toHost]
@[simp] theorem failDesc_still (d : DescRef) (status : Nat) (detail : Nat) (s : State) : (failDesc d status detail s).still = s.still := by
  simp [failDesc]
@[simp] theorem doneDesc_still (d : DescRef) (detail : Nat) (s : State) : (doneDesc d detail s).still = s.still := by
  unfold doneDesc; (repeat' split) <;> simp
@[simp] theorem updSlot_still (k : Fin 8) (n : Nat) (f : Slot → Slot) (s : State) : (updSlot k n f s).still = s.still := by
  simp [updSlot]
@[simp] theorem finishXfer_still (d : DescRef) (s : State) : (finishXfer d s).still = s.still := by
  unfold finishXfer; (repeat' split) <;> simp
@[simp] theorem writeOut_still (d : DescRef) (off : Nat) (b : List Byte) (s : State) : (writeOut d off b s).still = s.still := by
  unfold writeOut; (repeat' split) <;> simp
@[simp] theorem fillSlot_still (k : Fin 8) (n : Nat) (s : State) : (fillSlot k n s).still = s.still := by
  unfold fillSlot; simp only []; (repeat' split) <;> first | (simp; done) | (rw [foldl_still] <;> intros <;> simp; done)
@[simp] theorem landIn_still (k : Fin 8) (n : Nat) (d : DescRef) (b : List Byte) (s : State) : (landIn k n d b s).still = s.still := by
  simp [landIn]
@[simp] theorem release16_still (k : Fin 8) (n : Nat) (s : State) : (release16 k n s).still = s.still := by
  unfold release16; (try simp only []); (repeat' split) <;> first | (simp; done) | (simp; intros; (repeat' split) <;> simp; done)
@[simp] theorem landEdge_still (k : Fin 8) (n : Nat) (d : DescRef) (b : List Byte) (s : State) : (landEdge k n d b s).still = s.still := by
  simp [landEdge]
@[simp] theorem slotReset_still (k : Fin 8) (n : Nat) (all : Bool) (s : State) : (slotReset k n all s).still = s.still := by
  unfold slotReset; simp only []; (repeat' split) <;> first | (simp; done) | (rw [foldl_still] <;> intros <;> simp; done)
@[simp] theorem slotCores_still (k : Fin 8) (n : Nat) (s : State) : (slotCores k n s).still = s.still := by
  unfold slotCores; (repeat' split) <;> simp
@[simp] theorem eachSlot_still (f : Fin 8 → Nat → State → State) (p : Nat → Bool) (s : State)
    (h : ∀ k n s, (f k n s).still = s.still) : (eachSlot f p s).still = s.still := by
  unfold eachSlot
  rw [foldl_still]
  intros; split
  · rw [foldl_still]; intros; exact h _ _ _
  · rfl
@[simp] theorem markStale_still (s : State) : (markStale s).still = s.still := by
  simp [markStale]
@[simp] theorem blockXfers_still (s : State) : (blockXfers s).still = s.still := by
  unfold blockXfers; rw [foldl_still]; intro s k; split
  · rfl
  · rw [foldl_still]; intro s e; simp only []; (repeat' split) <;> first | rfl | (rw [foldl_still] <;> intros <;> simp)
@[simp] theorem redivide_still (loss : Bool) (h : Nat) (s : State) : (redivide loss h s).still = s.still := by
  unfold redivide; simp only []; (repeat' split) <;> first | (simp; done) | (rw [foldl_still] <;> intros <;> simp; done)
@[simp] theorem headLoss_still (p : Fin 12) (s : State) : (headLoss p s).still = s.still := by
  simp [headLoss]
@[simp] theorem redivideAll_still (s : State) : (redivideAll s).still = s.still := by
  simp [redivideAll]
@[simp] theorem pushWord_still (t : TileAt) (port : Nat) (beat : Nat) (w : TWord) (s : State) : (pushWord t port beat w s).still = s.still := by
  simp [pushWord]
@[simp] theorem creditParity_still (t : TileAt) (ch : Fin 8) (s : State) : (creditParity t ch s).still = s.still := by
  unfold creditParity; simp only []; (repeat' split) <;> first | (simp; done) | (rw [foldl_still] <;> intros <;> simp; done)
@[simp] theorem eachRunning_still (f : Prog → Prog) (s : State) : (eachRunning f s).still = s.still := by
  simp [eachRunning]
@[simp] theorem holdBeat_still (s : State) : (holdBeat s).still = s.still := by
  simp [holdBeat]
@[simp] theorem passTime_still (dt : Nat) (s : State) : (passTime dt s).still = s.still := by
  simp [passTime]
@[simp] theorem keepHead_still (d : Option Nat) (p : Packet) (s : State) : (keepHead d p s).still = s.still := by
  unfold keepHead; (repeat' split) <;> simp
@[simp] theorem noteHead_still (p : Packet) (s : State) : (noteHead p s).still = s.still := by
  simp [noteHead]
@[simp] theorem awaitMore_still (e : BitVec 1) (s : State) : (awaitMore e s).still = s.still := by
  simp [awaitMore]
@[simp] theorem awaitLess_still (e : BitVec 1) (s : State) : (awaitLess e s).still = s.still := by
  simp [awaitLess]
@[simp] theorem sendPacket_still (p : Packet) (s : State) : (sendPacket p s).still = s.still := by
  simp [sendPacket]
@[simp] theorem respond_still (p : Packet) (opc : BitVec 6) (first : Bool) (last : Bool) (countOff : Nat) (status : Nat) (b : List Byte) (s : State) : (respond p opc first last countOff status b s).still = s.still := by
  simp [respond]
@[simp] theorem partDone_still (d : DescRef) (s : State) : (partDone d s).still = s.still := by
  unfold partDone; (repeat' split) <;> simp
@[simp] theorem frameLost_still (k : Fin 8) (n : Nat) (d : DescRef) (m : Nat) (landed : Bool) (s : State) : (frameLost k n d m landed s).still = s.still := by
  unfold frameLost; (repeat' split) <;> simp
@[simp] theorem collPart_still (d : DescRef) (obj : Nat) (off : Nat) (pos : Nat) (b : List Byte) (s : State) : (collPart d obj off pos b s).still = s.still := by
  simp [collPart]
@[simp] theorem collFails_still (d : DescRef) (status : Nat) (detail : Nat) (s : State) : (collFails d status detail s).still = s.still := by
  simp [collFails]
@[simp] theorem closeReq_still (r : NetReq) (region : Nat) (status : Nat) (b : List Byte) (s : State) : (closeReq r region status b s).still = s.still := by
  unfold closeReq; simp only []; (repeat' split) <;> first | (simp; done) | (rw [foldl_still] <;> intros <;> simp; done)
@[simp] theorem endReq_still (r : NetReq) (region : Nat) (status : Nat) (b : List Byte) (s : State) : (endReq r region status b s).still = s.still := by
  unfold endReq; simp only []; (repeat' split) <;> first | (simp; done) | (rw [foldl_still] <;> intros <;> simp; done)
@[simp] theorem launch_still (r : NetReq) (ps : List Packet) (s : State) : (launch r ps s).still = s.still := by
  unfold launch; simp only []; (repeat' split) <;> first | (simp; done) | (rw [foldl_still] <;> intros <;> simp; done)
@[simp] theorem injectReq_still (r : NetReq) (ps : List Packet) (s : State) : (injectReq r ps s).still = s.still := by
  unfold injectReq; simp only []; (repeat' split) <;> first | (simp; done) | (rw [foldl_still] <;> intros <;> simp; done)
@[simp] theorem releaseHeld_still (u : BitVec 24) (s : State) : (releaseHeld u s).still = s.still := by
  unfold releaseHeld; simp only []; (repeat' split) <;> first | (simp; done) | (rw [foldl_still] <;> intros <;> simp; done)
@[simp] theorem releaseAll_still (s : State) : (releaseAll s).still = s.still := by
  simp [releaseAll]
@[simp] theorem injectAll_still (d : DescRef) (act : State → State) (s : State) (h : ∀ s, (act s).still = s.still) : (injectAll d act s).still = s.still := by
  simp [injectAll, h]
@[simp] theorem netMsg_still (u : BitVec 24) (dst : BitVec 24) (why : NetWhy) (ps : Option (Fin 8)) (b : List Byte) (s : State) : (netMsg u dst why ps b s).still = s.still := by
  simp [netMsg]
@[simp] theorem netRead_still (u : BitVec 24) (why : NetWhy) (ps : Option (Fin 8)) (t : TileAt) (m : MemSpace) (a : Nat) (n : Nat) (base : Nat) (s : State) : (netRead u why ps t m a n base s).still = s.still := by
  simp [netRead]
@[simp] theorem netWrite_still (u : BitVec 24) (why : NetWhy) (ps : Option (Fin 8)) (t : TileAt) (m : MemSpace) (a : Nat) (b : List Byte) (s : State) : (netWrite u why ps t m a b s).still = s.still := by
  simp [netWrite]
@[simp] theorem carryIn_still (k : Fin 8) (n : Nat) (d : DescRef) (b : List Byte) (s : State) : (carryIn k n d b s).still = s.still := by
  simp [carryIn]
@[simp] theorem carryTx_still (h : Nat) (u : Nat) (x : Desc) (off : Nat) (b : List Byte) (s : State) : (carryTx h u x off b s).still = s.still := by
  simp [carryTx]
@[simp] theorem landRx_still (x : Desc) (off : Nat) (b : List Byte) (s : State) : (landRx x off b s).still = s.still := by
  unfold landRx; (repeat' split) <;> simp
@[simp] theorem msgCame_still (r : NetReq) (b : List Byte) (s : State) : (msgCame r b s).still = s.still := by
  unfold msgCame; (repeat' split) <;> simp
@[simp] theorem moveOutBytes_still (k : Fin 8) (n : Nat) (x : Desc) (b : List Byte) (s : State) : (moveOutBytes k n x b s).still = s.still := by
  unfold moveOutBytes; (repeat' split) <;> simp
@[simp] theorem giveOut_still (k : Fin 8) (n : Nat) (s : State) (x : Desc) : (giveOut k n s x).still = s.still := by
  unfold giveOut; simp only []; (repeat' split) <;> first | (simp; done) | (rw [foldl_still] <;> intros <;> simp; done)
@[simp] theorem pumpOut_still (k : Fin 8) (n : Nat) (s : State) : (pumpOut k n s).still = s.still := by
  unfold pumpOut; (try simp only []); (repeat' split) <;> first | (simp; done) | (simp; intros; (repeat' split) <;> simp; done)
@[simp] theorem slotsBack_still (s : State) : (slotsBack s).still = s.still := by
  simp [slotsBack]
@[simp] theorem addExit_still (k : Fin 8) (n : Nat) (b : List Byte) (s : State) : (addExit k n b s).still = s.still := by
  simp [addExit]
@[simp] theorem drainExit_still (k : Fin 8) (n f : Nat) : ∀ s : State, (drainExit k n f s).still = s.still := by
  induction f with
  | zero => intro s; rfl
  | succ f ih => intro s; unfold drainExit; (repeat' split) <;> simp [ih]
@[simp] theorem spanIn_still (h : Nat) (n : Nat) (s : State) : (spanIn h n s).2.still = s.still := by
  unfold spanIn; simp only []; (repeat' split) <;> first | (simp; done) | (rw [foldl_still] <;> intros <;> simp; done)
@[simp] theorem epochDiscard_still (k : Fin 8) (s : State) : (epochDiscard k s).still = s.still := by
  simp [epochDiscard]
@[simp] theorem spanOut_still (h : Nat) (n : Nat) (w : TWord) (s : State) : (spanOut h n w s).still = s.still := by
  unfold spanOut; simp only []; (repeat' split) <;> first | (simp; done) | (rw [foldl_still] <;> intros <;> simp; done)
@[simp] theorem steerParity_still (t : TileAt) (w : TWord) (s : State) : (steerParity t w s).still = s.still := by
  unfold steerParity; (repeat' split) <;> simp
@[simp] theorem queueOverflow_still (t : TileAt) (e : ErrRec) (s : State) : (queueOverflow t e s).still = s.still := by
  simp [queueOverflow]
@[simp] theorem badEntry_still (t : TileAt) (idx : Nat) (phase : Nat) (entry : DWord) (s : State) : (badEntry t idx phase entry s).still = s.still := by
  simp [badEntry]
@[simp] theorem drive_still (t : TileAt) (o : Nat) (w : TWord) (s : State) : (drive t o w s).still = s.still := by
  unfold drive; (repeat' split) <;> simp
@[simp] theorem execHoldBeat_still (s : State) : NextStill s (execHoldBeat s) := by
  simp [execHoldBeat]
@[simp] theorem execHoldCommandArrival_still (p : Fin 12) (at_ : Nat) (h : Nat) (good0 : Bool) (good1 : Bool) (s : State) : NextStill s (execHoldCommandArrival p at_ h good0 good1 s) := by
  unfold execHoldCommandArrival; (try simp only []); (repeat' split) <;> simp
@[simp] theorem discard_still (p : Packet) (s : State) : (discard p s).still = s.still := by
  simp [discard]
@[simp] theorem seenIn_still (p : Packet) (s : State) : (seenIn p s).still = s.still := by
  unfold seenIn; (repeat' split) <;> simp
theorem lateCame_still {p : Packet} {s t : State} (h : lateCame p s = some t) : t.still = s.still := by
  unfold lateCame at h
  cases hq : s.snet.wires.late.find? fun q => asSent q == asSent p with
  | none => simp [hq] at h
  | some q => rw [hq] at h; simp only [Option.map_some, Option.some.injEq] at h; subst h; split <;> simp
@[simp] theorem arrive_still (opc : BitVec 6) (vcr : BitVec 1) (p : Packet) (good : State → State) (s : State)
    (h : ∀ s, (good s).still = s.still) : (arrive opc vcr p good s).still = s.still := by
  unfold arrive; split
  · rfl
  · split
    · rename_i hl; exact lateCame_still hl
    · simp only []; (repeat' split) <;> simp [h]
@[simp] theorem dropMsg_still (p : Packet) (s : State) : (dropMsg p s).still = s.still := by
  simp [dropMsg]
@[simp] theorem setMsg_still (p : Packet) (m : InMsg) (s : State) : (setMsg p m s).still = s.still := by
  simp [setMsg]
@[simp] theorem confWord_still (e : BitVec 24) (a : Nat) (s : State) : (confWord e a s).2.still = s.still := by
  unfold confWord; (repeat' split) <;> simp
@[simp] theorem confWrite_still (p : Packet) (s : State) : (confWrite p s).still = s.still := by
  simp [confWrite]
@[simp] theorem sendData_still (p : Packet) (b : List Byte) (s : State) : (sendData p b s).still = s.still := by
  simp [sendData]
@[simp] theorem finishWrite_still (p : Packet) (s : State) : (finishWrite p s).still = s.still := by
  unfold finishWrite; (repeat' split) <;> simp
@[simp] theorem sendPart_still (p : Packet) (m : InMsg) (s : State) : (sendPart p m s).still = s.still := by
  unfold sendPart; simp only []; (repeat' split) <;> first | (simp; done) | (rw [foldl_still] <;> intros <;> simp; done)
@[simp] theorem refuseReq_still (p : Packet) (opc : BitVec 6) (status : Nat) (s : State) : (refuseReq p opc status s).still = s.still := by
  simp [refuseReq]
@[simp] theorem takeMsg_still (p : Packet) (s : State) : (takeMsg p s).still = s.still := by
  unfold takeMsg; simp only []; (repeat' split) <;> first | (simp; done) | (rw [foldl_still] <;> intros <;> simp; done)
@[simp] theorem execMsg_still (p : Packet) (s : State) : NextStill s (execMsg p s) := by
  simp [execMsg]
@[simp] theorem lostResponse_still (s : State) : (lostResponse s).still = s.still := by
  simp [lostResponse]
@[simp] theorem takeReadData_still (p : Packet) (s : State) : (takeReadData p s).still = s.still := by
  unfold takeReadData; simp only []; (repeat' split) <;> first | (simp; done) | (rw [foldl_still] <;> intros <;> simp; done)
@[simp] theorem takeAck_still (opc : BitVec 6) (p : Packet) (s : State) : (takeAck opc p s).still = s.still := by
  unfold takeAck; (repeat' split) <;> simp
@[simp] theorem execThrottleWindow_still (h : Hub) (sums : List Nat) (s : State) : NextStill s (execThrottleWindow h sums s) := by
  unfold execThrottleWindow; simp only []; (repeat' split) <;> first | (simp; done) | (rw [foldl_still] <;> intros <;> simp; done)
@[simp] theorem answer_still (c : Nat) (s : State) : (answer c s).still = s.still := by
  unfold answer; simp only []; (repeat' split) <;> first | (simp; done) | (rw [foldl_still] <;> intros <;> simp; done)
@[simp] theorem fenceHub_still (h : Nat) (cause : Nat) (rseq : Nat) (lees : Bool) (s : State) : (fenceHub h cause rseq lees s).still = s.still := by
  simp [fenceHub]
@[simp] theorem fenceEdge_still (n : Fin 24) (cause : Nat) (rseq : Nat) (lees : Bool) (s : State) : (fenceEdge n cause rseq lees s).still = s.still := by
  unfold fenceEdge; simp only []; (repeat' split) <;> first | (simp; done) | (rw [foldl_still] <;> intros <;> simp; done)
@[simp] theorem mgmtClose_still (cause : Nat) (rseq : Nat) (s : State) : (mgmtClose cause rseq s).still = s.still := by
  unfold mgmtClose; simp only []; (repeat' split) <;> first | (simp; done) | (rw [foldl_still] <;> intros <;> simp; done)
@[simp] theorem abortDesc_still (s : State) (x : Desc) : (abortDesc s x).still = s.still := by
  unfold abortDesc; (repeat' split) <;> simp
@[simp] theorem linkDown_still (s : State) : (linkDown s).still = s.still := by
  unfold linkDown; (repeat' split) <;> simp
@[simp] theorem hostifClose_still (cause : Nat) (s : State) : (hostifClose cause s).still = s.still := by
  simp [hostifClose]
@[simp] theorem hostifOpen_still (s : State) : (hostifOpen s).still = s.still := by
  simp [hostifOpen]
@[simp] theorem captureLees_still (c : Nat) (pbeat : Nat) (s : State) : (captureLees c pbeat s).still = s.still := by
  unfold captureLees; (repeat' split) <;> simp
@[simp] theorem settleOne_still (s : State) (e : Fin 64 × Fin 8 × Nat × Nat) : (settleOne s e).still = s.still := by
  unfold settleOne; simp only []; (repeat' split) <;> first | (simp; done) | (rw [foldl_still] <;> intros <;> simp; done)
@[simp] theorem settleOwed_still (k : Fin 8) (s : State) : (settleOwed k s).still = s.still := by
  simp [settleOwed]
@[simp] theorem dropWaiting_still (k : Fin 8) (s : State) : (dropWaiting k s).still = s.still := by
  simp [dropWaiting]
@[simp] theorem setRails_still (op : Nat) (s : State) : (setRails op s).still = s.still := by
  simp [setRails]
@[simp] theorem takeReadings_still (tel : Telemetry) (s : State) : (takeReadings tel s).still = s.still := by
  simp [takeReadings]
@[simp] theorem execCurrentSample_still (tel : Telemetry) (s : State) : NextStill s (execCurrentSample tel s) := by
  unfold execCurrentSample; (try simp only []); (repeat' split) <;> simp
@[simp] theorem execFastOvercurrent_still (p : Fin 12) (s : State) : NextStill s (execFastOvercurrent p s) := by
  unfold execFastOvercurrent; (try simp only []); (repeat' split) <;> simp
@[simp] theorem execFastHoldRelease_still (p : Fin 12) (s : State) : NextStill s (execFastHoldRelease p s) := by
  unfold execFastHoldRelease; (try simp only []); (repeat' split) <;> simp
@[simp] theorem execOpEvaluate_still (s : State) : NextStill s (execOpEvaluate s) := by
  simp [execOpEvaluate]
@[simp] theorem setChange_still (c : Option OpChange) (s : State) : (setChange c s).still = s.still := by
  simp [setChange]
@[simp] theorem execOpChangeStop_still (s : State) : NextStill s (execOpChangeStop s) := by
  unfold execOpChangeStop; (try simp only []); (repeat' split) <;> simp
@[simp] theorem execOpChangeLand_still (s : State) : NextStill s (execOpChangeLand s) := by
  unfold execOpChangeLand; (try simp only []); (repeat' split) <;> simp
@[simp] theorem execOpChangeEnd_still (s : State) : NextStill s (execOpChangeEnd s) := by
  unfold execOpChangeEnd; (try simp only []); (repeat' split) <;> simp
@[simp] theorem execRailRampEnd_still (s : State) : NextStill s (execRailRampEnd s) := by
  unfold execRailRampEnd; (try simp only []); (repeat' split) <;> simp
@[simp] theorem forceResponse_still (s : State) : (forceResponse s).still = s.still := by
  simp [forceResponse]
@[simp] theorem execAlertAssert_still (g : Fin 48) (cur : Nat) (volt : Nat) (s : State) : NextStill s (execAlertAssert g cur volt s) := by
  unfold execAlertAssert; (try simp only []); (repeat' split) <;> simp
@[simp] theorem alertGone_still (g : Fin 48) (s : State) : (alertGone g s).still = s.still := by
  unfold alertGone; (repeat' split) <;> simp
@[simp] theorem execAlertClear_still (g : Fin 48) (s : State) : NextStill s (execAlertClear g s) := by
  simp [execAlertClear]
@[simp] theorem execForcedStateLift_still (cur : Nat) (volt : Nat) (s : State) : NextStill s (execForcedStateLift cur volt s) := by
  unfold execForcedStateLift; (try simp only []); (repeat' split) <;> simp
@[simp] theorem isolate_still (g : Fin 48) (s : State) : (isolate g s).still = s.still := by
  simp [isolate]
@[simp] theorem phyShort_still (d : Nat) (g : Fin 48) (s : State) : (phyShort d g s).still = s.still := by
  simp [phyShort]
@[simp] theorem dieForce_still (s : State) (d : Fin 12) : (dieForce s d).still = s.still := by
  unfold dieForce; simp only []; (repeat' split) <;> first | (simp; done) | (rw [foldl_still] <;> intros <;> simp; done)
@[simp] theorem execDieForceLift_still (die : Fin 12) (s : State) : NextStill s (execDieForceLift die s) := by
  unfold execDieForceLift; (try simp only []); (repeat' split) <;> simp
@[simp] theorem execTcapSlower_still (s : State) : NextStill s (execTcapSlower s) := by
  unfold execTcapSlower; (try simp only []); (repeat' split) <;> simp
@[simp] theorem execTcapFaster_still (s : State) : NextStill s (execTcapFaster s) := by
  unfold execTcapFaster; (try simp only []); (repeat' split) <;> simp
@[simp] theorem execEvacuationTrigger_still (p : Fin 12) (s : State) : NextStill s (execEvacuationTrigger p s) := by
  unfold execEvacuationTrigger; (try simp only []); (repeat' split) <;> simp
@[simp] theorem swapSlab_still (a : TileAt) (b : TileAt) (s : State) : (swapSlab a b s).still = s.still := by
  simp [swapSlab]
@[simp] theorem giveUp_still (s : State) : (giveUp s).still = s.still := by
  simp [giveUp]
@[simp] theorem ageFoot_still (s : State) (t : TileAt) : (ageFoot s t).still = s.still := by
  unfold ageFoot; simp only []; (repeat' split) <;> first | (simp; done) | (rw [foldl_still] <;> intros <;> simp; done)
@[simp] theorem ageFree_still (s : State) (t : TileAt) : (ageFree s t).still = s.still := by
  unfold ageFree; simp only []; (repeat' split) <;> first | (simp; done) | (rw [foldl_still] <;> intros <;> simp; done)
@[simp] theorem execAgeingScan_still (low : List TileAt) (s : State) : NextStill s (execAgeingScan low s) := by
  unfold execAgeingScan; (try simp only []); (repeat' split) <;> simp
@[simp] theorem retain_still (r : Nat) (s : State) (p : Fin 12) : (retain r s p).still = s.still := by
  simp [retain]
@[simp] theorem holdProg_still (r : Nat) (s : State) (k : Fin 8) : (holdProg r s k).still = s.still := by
  simp [holdProg]
@[simp] theorem execFlowStop_still (s : State) : NextStill s (execFlowStop s) := by
  unfold execFlowStop; (try simp only []); (repeat' split) <;> simp
@[simp] theorem unretain_still (ev : List (Fin 12)) (s : State) (p : Fin 12) : (unretain ev s p).still = s.still := by
  unfold unretain; (repeat' split) <;> simp
@[simp] theorem unhold_still (s : State) (k : Fin 8) : (unhold s k).still = s.still := by
  unfold unhold; (repeat' split) <;> simp
@[simp] theorem execFlowResume_still (s : State) : NextStill s (execFlowResume s) := by
  unfold execFlowResume; (repeat' split) <;> simp
@[simp] theorem copyBad_still (t : TileAt) (s : State) : (copyBad t s).still = s.still := by
  simp [copyBad]
@[simp] theorem stageReq_still (n : Nat) (s : State) : (stageReq n s).still = s.still := by
  simp [stageReq]
@[simp] theorem execWinReq_still (v : Word) (s : State) : NextStill s (execWinReq v s) := by
  unfold execWinReq; (try simp only []); (repeat' split) <;> simp
@[simp] theorem aboveWindow_still (off : Nat) (s : State) : (aboveWindow off s).still = s.still := by
  unfold aboveWindow; (repeat' split) <;> simp
@[simp] theorem windowAccess_still (a : Nat) (gone : Out) (act : TileAt → Nat → State → State) (s : State) (h : ∀ a0 a1 s, (act a0 a1 s).still = s.still) : (windowAccess a gone act s).still = s.still := by
  unfold windowAccess; (repeat' split) <;> simp [h]
@[simp] theorem execCxlMemRead_still (off : Nat) (s : State) : NextStill s (execCxlMemRead off s) := by
  simp [execCxlMemRead]
@[simp] theorem execCxlMemWrite_still (off : Nat) (d : Line) (s : State) : NextStill s (execCxlMemWrite off d s) := by
  unfold execCxlMemWrite; (try simp only []); (repeat' split) <;> simp
theorem unitLost_still (m : HubMark) (s : State) (hm : m.use ≠ .vintner) : (unitLost m s).still = s.still := by
  unfold unitLost; simp only [hm, if_false]; (repeat' split) <;> simp
theorem meetMark_still (nm : ErrRec → ErrRec) (bad : State → State) (s : State) (m : HubMark) (h : ∀ s, (bad s).still = s.still)
    (hm : m.use ≠ .vintner) : (meetMark nm bad s m).still = s.still := by
  unfold meetMark; (repeat' split) <;> first | (simp [h]; done) | exact unitLost_still m s hm
theorem foldl_mem_still {α : Type} (f : State → α → State) (l : List α) (h : ∀ a ∈ l, ∀ s, (f s a).still = s.still) :
    ∀ s, (l.foldl f s).still = s.still := by
  induction l with
  | nil => intro s; rfl
  | cons a t ih =>
    intro s; rw [List.foldl_cons, ih fun b hb => h b (List.mem_cons_of_mem _ hb), h a (List.mem_cons_self ..)]
@[simp] theorem meetMarks_still (h : Nat) (us : List HubUse) (nm : ErrRec → ErrRec) (bad : State → State) (s : State)
    (hb : ∀ s, (bad s).still = s.still) (hv : us.contains .vintner = false) : (meetMarks h us nm bad s).still = s.still := by
  unfold meetMarks
  rw [foldl_mem_still]
  · simp
  · intro m hm s
    refine meetMark_still _ _ _ _ hb fun hu => ?_
    simp [marksAt, hu] at hm; simp [hm.2.2] at hv
@[simp] theorem onLink_still (f : State → State) (s : State) (h : ∀ s, (f s).still = s.still) : NextStill s (onLink f s) := by
  simp [onLink, h]
@[simp] theorem setSq_still (p : Fin 64) (q : Sq) (s : State) : (setSq p q s).still = s.still := by
  simp [setSq]
@[simp] theorem setCq_still (p : Fin 64) (q : Cq) (s : State) : (setCq p q s).still = s.still := by
  simp [setCq]
@[simp] theorem cacheLine_still (x : CacheLine) (s : State) : (cacheLine x s).still = s.still := by
  unfold cacheLine; exact still_mk ..
@[simp] theorem cacheHalf_still (line : Nat) (upper : Bool) (b : List Byte) (s : State) : (cacheHalf line upper b s).still = s.still := by
  unfold cacheHalf; exact cacheLine_still _ _
@[simp] theorem layRecord_still (c : Cq) (b : List Byte) (s : State) : (layRecord c b s).still = s.still := by
  simp [layRecord]
@[simp] theorem putRecord_still (q : Fin 64) (nudge : Bool) (ref : DescRef) (tag : DWord) (o : Outc) (s : State) : (putRecord q nudge ref tag o s).still = s.still := by
  unfold putRecord; simp only []; (repeat' split) <;> first | (simp; done) | (rw [foldl_still] <;> intros <;> simp; done)
@[simp] theorem flushRead_still (d : DescRef) (a : DWord) (s : State) : (flushRead d a s).still = s.still := by
  simp [flushRead]
@[simp] theorem flushList_still (q : Fin 64) (l : List HeldRec) : ∀ s : State, (flushList q l s).still = s.still := by
  induction l with
  | nil => intro s; rfl
  | cons r t ih => intro s; unfold flushList; simp only []; (repeat' split) <;> simp [ih]
@[simp] theorem flushHeld_still (q : Fin 64) (s : State) : (flushHeld q s).still = s.still := by
  simp [flushHeld]
@[simp] theorem flushSeen_still (d : DescRef) (s : State) : (flushSeen d s).still = s.still := by
  unfold flushSeen; (repeat' split) <;> simp
@[simp] theorem holdRec_still (r : HeldRec) (s : State) : (holdRec r s).still = s.still := by
  unfold holdRec; (repeat' split) <;> simp
@[simp] theorem spoilOutc_still (p : Fin 64) (o : Outc) (s : State) : (spoilOutc p o s).2.still = s.still := by
  unfold spoilOutc; (repeat' split) <;> simp
@[simp] theorem faultOutc_still (x : Desc) (o : Outc) (s : State) : (faultOutc x o s).2.still = s.still := by
  unfold faultOutc; (repeat' split) <;> simp
@[simp] theorem watchFrom_still (x : Desc) (o : Outc) (s : State) : (watchFrom x o s).still = s.still := by
  simp [watchFrom]
@[simp] theorem afterRecord_still (x : Desc) (o : Outc) (s : State) : (afterRecord x o s).still = s.still := by
  unfold afterRecord; simp only []; (repeat' split) <;> first | (simp; done) | (rw [foldl_still] <;> intros <;> simp; done)
@[simp] theorem finalOutc_still (x : Desc) (o : Outc) (s : State) : (finalOutc x o s).2.still = s.still := by
  simp [finalOutc]
@[simp] theorem writeRecord_still (x : Desc) (o : Outc) (s : State) : (writeRecord x o s).still = s.still := by
  unfold writeRecord; (repeat' split) <;> simp
@[simp] theorem holdEndedN_still (n : Nat) : ∀ s : State, (holdEndedN n s).still = s.still := by
  induction n with
  | zero => intro s; rfl
  | succ n ih => intro s; unfold holdEndedN; (repeat' split) <;> simp [ih]
@[simp] theorem holdEnded_still (s : State) : (holdEnded s).still = s.still := by
  simp [holdEnded]
@[simp] theorem execCompletionWrite_still (p : Fin 64) (s0 : State) : NextStill s0 (execCompletionWrite p s0) := by
  unfold execCompletionWrite; simp only []; (repeat' split) <;> first | (simp; done) | (rw [foldl_still] <;> intros <;> simp; done)
@[simp] theorem sqDoor_still (p : Fin 64) (v : Nat) (s : State) : (sqDoor p v s).still = s.still := by
  unfold sqDoor; simp only []; (repeat' split) <;> first | (simp; done) | (rw [foldl_still] <;> intros <;> simp; done)
@[simp] theorem execSqDoorbell_still (p : Fin 64) (v : Word) (s : State) : NextStill s (execSqDoorbell p v s) := by
  simp [execSqDoorbell]
@[simp] theorem cqDoor_still (p : Fin 64) (v : Nat) (s : State) : (cqDoor p v s).still = s.still := by
  unfold cqDoor; simp only []; (repeat' split) <;> first | (simp; done) | (rw [foldl_still] <;> intros <;> simp; done)
@[simp] theorem execCqDoorbell_still (q : Fin 64) (v : Word) (s : State) : NextStill s (execCqDoorbell q v s) := by
  simp [execCqDoorbell]
@[simp] theorem refill_still (s : State) : (refill s).still = s.still := by
  unfold refill; (repeat' split) <;> simp
@[simp] theorem hostErr_still (poison : Bool) (x : Option Desc) (s : State) : (hostErr poison x s).still = s.still := by
  simp [hostErr]
@[simp] theorem takeDesc_still (p : Fin 64) (b : List Byte) (s : State) : (takeDesc p b s).still = s.still := by
  unfold takeDesc; simp only []; (repeat' split) <;> first | (simp; done) | (rw [foldl_still] <;> intros <;> simp; done)
@[simp] theorem fetchCheck_still (d : DescRef) (s : State) : (fetchCheck d s).still = s.still := by
  unfold fetchCheck; (repeat' split) <;> simp
@[simp] theorem cacheSq_still (q : Sq) (b : List Byte) (s : State) : (cacheSq q b s).still = s.still := by
  unfold cacheSq; split
  · exact cacheLine_still _ _
  · rfl
@[simp] theorem runDesc_still (o : Nat) (d : DescRef) (act : Desc → State → State) (s : State) (h : ∀ x s, (act x s).still = s.still) : NextStill s (runDesc o d act s) := by
  unfold runDesc; (try simp only []); (repeat' split) <;> simp [h]
@[simp] theorem execNopDescriptor_still (d : DescRef) (s : State) : NextStill s (execNopDescriptor d s) := by
  simp [execNopDescriptor]
@[simp] theorem ackFence_still (x : Desc) (s : State) : (ackFence x s).still = s.still := by
  unfold ackFence; (repeat' split) <;> simp
@[simp] theorem execFenceAck_still (d : DescRef) (s : State) : NextStill s (execFenceAck d s) := by
  simp [execFenceAck]
@[simp] theorem sqStart_still (p : Fin 64) (q : Sq) (s : State) : (sqStart p q s).still = s.still := by
  simp [sqStart]
@[simp] theorem sqCfg_still (p : Fin 64) (v : Nat) (s : State) : (sqCfg p v s).still = s.still := by
  unfold sqCfg; simp only []; (repeat' split) <;> first | (simp; done) | (rw [foldl_still] <;> intros <;> simp; done)
@[simp] theorem cqStart_still (p : Fin 64) (q : Cq) (s : State) : (cqStart p q s).still = s.still := by
  simp [cqStart]
@[simp] theorem cqCfg_still (p : Fin 64) (v : Nat) (s : State) : (cqCfg p v s).still = s.still := by
  unfold cqCfg; simp only []; (repeat' split) <;> first | (simp; done) | (rw [foldl_still] <;> intros <;> simp; done)
@[simp] theorem execSqEnable_still (p : Fin 64) (v : Word) (s : State) : NextStill s (execSqEnable p v s) := by
  simp [execSqEnable]
@[simp] theorem execSqDisable_still (p : Fin 64) (v : Word) (s : State) : NextStill s (execSqDisable p v s) := by
  simp [execSqDisable]
@[simp] theorem execCqEnable_still (q : Fin 64) (v : Word) (s : State) : NextStill s (execCqEnable q v s) := by
  simp [execCqEnable]
@[simp] theorem execCqDisable_still (q : Fin 64) (v : Word) (s : State) : NextStill s (execCqDisable q v s) := by
  simp [execCqDisable]
@[simp] theorem attnClear_still (v : Nat) (s : State) : (attnClear v s).still = s.still := by
  simp [attnClear]
@[simp] theorem execAttn_still (v : Word) (s : State) : NextStill s (execAttn v s) := by
  simp [execAttn]
@[simp] theorem heldDrop_still (v : Nat) (s : State) : (heldDrop v s).still = s.still := by
  unfold heldDrop; (repeat' split) <;> simp
@[simp] theorem execHeldDiscard_still (v : Word) (s : State) : NextStill s (execHeldDiscard v s) := by
  simp [execHeldDiscard]
@[simp] theorem throttleSet_still (v : Nat) (s : State) : (throttleSet v s).still = s.still := by
  simp [throttleSet]
@[simp] theorem execSnetThrottle_still (v : Word) (s : State) : NextStill s (execSnetThrottle v s) := by
  simp [execSnetThrottle]
@[simp] theorem sendPending_still (s : State) : (sendPending s).still = s.still := by
  unfold sendPending; rw [foldl_still] <;> intros <;> first | (simp; done) | ((repeat' split) <;> (simp; done))
@[simp] theorem unmask_still (u : Unmask) (s : State) : (unmask u s).still = s.still := by
  unfold unmask; (repeat' split) <;> simp
@[simp] theorem execMsixUnmask_still (u : Unmask) (s : State) : NextStill s (execMsixUnmask u s) := by
  simp [execMsixUnmask]
@[simp] theorem execPerstAssert_still (s : State) : NextStill s (execPerstAssert s) := by
  simp [execPerstAssert]
@[simp] theorem execPerstDeassert_still (s : State) : NextStill s (execPerstDeassert s) := by
  simp [execPerstDeassert]
@[simp] theorem execLinkLoss_still (s : State) : NextStill s (execLinkLoss s) := by
  simp [execLinkLoss]
@[simp] theorem execFunctionLevelReset_still (s : State) : NextStill s (execFunctionLevelReset s) := by
  simp [execFunctionLevelReset]
@[simp] theorem execHotReset_still (s : State) : NextStill s (execHotReset s) := by
  simp [execHotReset]
@[simp] theorem execHostifReset_still (s : State) : NextStill s (execHostifReset s) := by
  unfold execHostifReset; (try simp only []); (repeat' split) <;> simp
@[simp] theorem execLinkTrained_still (cxl : Bool) (width : BitVec 2) (speed : BitVec 2) (s : State) : NextStill s (execLinkTrained cxl width speed s) := by
  unfold execLinkTrained; (try simp only []); (repeat' split) <;> simp
@[simp] theorem execHdmCommit_still (s : State) : NextStill s (execHdmCommit s) := by
  unfold execHdmCommit; (first | apply ctlRow_still | apply runEdge_still | apply viaMgmt_still | apply ctrlFlit_still | apply runMgmt_still | apply onLink_still | apply runDesc_still | apply doe_still); intros; (try simp only []); (repeat' split) <;> simp
@[simp] theorem execBufferMoveEnd_still (h : Hub) (s : State) : NextStill s (execBufferMoveEnd h s) := by
  unfold execBufferMoveEnd; (try simp only []); (repeat' split) <;> simp
@[simp] theorem viaMgmt_still (off : Nat) (v : Nat) (f : State → State) (s : State) (h : ∀ s, (f s).still = s.still) : NextStill s (viaMgmt off v f s) := by
  simp [viaMgmt, h]
@[simp] theorem portCtl_still (n : Fin 24) (v : Nat) (s : State) : (portCtl n v s).still = s.still := by
  unfold portCtl; simp only []; (repeat' split) <;> first | (simp; done) | (rw [foldl_still] <;> intros <;> simp; done)
@[simp] theorem execPortEnable_still (n : Fin 24) (v : Word) (s : State) : NextStill s (execPortEnable n v s) := by
  simp [execPortEnable]
@[simp] theorem execPortDisable_still (n : Fin 24) (v : Word) (s : State) : NextStill s (execPortDisable n v s) := by
  simp [execPortDisable]
@[simp] theorem setEngineId_still (v : Nat) (s : State) : (setEngineId v s).still = s.still := by
  unfold setEngineId; (repeat' split) <;> simp
@[simp] theorem execEngineId_still (v : Word) (s : State) : NextStill s (execEngineId v s) := by
  simp [execEngineId]
@[simp] theorem setTimeout_still (v : Nat) (s : State) : (setTimeout v s).still = s.still := by
  simp [setTimeout]
@[simp] theorem setRoute_still (d : Fin 128) (v : Nat) (s : State) : (setRoute d v s).still = s.still := by
  unfold setRoute; simp only []; (repeat' split) <;> first | (simp; done) | (rw [foldl_still] <;> intros <;> simp; done)
@[simp] theorem execRoute_still (d : Fin 128) (v : DWord) (s : State) : NextStill s (execRoute d v s) := by
  simp [execRoute]
@[simp] theorem identityEnd_still (n : Fin 24) (page : Option (List Byte)) (s : State) : (identityEnd n page s).still = s.still := by
  unfold identityEnd; simp only []; (repeat' split) <;> first | (simp; done) | (rw [foldl_still] <;> intros <;> simp; done)
@[simp] theorem execIdentityRead_still (n : Fin 24) (page : Option (List Byte)) (s : State) : NextStill s (execIdentityRead n page s) := by
  simp [execIdentityRead]
@[simp] theorem execTrainingDone_still (n : Fin 24) (tr : Trained) (s : State) : NextStill s (execTrainingDone n tr s) := by
  unfold execTrainingDone; simp only []; (repeat' split) <;> first | (simp; done) | (rw [foldl_still] <;> intros <;> simp; done)
@[simp] theorem execTrainingTimeout_still (n : Fin 24) (s : State) : NextStill s (execTrainingTimeout n s) := by
  unfold execTrainingTimeout; (try simp only []); (repeat' split) <;> simp
@[simp] theorem execFailedRetry_still (n : Fin 24) (s : State) : NextStill s (execFailedRetry n s) := by
  simp [execFailedRetry]
@[simp] theorem sendNak_still (n : Fin 24) (s : State) : (sendNak n s).still = s.still := by
  unfold sendNak; simp only []; (repeat' split) <;> first | (simp; done) | (rw [foldl_still] <;> intros <;> simp; done)
@[simp] theorem countBad_still (n : Fin 24) (s : State) : (countBad n s).still = s.still := by
  simp [countBad]
@[simp] theorem fecNote_still (n : Fin 24) (f : Flit) (s : State) : (fecNote n f s).still = s.still := by
  unfold fecNote; simp only []; (repeat' split) <;> first | (simp; done) | (rw [foldl_still] <;> intros <;> simp; done)
@[simp] theorem takeFlit_still (n : Fin 24) (f : Flit) (good : State → State) (s : State)
    (h : ∀ s, (good s).still = s.still) : (takeFlit n f good s).still = s.still := by
  unfold takeFlit; simp only []; (repeat' split) <;> simp [h]
@[simp] theorem passOn_still (n : Fin 24) (vc : Nat) (k : Nat) (s : State) : (passOn n vc k s).still = s.still := by
  simp [passOn]
@[simp] theorem assemble_still (n : Fin 24) (f : Flit) (s : State) : (assemble n f s).still = s.still := by
  unfold assemble; simp only []; (repeat' split) <;> first | (simp; done) | (rw [foldl_still] <;> intros <;> simp; done)
@[simp] theorem acceptData_still (n : Fin 24) (f : Flit) (s : State) : (acceptData n f s).still = s.still := by
  simp [acceptData]
@[simp] theorem execData_still (n : Fin 24) (f : Flit) (s : State) : NextStill s (execData n f s) := by
  unfold execData; (try simp only []); (repeat' split) <;> simp
@[simp] theorem execIdle_still (n : Fin 24) (f : Flit) (s : State) : NextStill s (execIdle n f s) := by
  unfold execIdle; (try simp only []); (repeat' split) <;> simp
@[simp] theorem ctrlFlit_still (sub : Nat) (n : Fin 24) (f : Flit) (act : State → State) (s : State) (h : ∀ s, (act s).still = s.still) : NextStill s (ctrlFlit sub n f act s) := by
  unfold ctrlFlit; (try simp only []); (repeat' split) <;> simp [h]
@[simp] theorem doReplay_still (n : Fin 24) (s : State) : (doReplay n s).still = s.still := by
  unfold doReplay; simp only []; (repeat' split) <;> first | (simp; done) | (rw [foldl_still] <;> intros <;> simp; done)
@[simp] theorem execNak_still (n : Fin 24) (f : Flit) (s : State) : NextStill s (execNak n f s) := by
  simp [execNak]
@[simp] theorem execReplayTimeout_still (n : Fin 24) (s : State) : NextStill s (execReplayTimeout n s) := by
  simp [execReplayTimeout]
@[simp] theorem rejectPort_still (n : Fin 24) (s : State) : (rejectPort n s).still = s.still := by
  unfold rejectPort; simp only []; (repeat' split) <;> first | (simp; done) | (rw [foldl_still] <;> intros <;> simp; done)
@[simp] theorem portUp_still (n : Fin 24) (s : State) : (portUp n s).still = s.still := by
  simp [portUp]
@[simp] theorem execHelloSend_still (n : Fin 24) (s : State) : NextStill s (execHelloSend n s) := by
  unfold execHelloSend; (try simp only []); (repeat' split) <;> simp
@[simp] theorem newPeer_still (n : Fin 24) (b : List Byte) (s : State) : (newPeer n b s).still = s.still := by
  simp [newPeer]
@[simp] theorem helloIn_still (n : Fin 24) (b : List Byte) (s : State) : (helloIn n b s).still = s.still := by
  unfold helloIn; simp only []; (repeat' split) <;> first | (simp; done) | (rw [foldl_still] <;> intros <;> simp; done)
@[simp] theorem execHello_still (n : Fin 24) (f : Flit) (s : State) : NextStill s (execHello n f s) := by
  simp [execHello]
@[simp] theorem execRetrainDone_still (n : Fin 24) (tr : Trained) (s : State) : NextStill s (execRetrainDone n tr s) := by
  unfold execRetrainDone; simp only []; (repeat' split) <;> first | (simp; done) | (rw [foldl_still] <;> intros <;> simp; done)
@[simp] theorem execRetrainTimeout_still (n : Fin 24) (s : State) : NextStill s (execRetrainTimeout n s) := by
  simp [execRetrainTimeout]
@[simp] theorem execCableRemoval_still (n : Fin 24) (s : State) : NextStill s (execCableRemoval n s) := by
  simp [execCableRemoval]
@[simp] theorem execCblOvercurrent_still (n : Fin 24) (s : State) : NextStill s (execCblOvercurrent n s) := by
  simp [execCblOvercurrent]
@[simp] theorem execTsyncProbe_still (n : Fin 24) (s : State) : NextStill s (execTsyncProbe n s) := by
  unfold execTsyncProbe; (try simp only []); (repeat' split) <;> simp
@[simp] theorem answerProbe_still (n : Fin 24) (b : List Byte) (s : State) : (answerProbe n b s).still = s.still := by
  unfold answerProbe; simp only []; (repeat' split) <;> first | (simp; done) | (rw [foldl_still] <;> intros <;> simp; done)
@[simp] theorem execTprobe_still (n : Fin 24) (f : Flit) (s : State) : NextStill s (execTprobe n f s) := by
  simp [execTprobe]
@[simp] theorem probeDone_still (n : Fin 24) (b : List Byte) (s : State) : (probeDone n b s).still = s.still := by
  unfold probeDone; simp only []; (repeat' split) <;> first | (simp; done) | (rw [foldl_still] <;> intros <;> simp; done)
@[simp] theorem execTreply_still (n : Fin 24) (f : Flit) (s : State) : NextStill s (execTreply n f s) := by
  simp [execTreply]
@[simp] theorem execProbeTimeout_still (n : Fin 24) (s : State) : NextStill s (execProbeTimeout n s) := by
  unfold execProbeTimeout; (try simp only []); (repeat' split) <;> simp
@[simp] theorem netObjRead_still (u : BitVec 24) (why : Nat → NetWhy) (k : Fin 8) (o : ObjPlace) (off : Nat) (n : Nat) (s : State) : (netObjRead u why k o off n s).still = s.still := by
  simp [netObjRead]
@[simp] theorem badField_still (d : DescRef) (o : Nat) (s : State) : (badField d o s).still = s.still := by
  simp [badField]
@[simp] theorem overField_still (d : DescRef) (o : Nat) (s : State) : (overField d o s).still = s.still := by
  simp [overField]
@[simp] theorem checks_still (d : DescRef) (l : List Check) (act : State → State) (s : State)
    (h : ∀ s, (act s).still = s.still) : (checks d l act s).still = s.still := by
  unfold checks; split <;> simp [h]
@[simp] theorem onSlot_still (x : Desc) (act : Fin 8 → Prog → State → State) (s : State)
    (h : ∀ k g s, (act k g s).still = s.still) : (onSlot x act s).still = s.still := by
  unfold onSlot; simp only []; (repeat' split) <;> simp [h]
@[simp] theorem updColl_still (d : DescRef) (f : Coll → Coll) (s : State) : (updColl d f s).still = s.still := by
  simp [updColl]
@[simp] theorem withColl_still (d : DescRef) (act : Coll → State → State) (s : State)
    (h : ∀ c s, (act c s).still = s.still) : (withColl d act s).still = s.still := by
  unfold withColl; split <;> simp [h]
@[simp] theorem askRange_still (d : DescRef) (s : State) (r : Nat × Nat × Nat) : (askRange d s r).still = s.still := by
  unfold askRange; (try simp only []); (first | apply withColl_still | apply onSlot_still | apply toPeer_still | apply deferOr_still | apply lowWord_still | apply checks_still | apply onCore_still | apply onObj_still | apply onRanges_still | apply checkWith_still | apply withRead_still | apply withPkt_still | apply edgeStart_still | apply arrive_still | apply onLink_still | apply runMgmt_still | apply runDesc_still); intros; (try simp only []); (repeat' split) <;> first | (simp; done) | (simp; intros; (repeat' split) <;> simp; done)
@[simp] theorem onRanges_still (d : DescRef) (l : List (Nat × Nat × Nat)) (act : State → State) (s : State) (h : ∀ s, (act s).still = s.still) : (onRanges d l act s).still = s.still := by
  simp [onRanges, h]
@[simp] theorem forget_still (d : DescRef) (s : State) : (forget d s).still = s.still := by
  simp [forget]
@[simp] theorem sendVia_still (d : DescRef) (k : Nat) (b : List Byte) (s : State) : (sendVia d k b s).still = s.still := by
  simp [sendVia]
@[simp] theorem sendSeg_still (d : DescRef) (kind : Nat) (p : Nat) (st : Nat) (chunk : Nat) (seg : Nat) (f : Fmt) (l : List Nat) (ssum : Nat) (sflag : Bool) (s : State) : (sendSeg d kind p st chunk seg f l ssum sflag s).still = s.still := by
  simp [sendSeg]
@[simp] theorem sendChunk_still (d : DescRef) (kind : Nat) (p : Nat) (st : Nat) (k : Nat) (f : Fmt) (l : List Nat) (s : State) : (sendChunk d kind p st k f l s).still = s.still := by
  unfold sendChunk; rw [foldl_still] <;> intros <;> first | (simp; done) | ((repeat' split) <;> (simp; done))
@[simp] theorem sendSums_still (d : DescRef) (kind : Nat) (p : Nat) (st : Nat) (k : Nat) (f : Fmt) (l : List Nat) (ops : List (Nat × Nat)) (s : State) : (sendSums d kind p st k f l ops s).still = s.still := by
  simp [sendSums]
@[simp] theorem needPost_still (k : Nat) (s : State) : (needPost k s).still = s.still := by
  unfold needPost; (repeat' split) <;> simp
@[simp] theorem shiftMsg_still (k : Nat) (s : State) : (shiftMsg k s).still = s.still := by
  simp [shiftMsg]
@[simp] theorem trustOf_still (r : PressRec) (w : Nat) (d : Nat) (s : State) : (trustOf r w d s).2.still = s.still := by
  unfold trustOf; simp only []; (repeat' split) <;> first | (simp; done) | (rw [foldl_still] <;> intros <;> simp; done)
@[simp] theorem takeRecord_still (d : DescRef) (s : State) : (takeRecord d s).still = s.still := by
  unfold takeRecord; apply withColl_still; intros; (repeat' split) <;> simp
@[simp] theorem reduceStart_still (d : DescRef) (p : Nat) (s : State) : (reduceStart d p s).still = s.still := by
  simp [reduceStart]
@[simp] theorem sendNorms_still (d : DescRef) (p : Nat) (st : Nat) (rank : Nat) (e : DWord × DWord × Bool) (s : State) : (sendNorms d p st rank e s).still = s.still := by
  simp [sendNorms]
@[simp] theorem normStart_still (d : DescRef) (p : Nat) (s : State) : (normStart d p s).still = s.still := by
  simp [normStart]
@[simp] theorem finishColl_still (d : DescRef) (s : State) : (finishColl d s).still = s.still := by
  simp [finishColl]
@[simp] theorem collPeerDown_still (c : Coll) (peer : Nat) (cause : Nat) (s : State) : (collPeerDown c peer cause s).still = s.still := by
  simp [collPeerDown]
@[simp] theorem settleColls_still (s : State) : (settleColls s).still = s.still := by
  unfold settleColls; rw [foldl_still] <;> intros <;> first | (simp; done) | ((repeat' split) <;> (simp; done))
@[simp] theorem acceptColl_still (c : Coll) (s : State) : (acceptColl c s).still = s.still := by
  simp [acceptColl]
@[simp] theorem collStart_still (x : Desc) (s : State) : (collStart x s).still = s.still := by
  simp [collStart]
@[simp] theorem sealFail_still (c : Coll) (k : Nat) (step : Nat) (count : Bool) (s : State) : (sealFail c k step count s).still = s.still := by
  simp [sealFail]
@[simp] theorem meetSegment_still (c : Coll) (k : Nat) (go : State → State) (s : State) (h : ∀ s, (go s).still = s.still) :
    (meetSegment c k go s).still = s.still := by
  unfold meetSegment; simp only []
  split
  · exact h s
  · split
    · rw [h, meetMarks_still] <;> intros <;> first | rfl | simp
    · rw [meetMarks_still] <;> intros <;> first | rfl | simp
@[simp] theorem strayMsg_still (k : Nat) (s : State) : (strayMsg k s).still = s.still := by
  unfold strayMsg; simp only []; (repeat' split) <;> first | (simp; done) | (rw [foldl_still] <;> intros <;> simp; done)
@[simp] theorem wrongKind_still (c : Coll) (k : Nat) (b : List Byte) (s : State) : (wrongKind c k b s).still = s.still := by
  unfold wrongKind; (repeat' split) <;> simp
@[simp] theorem normGood_still (c : Coll) (st : Nat) (q : Nat) (b : List Byte) (s : State) : (normGood c st q b s).still = s.still := by
  unfold normGood; (repeat' split) <;> simp
@[simp] theorem sealNote_still (k : Nat) (b : List Byte) (s : State) : (sealNote k b s).still = s.still := by
  unfold sealNote; simp only []; (repeat' split) <;> first | (simp; done) | (rw [foldl_still] <;> intros <;> simp; done)
@[simp] theorem abortIn_still (k : Nat) (b : List Byte) (s : State) : (abortIn k b s).still = s.still := by
  unfold abortIn; simp only []; (repeat' split) <;> first | (simp; done) | (rw [foldl_still] <;> intros <;> simp; done)
@[simp] theorem toPeer_still (x : Desc) (act : State → State) (s : State)
    (h : ∀ s, (act s).still = s.still) : (toPeer x act s).still = s.still := by
  unfold toPeer; simp only []; (repeat' split) <;> simp [h]
@[simp] theorem edgeStart_still (x : Desc) (act : Option (Fin 8 × Prog) → State → State) (s : State)
    (h : ∀ o s, (act o s).still = s.still) : (edgeStart x act s).still = s.still := by
  unfold edgeStart
  refine checks_still _ _ _ _ fun s => ?_
  split
  · exact toPeer_still _ _ _ (h _)
  · exact onSlot_still _ _ _ fun k g s => checks_still _ _ _ _ fun s => toPeer_still _ _ _ (h _)
@[simp] theorem sendBytes_still (x : Desc) (k : Option (Fin 8 × Prog)) (s : State) : (sendBytes x k s).still = s.still := by
  unfold sendBytes; (repeat' split) <;> simp
@[simp] theorem runEdge_still (o : Nat) (d : DescRef) (act : Desc → State → State) (s : State) (h : ∀ x s, (act x s).still = s.still) : NextStill s (runEdge o d act s) := by
  unfold runEdge; (try simp only []); (repeat' split) <;> simp [h]
@[simp] theorem execEdgeSend_still (d : DescRef) (s : State) : NextStill s (execEdgeSend d s) := by
  simp [execEdgeSend]
@[simp] theorem postEdge_still (x : Desc) (s : State) : (postEdge x s).still = s.still := by
  unfold postEdge; simp only []; (repeat' split) <;> first | (simp; done) | (rw [foldl_still] <;> intros <;> simp; done)
@[simp] theorem execEdgeRecv_still (d : DescRef) (s : State) : NextStill s (execEdgeRecv d s) := by
  simp [execEdgeRecv]
@[simp] theorem pullPkt_still (n : Fin 24) (i : Nat) (q : EdgePkt) (s : State) : (pullPkt n i q s).still = s.still := by
  simp [pullPkt]
@[simp] theorem withPkt_still (n : Fin 24) (i : Nat) (q : EdgePkt) (act : State → State) (s : State)
    (h : ∀ s, (act s).still = s.still) : (withPkt n i q act s).still = s.still := by
  unfold withPkt; simp only []; (repeat' split) <;> simp [h]
@[simp] theorem recvEnd_still (d : DescRef) (detail : Nat) (s : State) : (recvEnd d detail s).still = s.still := by
  simp [recvEnd]
@[simp] theorem msgDone_still (r : RxPost) (abort : Bool) (s : State) : (msgDone r abort s).still = s.still := by
  unfold msgDone; (repeat' split) <;> simp
@[simp] theorem collWhole_still (k : Nat) (r : RxPost) (s : State) : (collWhole k r s).still = s.still := by
  unfold collWhole; simp only []; (repeat' split) <;> first | (simp; done) | (rw [foldl_still] <;> intros <;> simp; done)
@[simp] theorem toWorkHub_still (n : Fin 24) (k : Nat) (r : RxPost) (s : State) : (toWorkHub n k r s).still = s.still := by
  unfold toWorkHub; (repeat' split) <;> simp
@[simp] theorem endSends_still (k : Nat) (s : State) : (endSends k s).still = s.still := by
  unfold endSends; rw [foldl_still] <;> intros <;> first | (simp; done) | ((repeat' split) <;> (simp; done))
@[simp] theorem execHeartbeat_still (n : Fin 24) (s : State) : NextStill s (execHeartbeat n s) := by
  unfold execHeartbeat; (try simp only []); (repeat' split) <;> simp
@[simp] theorem execTackTimer_still (peer : Fin 128) (chan : BitVec 8) (s : State) : NextStill s (execTackTimer peer chan s) := by
  unfold execTackTimer; (try simp only []); (repeat' split) <;> simp
@[simp] theorem execHeartbeatSend_still (peer : Fin 128) (s : State) : NextStill s (execHeartbeatSend peer s) := by
  unfold execHeartbeatSend; (try simp only []); (repeat' split) <;> simp
@[simp] theorem reopenPeer_still (p : Nat) (inc : Nat) (s : State) : (reopenPeer p inc s).still = s.still := by
  simp [reopenPeer]
@[simp] theorem runMgmt_still (o : Nat) (d : DescRef) (act : Desc → State → State) (s : State) (h : ∀ x s, (act x s).still = s.still) : NextStill s (runMgmt o d act s) := by
  unfold runMgmt; (try simp only []); (repeat' split) <;> simp [h]
@[simp] theorem makeReport_still (k : Fin 8) (s : State) : (makeReport k s).still = s.still := by
  simp [makeReport]
@[simp] theorem renewReport_still (k : Fin 8) (s : State) : (renewReport k s).still = s.still := by
  simp [renewReport]
@[simp] theorem toBuf_still (x : Desc) (b : List Byte) (s : State) : (toBuf x b s).still = s.still := by
  simp [toBuf]
@[simp] theorem writeReport_still (x : Desc) (g : Prog) (s : State) : (writeReport x g s).2.still = s.still := by
  simp [writeReport]
@[simp] theorem execProgReport_still (d : DescRef) (s : State) : NextStill s (execProgReport d s) := by
  simp [execProgReport]
@[simp] theorem execProgCounters_still (d : DescRef) (s : State) : NextStill s (execProgCounters d s) := by
  simp [execProgCounters]
@[simp] theorem failPlace_still (d : DescRef) (reason : Nat) (index : Nat) (s : State) : (failPlace d reason index s).still = s.still := by
  simp [failPlace]
@[simp] theorem readImage_still (x : Desc) (k : Fin 8) (s : State) : (readImage x k s).still = s.still := by
  simp [readImage]
@[simp] theorem plotsIn_still (x : Desc) (b : List Byte) (s : State) : (plotsIn x b s).still = s.still := by
  simp [plotsIn]
@[simp] theorem beginBarrier_still (k : Fin 8) (kind : BarKind) (d : Option DescRef) (evac : List (Fin 12)) (place : Option Placement) (s : State) : (beginBarrier k kind d evac place s).still = s.still := by
  simp [beginBarrier]
@[simp] theorem acceptBarrier_still (x : Desc) (k : Fin 8) (s : State) : (acceptBarrier x k s).still = s.still := by
  unfold acceptBarrier; (repeat' split) <;> simp
@[simp] theorem nextBarrier_still (k : Fin 8) (s : State) : (nextBarrier k s).still = s.still := by
  unfold nextBarrier; simp only []; (repeat' split) <;> first | (simp; done) | ((first | apply withColl_still | apply onSlot_still | apply toPeer_still | apply deferOr_still | apply lowWord_still | apply checks_still); intros; (try simp only []); (repeat' split) <;> simp)
@[simp] theorem execProgReconfig_still (d : DescRef) (s : State) : NextStill s (execProgReconfig d s) := by
  simp [execProgReconfig]
@[simp] theorem reconfigIn_still (x : Desc) (k : Fin 8) (s : State) : (reconfigIn x k s).still = s.still := by
  unfold reconfigIn; (repeat' split) <;> simp
@[simp] theorem execProgRemove_still (d : DescRef) (s : State) : NextStill s (execProgRemove d s) := by
  simp [execProgRemove]
@[simp] theorem execBarrierStop_still (ps : Fin 8) (s : State) : NextStill s (execBarrierStop ps s) := by
  unfold execBarrierStop; (try simp only []); (repeat' split) <;> simp
@[simp] theorem stopProg_still (k : Fin 8) (reason : Nat) (s : State) : (stopProg k reason s).still = s.still := by
  simp [stopProg]
@[simp] theorem execPressTable_still (d : DescRef) (s : State) : NextStill s (execPressTable d s) := by
  unfold execPressTable; (first | apply ctlRow_still | apply runEdge_still | apply viaMgmt_still | apply ctrlFlit_still | apply runMgmt_still | apply onLink_still | apply runDesc_still | apply doe_still); intros; (try simp only []); (repeat' split) <;> simp
@[simp] theorem pressIn_still (d : DescRef) (b : List Byte) (s : State) : (pressIn d b s).still = s.still := by
  unfold pressIn; simp only []; (repeat' split) <;> first | (simp; done) | ((first | apply withColl_still | apply onSlot_still | apply toPeer_still | apply deferOr_still | apply lowWord_still | apply checks_still); intros; (try simp only []); (repeat' split) <;> simp)
@[simp] theorem xferStart_still (x : Desc) (s : State) : (xferStart x s).still = s.still := by
  unfold xferStart; apply onSlot_still; intros; apply checks_still; intros; (repeat' split) <;> first | rfl | (simp; done) | (simp only [finishXfer_still, pumpOut_still, fillSlot_still]; rw [meetMarks_still] <;> intros <;> first | rfl | (simp; done) | (split <;> simp))
@[simp] theorem execStreamXfer_still (d : DescRef) (s : State) : NextStill s (execStreamXfer d s) := by
  unfold execStreamXfer; (try simp only []); (repeat' split) <;> simp
@[simp] theorem onCore_still (x : Desc) (act : Fin 8 → TileAt → State → State) (s : State)
    (h : ∀ k t s, (act k t s).still = s.still) : (onCore x act s).still = s.still := by
  unfold onCore
  exact onSlot_still _ _ _ fun k g s => checks_still _ _ _ _ fun s => by split <;> simp [h]
@[simp] theorem execMemRead_still (d : DescRef) (s : State) : NextStill s (execMemRead d s) := by
  unfold execMemRead; (try simp only []); (first | apply withColl_still | apply onSlot_still | apply toPeer_still | apply deferOr_still | apply lowWord_still | apply checks_still | apply onCore_still | apply onObj_still | apply onRanges_still | apply checkWith_still | apply withRead_still | apply withPkt_still | apply edgeStart_still | apply arrive_still | apply onLink_still | apply runMgmt_still | apply runDesc_still); intros; (try simp only []); (repeat' split) <;> first | (simp; done) | (simp; intros; (repeat' split) <;> simp; done)
@[simp] theorem execMemWrite_still (d : DescRef) (s : State) : NextStill s (execMemWrite d s) := by
  simp [execMemWrite]
@[simp] theorem memIn_still (x : Desc) (b : List Byte) (s : State) : (memIn x b s).still = s.still := by
  simp [memIn]
@[simp] theorem onObj_still (x : Desc) (act : Fin 8 → ObjPlace → State → State) (s : State)
    (h : ∀ k o s, (act k o s).still = s.still) : (onObj x act s).still = s.still := by
  unfold onObj
  exact onSlot_still _ _ _ fun k g s => checks_still _ _ _ _ fun s => by split <;> simp [h]
@[simp] theorem execObjRead_still (d : DescRef) (s : State) : NextStill s (execObjRead d s) := by
  unfold execObjRead; (first | apply ctlRow_still | apply runEdge_still | apply viaMgmt_still | apply ctrlFlit_still | apply runMgmt_still | apply onLink_still | apply runDesc_still | apply doe_still); intros; (try simp only []); (repeat' split) <;> simp
@[simp] theorem execObjWrite_still (d : DescRef) (s : State) : NextStill s (execObjWrite d s) := by
  simp [execObjWrite]
@[simp] theorem initRec_still (c : Nat) (s : State) : (initRec c s).2.still = s.still := by
  simp [initRec]
@[simp] theorem ask_still (x : Desc) (c : Nat) (reopening : Bool) (s : State) : (ask x c reopening s).still = s.still := by
  simp [ask]
@[simp] theorem pendReopen_still (x : Desc) (c : Nat) (s : State) : (pendReopen x c s).still = s.still := by
  simp [pendReopen]
@[simp] theorem ctlEnable_still (x : Desc) (c : Nat) (s : State) : (ctlEnable x c s).still = s.still := by
  unfold ctlEnable; simp only []; (repeat' split) <;> first | (simp; done) | ((first | apply withColl_still | apply onSlot_still | apply toPeer_still | apply deferOr_still | apply lowWord_still | apply checks_still); intros; (try simp only []); (repeat' split) <;> simp)
@[simp] theorem ctlFence_still (x : Desc) (c : Nat) (reopen : Bool) (s : State) : (ctlFence x c reopen s).still = s.still := by
  unfold ctlFence; (repeat' split) <;> simp
@[simp] theorem ctlResetUnit_still (x : Desc) (c : Nat) (s : State) : (ctlResetUnit x c s).still = s.still := by
  unfold ctlResetUnit; (repeat' split) <;> simp
@[simp] theorem ctlDisableUnit_still (x : Desc) (c : Nat) (s : State) : (ctlDisableUnit x c s).still = s.still := by
  unfold ctlDisableUnit; (repeat' split) <;> simp
@[simp] theorem ctlProg_still (x : Desc) (c : Nat) (s : State) : (ctlProg x c s).still = s.still := by
  unfold ctlProg; (repeat' split) <;> simp
@[simp] theorem ctlHostif_still (x : Desc) (s : State) : (ctlHostif x s).still = s.still := by
  simp [ctlHostif]
@[simp] theorem ctlMgmt_still (x : Desc) (s : State) : (ctlMgmt x s).still = s.still := by
  simp [ctlMgmt]
@[simp] theorem ctlEvac_still (x : Desc) (p : Fin 12) (s : State) : (ctlEvac x p s).still = s.still := by
  simp [ctlEvac]
@[simp] theorem ctlRow_still (mine : Nat → Bool) (d : DescRef) (act : Desc → Nat → State → State) (s : State) (h : ∀ x i s, (act x i s).still = s.still) : NextStill s (ctlRow mine d act s) := by
  unfold ctlRow; (try simp only []); (repeat' split) <;> simp [h]
@[simp] theorem execQuery_still (d : DescRef) (s : State) : NextStill s (execQuery d s) := by
  simp [execQuery]
@[simp] theorem execReset_still (d : DescRef) (s : State) : NextStill s (execReset d s) := by
  unfold execReset; (first | apply ctlRow_still | apply runEdge_still | apply viaMgmt_still | apply ctrlFlit_still | apply runMgmt_still | apply onLink_still | apply runDesc_still | apply doe_still); intros; (try simp only []); (repeat' split) <;> simp
@[simp] theorem execEnable_still (d : DescRef) (s : State) : NextStill s (execEnable d s) := by
  unfold execEnable; (first | apply ctlRow_still | apply runEdge_still | apply viaMgmt_still | apply ctrlFlit_still | apply runMgmt_still | apply onLink_still | apply runDesc_still | apply doe_still); intros; (try simp only []); (repeat' split) <;> simp
@[simp] theorem execEvacuate_still (d : DescRef) (s : State) : NextStill s (execEvacuate d s) := by
  unfold execEvacuate; (try simp only []); (repeat' split) <;> simp
@[simp] theorem armWatch_still (x : Desc) (s : State) : (armWatch x s).still = s.still := by
  simp [armWatch]
@[simp] theorem execWatchSet_still (d : DescRef) (s : State) : NextStill s (execWatchSet d s) := by
  simp [execWatchSet]
@[simp] theorem watchAgain_still (key : Nat) (s : State) : (watchAgain key s).still = s.still := by
  simp [watchAgain]
@[simp] theorem execProgramWatchExpiry_still (ps : Fin 8) (s : State) : NextStill s (execProgramWatchExpiry ps s) := by
  unfold execProgramWatchExpiry; (try simp only []); (repeat' split) <;> simp
@[simp] theorem hostifReset_still (rseq : Nat) (s : State) : (hostifReset rseq s).still = s.still := by
  unfold hostifReset; (repeat' split) <;> simp
@[simp] theorem watchReset_still (c : Nat) (rseq : Nat) (s : State) : (watchReset c rseq s).still = s.still := by
  unfold watchReset; (repeat' split) <;> simp
@[simp] theorem execSqWatchExpiry_still (p : Fin 64) (s : State) : NextStill s (execSqWatchExpiry p s) := by
  unfold execSqWatchExpiry; (try simp only []); (repeat' split) <;> simp
@[simp] theorem execHeartbeatWatch_still (u : BitVec 24) (s : State) : NextStill s (execHeartbeatWatch u s) := by
  unfold execHeartbeatWatch; (try simp only []); (repeat' split) <;> simp
@[simp] theorem execLogFetch_still (d : DescRef) (s : State) : NextStill s (execLogFetch d s) := by
  simp [execLogFetch]
@[simp] theorem execPolicySet_still (d : DescRef) (s : State) : NextStill s (execPolicySet d s) := by
  simp [execPolicySet]
@[simp] theorem execFwLoad_still (d : DescRef) (s : State) : NextStill s (execFwLoad d s) := by
  unfold execFwLoad; (try simp only []); (repeat' split) <;> simp
@[simp] theorem firmwareIn_still (x : Desc) (b : List Byte) (s : State) : (firmwareIn x b s).still = s.still := by
  unfold firmwareIn; (repeat' split) <;> simp
@[simp] theorem execCertChain_still (d : DescRef) (s : State) : NextStill s (execCertChain d s) := by
  simp [execCertChain]
@[simp] theorem chainIn_still (x : Desc) (b : List Byte) (s : State) : (chainIn x b s).still = s.still := by
  unfold chainIn; (repeat' split) <;> simp
@[simp] theorem doeAnswer_still (status : Nat) (b : List Byte) (s : State) : (doeAnswer status b s).still = s.still := by
  simp [doeAnswer]
@[simp] theorem doe_still (ok : Bool) (act : State → State) (s : State) (h : ∀ s, (act s).still = s.still) : NextStill s (doe ok act s) := by
  simp [doe, h]
@[simp] theorem execAttest_still (req : List Byte) (s : State) : NextStill s (execAttest req s) := by
  simp [execAttest]
@[simp] theorem execGetChain_still (req : List Byte) (s : State) : NextStill s (execGetChain req s) := by
  simp [execGetChain]
@[simp] theorem execUnlockChallenge_still (req : List Byte) (s : State) : NextStill s (execUnlockChallenge req s) := by
  simp [execUnlockChallenge]
@[simp] theorem secEvent_still (cls : Nat) (low : Nat) (s : State) : (secEvent cls low s).still = s.still := by
  simp [secEvent]
@[simp] theorem execUnlock_still (req : List Byte) (s : State) : NextStill s (execUnlock req s) := by
  simp [execUnlock]
@[simp] theorem isolateDie_still (d : Fin 8) (n : Nat) (s : State) : (isolateDie d n s).still = s.still := by
  simp [isolateDie]
@[simp] theorem execPhyAccess_still (die : Fin 8) (a : PhyKind) (s : State) : NextStill s (execPhyAccess die a s) := by
  unfold execPhyAccess; (try simp only []); (repeat' split) <;> simp
@[simp] theorem useSection_still (s : State) (e : Nat × List Byte) : (useSection s e).still = s.still := by
  unfold useSection; (repeat' split) <;> simp
@[simp] theorem setRatings_still (p : Nat) (f : Nat → Nat) (s : State) : (setRatings p f s).still = s.still := by
  exact pwr_still s _
@[simp] theorem rateParcel_still (p : Fin 12) (trim : Nat) (hot : Nat) (f : Nat → Nat) (s : State) : (rateParcel p trim hot f s).still = s.still := by
  simp [rateParcel]
@[simp] theorem execRecordsFetch_still (d : DescRef) (s : State) : NextStill s (execRecordsFetch d s) := by
  simp [execRecordsFetch]
@[simp] theorem execParamSupply_still (d : DescRef) (s : State) : NextStill s (execParamSupply d s) := by
  simp [execParamSupply]
@[simp] theorem blockIn_still (x : Desc) (b : List Byte) (s : State) : (blockIn x b s).still = s.still := by
  simp [blockIn]
@[simp] theorem tmuxDrive_still (s : State) : (tmuxDrive s).still = s.still := by
  simp [tmuxDrive]
@[simp] theorem tmuxCtl_still (v : Nat) (s : State) : (tmuxCtl v s).still = s.still := by
  simp [tmuxCtl]
@[simp] theorem tmuxSel_still (n : Fin 16) (v : Nat) (s : State) : (tmuxSel n v s).still = s.still := by
  simp [tmuxSel]
@[simp] theorem deferOr_still (off : Nat) (f : Nat → State → State) (v : Nat) (s : State)
    (h : ∀ v s, (f v s).still = s.still) : (deferOr off f v s).still = s.still := by
  unfold deferOr; split <;> simp [h]
@[simp] theorem logBuffered_still (s : State) (e : ErrRec × List Nat) : (logBuffered s e).still = s.still := by
  simp [logBuffered]
@[simp] theorem flushLog_still (s : State) : (flushLog s).still = s.still := by
  simp [flushLog]
theorem carried_still (off : Nat) (f : Nat → State → State) (h : carried off = some f) (v : Nat) (s : State) :
    (f v s).still = s.still := by
  unfold carried at h
  (repeat' split at h) <;> first | (cases h; simp; done) | (simp at h; done)
@[simp] theorem applyDeferred_still (s : State) : (applyDeferred s).still = s.still := by
  unfold applyDeferred
  simp only []
  rw [foldl_still]
  · rfl
  · intro s e
    split
    · exact carried_still _ _ ‹_› _ _
    · rfl
@[simp] theorem takeUp_still (s : State) : (takeUp s).still = s.still := by
  simp [takeUp]
@[simp] theorem execStandbyPowerOn_still (s : State) : NextStill s (execStandbyPowerOn s) := by
  unfold execStandbyPowerOn; (try simp only []); (repeat' split) <;> simp
@[simp] theorem execStart_still (mV : Nat) (s : State) : NextStill s (execStart mV s) := by
  unfold execStart; (try simp only []); (repeat' split) <;> simp
@[simp] theorem mapCulls_still (s : State) : (mapCulls s).still = s.still := by
  simp [mapCulls]
@[simp] theorem bypassCulls_still (s : State) : (bypassCulls s).still = s.still := by
  simp [bypassCulls]
@[simp] theorem addXmap_still (l : List Nat) (s : State) : (addXmap l s).still = s.still := by
  unfold addXmap; (repeat' split) <;> simp
@[simp] theorem rateFound_still (s : State) (e : Fin 12 × Nat × List (List Nat)) : (rateFound s e).still = s.still := by
  simp [rateFound]
@[simp] theorem railsOn_still (p : Fin 12) (s : State) : (railsOn p s).still = s.still := by
  unfold railsOn; (repeat' split) <;> simp
@[simp] theorem pllLock_still (p : Fin 12) (s : State) : (pllLock p s).still = s.still := by
  simp [pllLock]
@[simp] theorem parcelOn_still (s : State) (p : Fin 12) : (parcelOn s p).still = s.still := by
  simp [parcelOn]
@[simp] theorem parcelOff_still (s : State) (p : Fin 12) : (parcelOff s p).still = s.still := by
  simp [parcelOff]
@[simp] theorem useBlock_still (s : State) : (useBlock s).still = s.still := by
  simp [useBlock]
@[simp] theorem endStage1_still (f : StageFound) (s : State) : (endStage1 f s).still = s.still := by
  unfold endStage1; (try simp only []); (repeat' split) <;> first | (simp; done) | (simp; intros; (repeat' split) <;> simp; done)
@[simp] theorem endStage4_still (s : State) : (endStage4 s).still = s.still := by
  unfold endStage4; (repeat' split) <;> simp
@[simp] theorem moveFuses_still (s : State) : (moveFuses s).still = s.still := by
  unfold moveFuses; (repeat' split) <;> simp
@[simp] theorem readyNow_still (s : State) : (readyNow s).still = s.still := by
  simp [readyNow]
@[simp] theorem answerTopo_still (cs : List Nat) (s : State) : (answerTopo cs s).still = s.still := by
  simp [answerTopo]
@[simp] theorem classify_still (s : State) : (classify s).still = s.still := by
  simp [classify]
@[simp] theorem tryTopo_still (s : State) : (tryTopo s).still = s.still := by
  unfold tryTopo; (repeat' split) <;> simp
@[simp] theorem execTopologyWaitTimeout_still (s : State) : NextStill s (execTopologyWaitTimeout s) := by
  unfold execTopologyWaitTimeout; (repeat' split) <;> simp
@[simp] theorem execTopologySet_still (d : DescRef) (s : State) : NextStill s (execTopologySet d s) := by
  simp [execTopologySet]
@[simp] theorem rejectPorts_still (s : State) : (rejectPorts s).still = s.still := by
  unfold rejectPorts; (repeat' split) <;> simp
@[simp] theorem topologyIn_still (x : Desc) (b : List Byte) (s : State) : (topologyIn x b s).still = s.still := by
  simp [topologyIn]
@[simp] theorem takeRatings_still (all : Bool) (f : StageFound) (s : State) : (takeRatings all f s).still = s.still := by
  unfold takeRatings; (repeat' split) <;> simp
@[simp] theorem beginStage7_still (s : State) : (beginStage7 s).still = s.still := by
  simp [beginStage7]
@[simp] theorem execPbWaitTimeout_still (s : State) : NextStill s (execPbWaitTimeout s) := by
  unfold execPbWaitTimeout; (try simp only []); (repeat' split) <;> simp
@[simp] theorem readmitStart_still (x : Desc) (s : State) : (readmitStart x s).still = s.still := by
  unfold readmitStart; simp only []; (repeat' split) <;> first | (simp; done) | ((first | apply withColl_still | apply onSlot_still | apply toPeer_still | apply deferOr_still | apply lowWord_still | apply checks_still); intros; (try simp only []); (repeat' split) <;> simp)
@[simp] theorem execReadmit_still (d : DescRef) (s : State) : NextStill s (execReadmit d s) := by
  unfold execReadmit; (try simp only []); (repeat' split) <;> simp
@[simp] theorem readmitEnd_still (r : Readmit) (inServ : Bool) (stage : Nat) (s : State) : (readmitEnd r inServ stage s).still = s.still := by
  simp [readmitEnd]
@[simp] theorem uncull_still (l : List (Nat × Nat × Nat)) (s : State) : (uncull l s).still = s.still := by
  unfold uncull; (repeat' split) <;> simp
@[simp] theorem setReadmit_still (r : Readmit) (s : State) : (setReadmit r s).still = s.still := by
  simp [setReadmit]
@[simp] theorem setCeil_still (c : Nat) (s : State) : (setCeil c s).still = s.still := by
  simp [setCeil]
@[simp] theorem setFlowEn_still (en : Bool) (s : State) : (setFlowEn en s).still = s.still := by
  simp [setFlowEn]
@[simp] theorem execCeil_still (c : BitVec 3) (s : State) : NextStill s (execCeil c s) := by
  simp [execCeil]
@[simp] theorem execFlowEn_still (en : Bool) (s : State) : NextStill s (execFlowEn en s) := by
  simp [execFlowEn]
@[simp] theorem opCtl_still (v : Nat) (s : State) : (opCtl v s).still = s.still := by
  simp [opCtl]
@[simp] theorem alertStat_still (v : Nat) (s : State) : (alertStat v s).still = s.still := by
  simp [alertStat]
@[simp] theorem execTmuxCtl_still (v : Word) (s : State) : NextStill s (execTmuxCtl v s) := by
  unfold execTmuxCtl; (try simp only []); (repeat' split) <;> simp
@[simp] theorem execSel_still (n : Fin 16) (v : Word) (s : State) : NextStill s (execSel n v s) := by
  unfold execSel; (try simp only []); (repeat' split) <;> simp
@[simp] theorem sqBase_still (p : Fin 64) (lo : Option Nat) (hi : Option Nat) (s : State) : (sqBase p lo hi s).still = s.still := by
  unfold sqBase; (repeat' split) <;> simp
@[simp] theorem cqBase_still (p : Fin 64) (lo : Option Nat) (hi : Option Nat) (s : State) : (cqBase p lo hi s).still = s.still := by
  unfold cqBase; (repeat' split) <;> simp
@[simp] theorem msixMask_still (v : Fin 64) (m : Bool) (s : State) : (msixMask v m s).still = s.still := by
  unfold msixMask; (repeat' split) <;> simp
@[simp] theorem msixWrite_still (at_ : Nat) (lo : Option Nat) (hi : Option Nat) (s : State) : (msixWrite at_ lo hi s).still = s.still := by
  unfold msixWrite; simp only []; (repeat' split) <;> first | (simp; done) | ((first | apply withColl_still | apply onSlot_still | apply toPeer_still | apply deferOr_still | apply lowWord_still | apply checks_still); intros; (try simp only []); (repeat' split) <;> simp)
@[simp] theorem lowWord_still (lo : Option Nat) (f : Nat → State → State) (s : State)
    (h : ∀ v s, (f v s).still = s.still) : (lowWord lo f s).still = s.still := by
  unfold lowWord; split <;> simp [h]
@[simp] theorem hostifPut_still (a : Nat) (lo : Option Nat) (hi : Option Nat) (s : State) : (hostifPut a lo hi s).still = s.still := by
  unfold hostifPut; simp only []; (repeat' split) <;> first | (simp; done) | ((first | apply withColl_still | apply onSlot_still | apply toPeer_still | apply deferOr_still | apply lowWord_still | apply checks_still); intros; (try simp only []); (repeat' split) <;> simp)
@[simp] theorem ringPut_still (a : Nat) (lo : Option Nat) (hi : Option Nat) (s : State) : (ringPut a lo hi s).still = s.still := by
  unfold ringPut; (repeat' split) <;> simp
@[simp] theorem pwrPut_still (a : Nat) (lo : Option Nat) (hi : Option Nat) (s : State) : (pwrPut a lo hi s).still = s.still := by
  unfold pwrPut; simp only []; (repeat' split) <;> first | (simp; done) | ((first | apply withColl_still | apply onSlot_still | apply toPeer_still | apply deferOr_still | apply lowWord_still | apply checks_still); intros; (try simp only []); (repeat' split) <;> simp)
@[simp] theorem bar0Put_still (base : Nat) (lo hi : Option Nat) (s : State) : (bar0Put base lo hi s).still = s.still := by
  unfold bar0Put
  split
  · simp
  · simp
  · simp
  · split
    · split
      · exact deferOr_still _ _ _ _ (carried_still _ _ ‹_›)
      · rfl
    · rfl
@[simp] theorem execRegisterWrite_still (off : Nat) (size : Nat) (v : DWord) (s : State) : NextStill s (execRegisterWrite off size v s) := by
  simp [execRegisterWrite]
@[simp] theorem tryStaged_still (s : State) : (tryStaged s).still = s.still := by
  unfold tryStaged; (repeat' split) <;> simp
@[simp] theorem mgmtOpen_still (s : State) : (mgmtOpen s).still = s.still := by
  simp [mgmtOpen]
@[simp] theorem execMgmtReopen_still (s : State) : NextStill s (execMgmtReopen s) := by
  unfold execMgmtReopen; (try simp only []); (repeat' split) <;> simp
@[simp] theorem execPbData_still (off : Word) (bytes : List Byte) (s : State) : NextStill s (execPbData off bytes s) := by
  unfold execPbData; (try simp only []); (repeat' split) <;> simp
@[simp] theorem execPbCommit_still (s : State) : NextStill s (execPbCommit s) := by
  unfold execPbCommit; (try simp only []); (repeat' split) <;> simp
@[simp] theorem execPbAbort_still (s : State) : NextStill s (execPbAbort s) := by
  unfold execPbAbort; (try simp only []); (repeat' split) <;> simp
@[simp] theorem sideband_still (b : List Byte) (s : State) : NextStill s (sideband b s) := by
  simp [sideband]
@[simp] theorem execStatus_still (s : State) : NextStill s (execStatus s) := by
  simp [execStatus]
@[simp] theorem execFatalRead_still (s : State) : NextStill s (execFatalRead s) := by
  simp [execFatalRead]
@[simp] theorem execModuleId_still (s : State) : NextStill s (execModuleId s) := by
  simp [execModuleId]
@[simp] theorem execTelemetry_still (s : State) : NextStill s (execTelemetry s) := by
  simp [execTelemetry]
@[simp] theorem execIdcode_still (s : State) : NextStill s (execIdcode s) := by
  unfold execIdcode; (try simp only []); (repeat' split) <;> simp
@[simp] theorem selectBypass_still (s : State) : (selectBypass s).still = s.still := by
  simp [selectBypass]
@[simp] theorem execBypass_still (s : State) : NextStill s (execBypass s) := by
  simp [execBypass]
@[simp] theorem execTapReset_still (s : State) : NextStill s (execTapReset s) := by
  simp [execTapReset]
@[simp] theorem execBoundaryScan_still (_drive : Bool) (bits : List Bool) (s : State) : NextStill s (execBoundaryScan _drive bits s) := by
  unfold execBoundaryScan; (repeat' split) <;> simp
@[simp] theorem streamIn_still (x : Desc) (b : List Byte) (s : State) : (streamIn x b s).still = s.still := by
  unfold streamIn; (repeat' split) <;> simp
@[simp] theorem hostFail_still (x : Desc) (status : Nat) (detail : Nat) (s : State) : (hostFail x status detail s).still = s.still := by
  simp [hostFail]
@[simp] theorem withRead_still (tag : Nat) (act : Desc → HostReq → State → State) (s : State)
    (h : ∀ x r s, (act x r s).still = s.still) : (withRead tag act s).still = s.still := by
  unfold withRead; simp only []; (repeat' split) <;> simp [h]
/-! ## The commands -/

end Sys2Proof.Machine
end

