-- ==== Sys2Proof/Laws/Tile.lean ====
section
/-! SUPPORT. Laws of tiles, tasks and own beats: what a change of a tile or task leaves of the others, and that an instruction that is due,
waits for nothing and raises no fault has its effect (R42 to R44, R49, R66, R77). -/

namespace Sys2Proof.Machine

/-! ## Tiles and tasks -/

theorem tileNo_inj {t u : TileAt} (h : tileNo t = tileNo u) : t = u := by
  obtain ⟨tr, tc⟩ := t
  obtain ⟨ur, uc⟩ := u
  simp only [tileNo] at h
  have h1 := tc.isLt
  have h2 := uc.isLt
  have : tr = ur := Fin.ext (by omega)
  have : tc = uc := Fin.ext (by omega)
  subst_vars; rfl

@[simp] theorem tileAt_setTile_self (t : TileAt) (x : Tile) (s : State) : tileAt (setTile t x s) t = x := lookupD_put_self _ _ _ _

theorem tileAt_setTile_ne {t u : TileAt} (h : u ≠ t) (x : Tile) (s : State) : tileAt (setTile t x s) u = tileAt s u :=
  lookupD_put_ne _ _ (fun e => h (tileNo_inj e)) _

@[simp] theorem tileAt_updTile_self (t : TileAt) (f : Tile → Tile) (s : State) : tileAt (updTile t f s) t = f (tileAt s t) :=
  tileAt_setTile_self _ _ _

theorem tileAt_updTile_ne {t u : TileAt} (h : u ≠ t) (f : Tile → Tile) (s : State) : tileAt (updTile t f s) u = tileAt s u :=
  tileAt_setTile_ne h _ _

@[simp] theorem tileAt_updTask_self (k : TaskAt) (f : Task → Task) (s : State) :
    tileAt (updTask k f s) k.tile =
      { tileAt s k.tile with tasks := (tileAt s k.tile).tasks.set k.task (f (tileAt s k.tile).tasks[k.task]) } :=
  tileAt_updTile_self _ _ _

theorem tileAt_updTask_ne {k : TaskAt} {u : TileAt} (h : u ≠ k.tile) (f : Task → Task) (s : State) : tileAt (updTask k f s) u = tileAt s u :=
  tileAt_updTile_ne h _ _

@[simp] theorem taskAt_updTask_self (k : TaskAt) (f : Task → Task) (s : State) : taskAt (updTask k f s) k = f (taskAt s k) := by
  simp [taskAt]

@[simp] theorem cfgAt_updTask (k : TaskAt) (f : Task → Task) (s : State) : cfgAt (updTask k f s) k = cfgAt s k := by simp [cfgAt]

/-- A change of a tile that leaves its tasks alone. -/
theorem taskAt_updTile_of (k : TaskAt) (f : Tile → Tile) (s : State) (h : (f (tileAt s k.tile)).tasks = (tileAt s k.tile).tasks) :
    taskAt (updTile k.tile f s) k = taskAt s k := by simp [taskAt, h]

@[simp] theorem taskAt_claim (k : TaskAt) (pl : Plan) (s : State) : taskAt (updTile k.tile (claim pl) s) k = taskAt s k :=
  taskAt_updTile_of _ _ _ rfl

/-- Two changes of one tile are one. -/
theorem put_put {α : Type} (a : Nat) (v w : α) (l : List (Nat × α)) : put a v (put a w l) = put a v l := by
  induction l with
  | nil => simp [put]
  | cons e t ih =>
    obtain ⟨k, u⟩ := e
    by_cases h : a < k
    · simp [put, h]
    · by_cases h2 : a = k
      · simp [put, h2]
      · simp [put, h, h2, ih]

@[simp] theorem updTile_updTile (t : TileAt) (f g : Tile → Tile) (s : State) : updTile t f (updTile t g s) = updTile t (fun x => f (g x)) s := by
  unfold updTile
  rw [tileAt_setTile_self]
  simp only [setTile, put_put]

/-! ## Own beats -/

@[simp] theorem taskAt_countOwn (k : TaskAt) (s : State) :
    taskAt (countOwn k s) k = { taskAt s k with own := (taskAt s k).own + 1, seg := (taskAt s k).seg.map fun e => (e.1, e.2 + 1) } := by
  unfold countOwn
  rw [taskAt_updTask_self, taskAt_updTile_of _ _ _ rfl]

@[simp] theorem cfgAt_countOwn (k : TaskAt) (s : State) : cfgAt (countOwn k s) k = cfgAt s k := by
  unfold countOwn; simp [cfgAt]

/-- The state in which a due instruction issues, its own beat counted. -/
theorem ownBeat_due {s : State} {k : TaskAt} (h : Due s k) (i : Instr) (g : Guard) (pl : State → Plan) (eff : State → State) :
    ownBeat i k g pl eff s = issue i k g (pl (countOwn k s)) eff (countOwn k s) := by
  obtain ⟨h1, h2, ⟨h3, h4⟩, ⟨h5, h6⟩, h7⟩ := h
  unfold ownBeat ownBeatWith
  rw [if_pos h1]
  have e1 : (taskAt (countOwn k s) k).halted = false := by rw [taskAt_countOwn]; exact h3
  have e2 : (taskAt (countOwn k s) k).faulted = false := by rw [taskAt_countOwn]; exact h4
  have e3 : (taskAt (countOwn k s) k).skip = 0 := by rw [taskAt_countOwn]; exact h5
  have e4 : (taskAt (countOwn k s) k).pad = 0 := by rw [taskAt_countOwn]; exact h6
  have e5 : overrun (taskAt (countOwn k s) k) = false := by
    rw [taskAt_countOwn]
    unfold overrun
    cases hs : (taskAt s k).seg with
    | none => rfl
    | some e => have := h7 e hs; simp; omega
  simp only [cfgAt_countOwn, h2, e1, e2, e3, e4, e5]
  rfl

/-- What an instruction's plan needs of the present beat: its guard passes, its registers and units are ready, it is legal, raises no fault and
meets no claim of another (R49, R66, R67, R77). -/
structure Goes (s : State) (k : TaskAt) (g : Guard) (pl : Plan) : Prop where
  guard  : Passes s k g
  gs     : ∀ r ∈ pl.gs ++ pl.gd.map (·.1), UsableG s k r
  ps     : ∀ r ∈ pl.ps ++ pl.pd.map (·.1), UsableP s k r
  vs     : ∀ r ∈ pl.vs ++ pl.vd.map (·.1), UsableV s k r
  wait   : pl.wait ≤ s.beats.wrb
  legal  : pl.ill = false ∧ (pl.always = true → guardAlways g = true)
  faults : pl.faults = []
  wide   : ∀ b ∈ pl.wide, WideFree s k b
  slots  : ∀ b ∈ pl.slots, SlotFree s k b

/-- A due instruction that goes has its effect, after the pc has moved on and its results and beats are claimed. -/
theorem ownBeat_goes {s : State} {k : TaskAt} (h : Due s k) (i : Instr) (g : Guard) (pl : State → Plan) (eff : State → State)
    (hp : Goes s k g (pl (countOwn k s))) :
    ownBeat i k g pl eff s = eff (updTask k (fun x => advFrom (taskAt s k).pc (scoreboard (pl (countOwn k s)) s.beats.wrb x))
      (updTile k.tile (claim (pl (countOwn k s))) (countOwn k s))) := by
  rw [ownBeat_due h]
  generalize pl (countOwn k s) = p at hp ⊢
  obtain ⟨hg, hgs, hps, hvs, hw, ⟨hl, ha⟩, hf, hwd, hsl⟩ := hp
  unfold issue
  have w : waits (taskAt (countOwn k s) k) g p (countOwn k s).beats.wrb = false := by
    have e1 : (taskAt (countOwn k s) k).gReady = (taskAt s k).gReady := by rw [taskAt_countOwn]
    have e2 : (taskAt (countOwn k s) k).pReady = (taskAt s k).pReady := by rw [taskAt_countOwn]
    have e3 : (taskAt (countOwn k s) k).vReady = (taskAt s k).vReady := by rw [taskAt_countOwn]
    unfold waits
    simp only [e1, e2, e3, countOwn_beats, Bool.or_eq_false_iff, List.any_eq_false, decide_eq_true_eq, Nat.not_lt]
    refine ⟨⟨⟨fun r hr => hgs r hr, fun r hr => ?_⟩, fun r hr => hvs r hr⟩, decide_eq_false (Nat.not_lt.mpr hw)⟩
    rcases List.mem_cons.mp (by simpa using hr : r ∈ g.gp :: (p.ps ++ p.pd.map (·.1))) with rfl | hr
    · exact hg.1
    · exact hps r hr
  have go : guardOk (taskAt (countOwn k s) k) g = true := by
    have e : rdP (taskAt (countOwn k s) k) g.gp = rdP (taskAt s k) g.gp := by rw [taskAt_countOwn]; rfl
    unfold guardOk; rw [e]; exact hg.2
  have il : (p.ill || (p.always && !guardAlways g)) = false := by
    cases hA : p.always with
    | false => simp [hl]
    | true => simp [hl, ha hA]
  have cf : conflict (tileAt (countOwn k s) k.tile) p = false := by
    have e1 : (tileAt (countOwn k s) k.tile).wide = (tileAt s k.tile).wide := by unfold countOwn; simp
    have e2 : (tileAt (countOwn k s) k.tile).slots = (tileAt s k.tile).slots := by unfold countOwn; simp
    unfold conflict
    simp only [e1, e2, Bool.or_eq_false_iff, List.any_eq_false]
    refine ⟨fun b hb hc => hwd b hb (by simpa using hc), fun a ha h => ?_⟩
    obtain ⟨b, hb, hc⟩ := List.any_eq_true.mp h
    have := hsl a ha b hb
    have := of_decide_eq_true hc
    omega
  have pc : (taskAt (countOwn k s) k).pc = (taskAt s k).pc := by rw [taskAt_countOwn]
  have rs : residueHits i (tileAt (countOwn k s) k.tile) = [] := by
    have e : (tileAt (countOwn k s) k.tile).residue = (tileAt s k.tile).residue := by unfold countOwn; simp
    have l : (tileAt (countOwn k s) k.tile).lanes = (tileAt s k.tile).lanes := by unfold countOwn; simp
    simp [residueHits, e, l, h.clean.1, h.clean.2]
  simp only [w, il, go, hf, cf, pc, rs]
  rfl

/-- The task of an instruction that goes, before its effect. -/
theorem taskAt_goes (s : State) (k : TaskAt) (pl : Plan) :
    taskAt (updTask k (fun x => advFrom (taskAt s k).pc (scoreboard pl s.beats.wrb x)) (updTile k.tile (claim pl) (countOwn k s))) k =
      advFrom (taskAt s k).pc (scoreboard pl s.beats.wrb
        { taskAt s k with own := (taskAt s k).own + 1, seg := (taskAt s k).seg.map fun e => (e.1, e.2 + 1) }) := by
  rw [taskAt_updTask_self, taskAt_claim, taskAt_countOwn]

/-! ## The frame of an own beat -/

/-- The task once its own beat is counted. -/
def Task.counted (x : Task) : Task := { x with own := x.own + 1, seg := x.seg.map fun e => (e.1, e.2 + 1) }

/-- The tile of an instruction that goes, whose effect changes the tile by `e` (tasks aside) and the task by `f`. -/
theorem tileAt_goes (s : State) (k : TaskAt) (pl : Plan) (f h : Task → Task) (e : Tile → Tile)
    (he : ∀ x y, e { x with tasks := y } = { e x with tasks := y }) :
    ∃ ts, (∀ j, j ≠ k.task → ts[j] = (tileAt s k.tile).tasks[j]) ∧ ts[k.task] = f (h (taskAt s k).counted) ∧
      tileAt (updTask k f (updTile k.tile e (updTask k h (updTile k.tile (claim pl) (countOwn k s))))) k.tile =
        { e (claim pl { tileAt s k.tile with ownAt := some s.beats.wrb }) with tasks := ts } := by
  refine ⟨(((tileAt s k.tile).tasks.set k.task (taskAt s k).counted).set k.task (h (taskAt s k).counted)).set k.task
    (f (h (taskAt s k).counted)), fun j hj => ?_, ?_, ?_⟩
  · have : k.task.val ≠ j.val := fun e => hj (Fin.ext e.symm)
    simp [this]
  · simp
  · have c : tileAt (countOwn k s) k.tile = { tileAt s k.tile with
        ownAt := some s.beats.wrb, tasks := (tileAt s k.tile).tasks.set k.task (taskAt s k).counted } := by
      unfold countOwn
      rw [tileAt_updTask_self, tileAt_updTile_self]
      rfl
    rw [tileAt_updTask_self, tileAt_updTile_self, tileAt_updTask_self, tileAt_updTile_self, c]
    have e1 : claim pl { tileAt s k.tile with ownAt := some s.beats.wrb, tasks := (tileAt s k.tile).tasks.set k.task (taskAt s k).counted } =
        { claim pl { tileAt s k.tile with ownAt := some s.beats.wrb } with tasks := (tileAt s k.tile).tasks.set k.task (taskAt s k).counted } := rfl
    rw [e1, he, he]
    simp [Task.counted]

/-- Changes of tiles leave the rest of the state. -/
theorem updTile_rest (t : TileAt) (f : Tile → Tile) (s : State) (l : List (Nat × Tile)) :
    { updTile t f s with tiles := l } = { s with tiles := l } := rfl
theorem updTask_rest (k : TaskAt) (f : Task → Task) (s : State) (l : List (Nat × Tile)) :
    { updTask k f s with tiles := l } = { s with tiles := l } := rfl
theorem countOwn_rest (k : TaskAt) (s : State) (l : List (Nat × Tile)) : { countOwn k s with tiles := l } = { s with tiles := l } := rfl

/-- The frame of an instruction that goes, whose effect changes the tile by `e`, which touches neither tasks nor memories, and the task by `f`. -/
theorem ownFrame_goes {s : State} {k : TaskAt} (pl : Plan) (f h : Task → Task) (e : Tile → Tile)
    (he : ∀ x y, e { x with tasks := y } = { e x with tasks := y }) (ho : ∀ x y, e { x with ownAt := y } = { e x with ownAt := y })
    (hm : ∀ x m, memOf (e x) m = memOf x m) :
    OwnFrame s (updTask k f (updTile k.tile e (updTask k h (updTile k.tile (claim pl) (countOwn k s))))) k (fun x => e (claim pl x)) s := by
  obtain ⟨ts, h1, _, h3⟩ := tileAt_goes s k pl f h e he
  have hO : ∀ u, u ≠ k.tile → tileAt (updTask k f (updTile k.tile e (updTask k h (updTile k.tile (claim pl) (countOwn k s))))) u = tileAt s u := by
    intro u hu
    rw [tileAt_updTask_ne hu, tileAt_updTile_ne hu, tileAt_updTask_ne hu, tileAt_updTile_ne hu]
    unfold countOwn
    rw [tileAt_updTask_ne hu, tileAt_updTile_ne hu]
  have e1 : claim pl { tileAt s k.tile with ownAt := some s.beats.wrb } = { claim pl (tileAt s k.tile) with ownAt := some s.beats.wrb } := rfl
  rw [e1, ho] at h3
  have hR : { updTask k f (updTile k.tile e (updTask k h (updTile k.tile (claim pl) (countOwn k s)))) with tiles := s.tiles } = s := by
    rw [updTask_rest, updTile_rest, updTask_rest, updTile_rest, countOwn_rest]
  generalize updTask k f (updTile k.tile e (updTask k h (updTile k.tile (claim pl) (countOwn k s)))) = t at *
  have hM : ∀ m, memOf (tileAt t k.tile) m = memOf (tileAt s k.tile) m := by
    intro m
    have q : memOf (claim pl (tileAt s k.tile)) m = memOf (tileAt s k.tile) m := by cases m <;> rfl
    have p : memOf (tileAt t k.tile) m = memOf (e (claim pl (tileAt s k.tile))) m := by rw [h3]; cases m <;> rfl
    exact p.trans ((hm _ m).trans q)
  refine ⟨hR, hO, by rw [h3], fun j hj => by rw [h3]; exact h1 j hj, fun u m a => ?_⟩
  by_cases hu : u = k.tile
  · rw [hu, hM]
  · rw [hO u hu]

/-- The same, for an effect on the task alone. -/
theorem taskFrame_goes {s : State} {k : TaskAt} (pl : Plan) (hw : pl.wide = []) (hs : pl.slots = []) (f h : Task → Task) :
    TaskFrame s (updTask k f (updTask k h (updTile k.tile (claim pl) (countOwn k s)))) k := by
  have hc : (fun x => id (claim pl x)) = id := by funext x; unfold claim; simp [hw, hs]
  have hi : ∀ u : State, updTile k.tile id u = u → updTask k f u = updTask k f (updTile k.tile id u) := fun u hu => by rw [hu]
  have := ownFrame_goes (s := s) (k := k) pl f h id (fun _ _ => rfl) (fun _ _ => rfl) (fun _ _ => rfl)
  rw [hc] at this
  have hid : updTask k f (updTile k.tile id (updTask k h (updTile k.tile (claim pl) (countOwn k s)))) =
      updTask k f (updTask k h (updTile k.tile (claim pl) (countOwn k s))) := by
    unfold updTask
    simp only [updTile_updTile, id]
  rw [hid] at this
  exact this

/-- A plan without special needs goes when its guard passes, its registers are usable and no operand is at fault. -/
theorem goes_plain {s : State} {k : TaskAt} {g : Guard} {pl : Plan} (hg : Passes s k g) (hl : pl.ill = false) (ha : pl.always = false)
    (hgs : ∀ r ∈ pl.gs ++ pl.gd.map (·.1), UsableG s k r) (hps : ∀ r ∈ pl.ps ++ pl.pd.map (·.1), UsableP s k r)
    (hvs : ∀ r ∈ pl.vs ++ pl.vd.map (·.1), UsableV s k r) (hw : pl.wait = 0) (hf : pl.faults = [])
    (h1 : pl.wide = []) (h2 : pl.slots = []) : Goes s k g pl :=
  ⟨hg, hgs, hps, hvs, by omega, ⟨hl, by simp [ha]⟩, hf, by simp [h1], by simp [h2]⟩

end Sys2Proof.Machine
end

