-- ==== Sys2Proof/Tests/Slice0.lean ====
section
/-! SUPPORT. The model's own tests: the checks of WellFormed, words of the core's encoding, a small run of single steps, and, for every statement of
Obligations.lean with hypotheses, states and operands that meet them. -/

open Sys2Proof Sys2Proof.Machine

namespace Sys2Proof.Tests

set_option Elab.async false

/-! ## The states the tests stand on -/

/-- Tile (0, 0) and its task 0. -/
def c0 : TileAt := { row := 0, col := 0 }
def c1 : TileAt := { row := 0, col := 1 }
def k0 : TaskAt := { tile := c0, task := 0 }
/-- The guard that always passes: predicate p0, sense 0 (R49). -/
def g0 : Guard := { gp := 0, gs := 0 }
/-- A guard that fails while p1 is 0. -/
def g1 : Guard := { gp := 1, gs := 0 }

/-- A task's configuration: 4 KiB of local SRAM and of slab, code at byte 0 in lines 0 to 3. -/
def cfg0 : TaskCfg := { lbase := 0, lbound := 64, cbase := 0, cbound := 64, ibase := 0, lbFirst := 0, lbCount := 4, en := true }

/-- A placement of one tile. -/
def place0 : Placement :=
  { tiles := [], phases := [], start := 0, mkTile := c0, mkTask := 0, ports := [], objects := [], terms := [], steered := false,
    boundsOnly := false, bIter := 0, firstIter := 0, latency := 0, drain := 0, lmax := 0, plots := [], nets := [], splits := [],
    reads := { mems := [], variants := [], records := [], backward := [], cores := [] }, util := 0, bMin := 0, bMax := 0, shares := [] }

/-- An image with no records. -/
def img0 : Img := { plots := [], nets := [], objs := [], ports := [], phases := [], cons := [], names := [], data := [] }

/-- A resident, running program. -/
def prog0 : Prog :=
  { digest := [], place := place0, running := true, start := 0, epoch := false, phase := 0, phaseK := 0, phaseN := 0, iters := 0,
    beatsRun := 0, firstM := none, baseIt := 0, baseBt := 0, restartM := false, holds := 0, winHolds := 0, excess := 0, discards := 0,
    winInex := 0, restartB := 0, repSeq := 0, restricted := false, jceil := 7, seed := 1, bar := none, waiting := [], sqs := [], press := [],
    slots := [], haltAt := none, stuck := false, load := none, img := img0, report := [1, 2] }

/-- A tile of program slot 0 whose pattern gives every beat to task 0. -/
def tile0 : Tile := { Tile.free with placed := true, cfg := Vector.replicate 4 cfg0 }

/-- Domains that are OPEN. -/
def openDoms (l : List Nat) : List (Nat × Dom) := l.map fun c => (c, { Dom.off with st := .opened })

/-- The engine in service: every domain OPEN, every parcel ON, READY, 3 s after its start. -/
def live : State :=
  { State.reset with
    time := ms 3000, beats := { cbn := 16, wrb := 16 },
    doms := openDoms ([0x100, 0x200, 0x300, 0x301, 0x302, 0x303, 0x700] ++ (List.range 24).map edgeCode ++ (List.range 12).map parcelCode ++
      (List.range 12).map cellarCode),
    parcels := Vector.replicate 12 { Parcel.reset with st := .on, logicOn := true, cellarOn := true, locked := true },
    tiles := [(0, tile0)], progs := (Vector.replicate 8 none).set 0 (some prog0),
    module := { Module.reset with running := true, resetn := true, good := true, hrails := 0xF, phys := 0xFF },
    boot := { Boot.reset with stage := 8, ready := true }, hostif := { Hostif.reset with perst := false, link := true },
    pwr := { Pwr.reset with bref := true } }

/-- The same with changes to the tile. -/
def liveT (f : Tile → Tile) : State := { live with tiles := [(0, f tile0)] }
/-- The same with changes to task 0 of the tile. -/
def liveK (f : Machine.Task → Machine.Task) : State := liveT fun x => { x with tasks := x.tasks.set 0 (f Task.start) }
/-- Registers g2 = 7, g3 = 0xFFFF_FFFF, g4 = 64, g5 = 4,096. -/
def regs0 : State := liveK fun t => { t with g := (((t.g.set 2 7).set 3 0xFFFFFFFF).set 4 64).set 5 4096 }

/-- A field of the state after a step; none where it stops. -/
def after {α : Type} (r : Res) (f : State → α) : Option α :=
  match r with
  | .next t => some (f t)
  | _ => none

/-! ## WellFormed: each check refuses an ill-formed term and takes a well-formed one -/

/-- A packet without payload. -/
def pkt (plen : BitVec 8) (payload : List Byte) : Packet :=
  { opc := 2, cls := 0, vcr := 0, epoch := 0, first := true, last := true, space := 0, dst := 0, src := 0, tag := 0, pslot := 0, psv := false, plen := plen,
    countOff := 1, addr := 0, payload := payload, headBad := false, bodyBad := false }
def flitOf (body : List Byte) : Flit :=
  { ftype := 1, vc := 0, seq := 0, ack := 0, cvc := 0, ccnt := 0, thdr := 0, body := body, crc := 0, fixed := 0, uncorr := false }
def frame (n : Nat) (t : Nat) : SensorFrame := { field := List.replicate n t, hub := List.replicate 8 t, phy := List.replicate 16 t }
def foundWith (culls : List (Nat × Nat × Nat)) (xmap : List Nat) (repairs : List (Nat × Nat × Nat × Nat)) : StageFound :=
  { ok := true, off := [], culls := culls, xmap := xmap, repairs := repairs, ratings := [], passed := [], inputOk := true }
def tileOf (chans : Nat) : TileCfg :=
  { at_ := c0, placed := true, plot := 0, prow := 0, pcol := 0, tasks := List.replicate 4 cfg0, pattern := 0, mown := 0,
    chans := List.replicate chans Chan.none.cfg, entries := [], phases := List.replicate 4 { base := 0, len := 1, next := 0, reps := 0 }, startPh := 0,
    startCur := 0, routerEn := false, initTok := [], mem := [], freeWide := 2, freeSlots := 1 }
def placeOf (chans phases : Nat) : PlaceResult :=
  .placed { place0 with tiles := [tileOf chans], phases := List.replicate phases { len := 1, next := 0, opPref := 0, reps := 0, htol := 0 } }

theorem test_wf_packet_length : (Instr.write_ (pkt 1 [])).wf = false ∧ (Instr.write_ (pkt 1 (List.replicate 8 0))).wf = true := by decide
theorem test_wf_packet_size : (Instr.readData (pkt 129 (List.replicate 1032 0))).wf = false := by decide +kernel
theorem test_wf_flit : (Instr.data 0 (flitOf [])).wf = false ∧ (Instr.data 0 (flitOf (List.replicate 240 0))).wf = true := by decide +kernel
theorem test_wf_frame_length : (Instr.sensorSample (frame 767 100)).wf = false ∧ (Instr.sensorSample (frame 768 100)).wf = true := by decide +kernel
theorem test_wf_reading : (Instr.sensorSample (frame 768 1024)).wf = false ∧ (Instr.sensorSample (frame 768 0x8000)).wf = true := by decide +kernel
theorem test_wf_telemetry : (Instr.currentSample { iMean := [], pIn := 0, vIn := 0, vRail := [] }).wf = false := by decide
theorem test_wf_granule : (Instr.granuleGrant []).wf = false := by decide
theorem test_wf_window : (Instr.throttleWindow .w [1, 2]).wf = false := by decide
theorem test_wf_fetch : (Instr.descriptorFetch 0 (.data [1])).wf = false ∧ (Instr.descriptorFetch 0 .errorCompletion).wf = true := by decide
theorem test_wf_fetch_poison : (Instr.descriptorFetch 0 (.poison [])).wf = false := by decide
theorem test_wf_registerWrite : (Instr.registerWrite 8 2 0).wf = false ∧ (Instr.registerWrite 8 4 0).wf = true := by decide
theorem test_wf_placement : (Instr.placementDone (placeOf 7 4)).wf = false ∧ (Instr.placementDone (placeOf 8 3)).wf = false ∧
    (Instr.placementDone (placeOf 8 4)).wf = true := by decide +kernel
theorem test_wf_refusal : (Instr.placementDone (.refused 0 0)).wf = false ∧ (Instr.placementDone (.refused 19 0)).wf = true := by decide
theorem test_wf_page : (Instr.identityRead 0 (some [])).wf = false ∧ (Instr.identityRead 0 none).wf = true := by decide
theorem test_wf_culls : (Instr.stageEnd (foundWith [(768, 0, 0)] [] [])).wf = false := by decide
theorem test_wf_crossings : (Instr.stageEnd (foundWith [] [4352] [])).wf = false := by decide
theorem test_wf_repairs : (Instr.readmitStageEnd (foundWith [] [] [(0, 0, 512, 0)])).wf = false ∧ (Instr.stageEnd (foundWith [(767, 1039, 2)] [4351] [])).wf = true := by
  decide
theorem test_wf_block : (Instr.pbData 0 []).wf = false ∧ (Instr.pbData 0 (List.replicate 257 0)).wf = false := by decide +kernel
theorem test_wf_link : (Instr.linkTrained true 3 0).wf = false ∧ (Instr.linkTrained true 2 3).wf = false := by decide

/-! ## Decoding: words written out from R49 to R73 -/

theorem test_dec_rr : decodeCore k0 0b0000_00_0_00000_0011_0001_0010_00000000 = some (.add k0 g0 3 1 2) := by decide +kernel
theorem test_dec_rr_guarded : decodeCore k0 0b0000_10_1_01001_1111_0001_0010_00000000 = some (.mulhu k0 { gp := 2, gs := 1 } 15 1 2) := by decide +kernel
theorem test_dec_rr_reserved : decodeCore k0 0b0000_00_0_00000_0011_0001_0010_00000001 = none := by decide +kernel
theorem test_dec_pnot : decodeCore k0 0b0000_00_0_10110_0011_0001_0000_00000000 = some (.pnot k0 g0 3 1 0) := by decide +kernel
theorem test_dec_imm : decodeCore k0 0b0001_00_0_0000_0101_0110_1111111111111 = some (.addi k0 g0 5 6 0x1FFF) := by decide +kernel
theorem test_dec_lih : decodeCore k0 0b0001_00_0_1010_0101_0_1000000000000001 = some (.lih k0 g0 5 0x8001) := by decide +kernel
theorem test_dec_loop : decodeCore k0 0b0010_00_0_011_000000000111_00000011_00 = some (.loop k0 g0 7 3) := by decide +kernel
theorem test_dec_bal : decodeCore k0 0b0010_01_0_001_0110_111111111111111110 = some (.bal k0 { gp := 1, gs := 0 } 6 0x3FFFE) := by decide +kernel
theorem test_dec_stw : decodeCore k0 0b0011_00_0_101_0001_0010_00000000000100 = some (.stw k0 g0 1 2 4) := by decide +kernel
theorem test_dec_vfma : decodeCore k0 0b0100_00_0_000011_111_001_010_011_1_11_0000 =
    some (.vfma k0 g0 { vd := 7, va := 1, vb := 2, vc := 3, w := 1, rnd := 3, f := 0 }) := by decide +kernel
theorem test_dec_vld : decodeCore k0 0b0100_00_0_010000_101_1001_000000000011 = some (.vld k0 g0 5 9 3) := by decide +kernel
theorem test_dec_vins : decodeCore k0 0b0100_00_0_010100_101_1001_11111_1_000000 = some (.vins k0 g0 5 9 31 1) := by decide +kernel
theorem test_dec_mlds : decodeCore k0 0b0101_00_0_000_111_010_0001_0011_0010_1111 = some (.mlds k0 g0 7 2 1 3 2 15) := by decide +kernel
theorem test_dec_mma : decodeCore k0 0b0101_00_0_001_111_000_011_100_101_0110_000 = some (.mma k0 g0 7 0 3 4 5 6) := by decide +kernel
theorem test_dec_send : decodeCore k0 0b0110_00_0_000_101_10_011_01_000000000000 = some (.send k0 g0 5 2 3 1) := by decide +kernel
theorem test_dec_recvm : decodeCore k0 0b0110_00_0_011_101_10_1010_0000000000001 = some (.recvm k0 g0 5 2 10 1) := by decide +kernel
theorem test_dec_rack : decodeCore k0 0b0111_00_0_01_1_0_0001_0010_0011_000000000 = some (.rack k0 g0 1 0 1 2 3) := by decide +kernel
theorem test_dec_cmv : decodeCore k0 0b1000_00_0_1_0001_0010_00000011_00000100 = some (.cmv k0 g0 1 1 2 3 4) := by decide +kernel
theorem test_dec_seg : decodeCore k0 0b1001_00_0_0001_00000_1111111111111111 = some (.seg k0 g0 0xFFFF) := by decide +kernel
theorem test_dec_ldcode : decodeCore k0 0b1001_00_0_0011_0010_00000000_000000111 = some (.ldcode k0 g0 2 7) := by decide +kernel
theorem test_dec_rdcnt : decodeCore k0 0b1001_00_0_0110_0010_0000000000000_0101 = some (.rdcnt k0 g0 2 5) := by decide +kernel
theorem test_dec_noClass : decodeCore k0 0b1010_00_0_0000000000000000000000000 = none := by decide +kernel
theorem test_dec_table : decodeTableWord 32 0 = none := by decide

/-! ## Hypotheses that are met: the queue, every step, decoding -/

theorem hyp_StepRunsFrontCommand :
    ({ live with pending := [.nop k0 g0, .opEvaluate] } : State).pending = .nop k0 g0 :: [.opEvaluate] ∧ live.pending = [] := by decide

theorem hyp_FusesNeverRestored : step live = .next (tick live) := rfl

theorem hyp_MemoryStaysCanonical : live.memWf = true ∧ step live = .next (tick live) := ⟨by decide, rfl⟩

theorem hyp_DecodeAndEncodeAgree :
    (Instr.add k0 g0 1 2 3).task = some k0 ∧ decodeCore k0 0b0000_00_0_00000_0001_0010_0011_00000000 = some (.add k0 g0 1 2 3) := by decide +kernel

/-! ## Hypotheses that are met: the core -/

theorem due_live : Due live k0 := ⟨by decide, by decide, by decide, by decide, by decide, by decide +kernel⟩
theorem due_regs : Due regs0 k0 := ⟨by decide, by decide, by decide, by decide, by decide, by decide +kernel⟩

/-- Register forms: an operand of each kind, r15 the last, is usable; the guard passes. -/
theorem hyp_ScalarRegisterResults :
    Due live k0 ∧ Passes live k0 g0 ∧ UsableG live k0 0 ∧ UsableG live k0 14 ∧ UsableG live k0 15 :=
  ⟨due_live, by unfold Passes UsableP; decide, by unfold UsableG; decide, by unfold UsableG; decide, by unfold UsableG; decide⟩

theorem hyp_ScalarImmediateResults : Due live k0 ∧ Passes live k0 { gp := 3, gs := 1 } ∧ UsableG live k0 0 ∧ UsableG live k0 15 :=
  ⟨due_live, by unfold Passes UsableP; decide, by unfold UsableG; decide, by unfold UsableG; decide⟩

/-- Predicate p0 (the write is discarded) and p3. -/
theorem hyp_PredicateResults :
    (0 : BitVec 4).extractLsb' 2 2 = 0 ∧ (3 : BitVec 4).extractLsb' 2 2 = 0 ∧ Due live k0 ∧ Passes live k0 g0 ∧
    UsableG live k0 2 ∧ UsableG live k0 3 ∧ UsableP live k0 0 ∧ UsableP live k0 3 :=
  ⟨by decide, by decide, due_live, by unfold Passes UsableP; decide, by unfold UsableG; decide, by unfold UsableG; decide,
    by unfold UsableP; decide, by unfold UsableP; decide⟩

/-- Task 0 in the last own beat but one of a segment. -/
def inSeg : State := liveK fun t => { t with seg := some (2, 1), g := t.g.set 4 3 }
theorem due_inSeg : Due inSeg k0 := ⟨by decide, by decide, by decide, by decide, by decide +kernel, by decide +kernel⟩

theorem hyp_BranchResults :
    Due live k0 ∧ Passes live k0 g0 ∧ guardAlways g0 = true ∧ UsableG live k0 15 ∧
    Due inSeg k0 ∧ Passes inSeg k0 { gp := 1, gs := 1 } ∧ (taskAt inSeg k0).seg.isSome = true ∧ UsableG inSeg k0 4 :=
  ⟨due_live, by unfold Passes UsableP; decide, by decide, by unfold UsableG; decide, due_inSeg, by unfold Passes UsableP; decide, by decide,
    by unfold UsableG; decide⟩

/-- One loop open already, at the end of its body with one pass to come. -/
def inLoop : State := liveK fun t => { t with loops := [{ first := 0, last := 0, left := 1 }], seg := some (9, 1), g := t.g.set 4 3 }
theorem due_inLoop : Due inLoop k0 := ⟨by decide, by decide, by decide, by decide, by decide +kernel, by decide +kernel⟩

theorem hyp_LoopResults :
    Due inLoop k0 ∧ Passes inLoop k0 g0 ∧ guardAlways g0 = true ∧ (taskAt inLoop k0).loops.length < 2 ∧
    bodyBad (tileAt inLoop c0) (cfgAt inLoop k0) k0 (255 + 1) ((taskAt inLoop k0).pc.toNat + 1) false = false ∧
    (taskAt inLoop k0).seg.isSome = true ∧ UsableG inLoop k0 4 ∧ rdG (taskAt inLoop k0) 0 = 0 ∧ rdG (taskAt inLoop k0) 4 = 3 ∧
    (taskAt inLoop k0).loops = { first := 0, last := 0, left := 1 } :: [] ∧ (0 : BitVec 13) = (taskAt inLoop k0).pc :=
  ⟨due_inLoop, by unfold Passes UsableP; decide, by decide, by decide, by decide +kernel, by decide, by unfold UsableG; decide, by decide, by decide,
    by decide, by decide⟩

/-- g1 is usable only in the next beat, p1 in beat 99. -/
def waiting0 : State := liveK fun t => { t with gReady := t.gReady.set 1 17, pReady := t.pReady.set 1 99 }
theorem due_waiting : Due waiting0 k0 := ⟨by decide, by decide, by decide, by decide, by decide, by decide +kernel⟩

theorem hyp_GuardAndInterlockResults :
    Due live k0 ∧ UsableP live k0 1 ∧ (rdP (taskAt live k0) g1.gp != (g1.gs == 1)) = false ∧ UsableG live k0 1 ∧
    Due waiting0 k0 ∧ ¬ UsableG waiting0 k0 1 ∧ ¬ UsableP waiting0 k0 1 :=
  ⟨due_live, by unfold UsableP; decide, by decide, by unfold UsableG; decide, due_waiting, by unfold UsableG; decide, by unfold UsableP; decide⟩

/-- The last word, half word and byte of a 4 KiB region. -/
theorem hyp_NarrowAccessesIssue :
    Due live k0 ∧ Passes live k0 g0 ∧ UsableG live k0 4 ∧ WideFree live k0 17 ∧
    nAddr live k0 4 4092 % 4 = 0 ∧ nAddr live k0 4 4092 + 4 ≤ 64 * (cfgAt live k0).lbound ∧
    nAddr live k0 4 4094 % 2 = 0 ∧ nAddr live k0 4 4094 + 2 ≤ 64 * (cfgAt live k0).lbound ∧
    nAddr live k0 4 4095 % 1 = 0 ∧ nAddr live k0 4 4095 + 1 ≤ 64 * (cfgAt live k0).lbound :=
  ⟨due_live, by unfold Passes UsableP; decide, by unfold UsableG; decide, by unfold WideFree; decide, by decide, by decide, by decide, by decide, by decide,
    by decide⟩

/-- TOP and RACK of one line at byte 0 and of none; CMV of the last line of each region. -/
theorem hyp_LineOperationsIssue :
    Due regs0 k0 ∧ Passes regs0 k0 g0 ∧ UsableG regs0 k0 4 ∧ (rdG (taskAt regs0 k0) 4).toNat = 64 ∧ (rdG (taskAt regs0 k0) 0).toNat = 0 ∧
    (0 % 64 = 0 ∧ 64 % 64 = 0 ∧ 0 + 64 ≤ regionSize (cfgAt regs0 k0) 0 ∧ 0 + 64 ≤ regionSize (cfgAt regs0 k0) 1) ∧
    (rdG (taskAt regs0 k0) 0).toNat + 64 * 63 + 64 ≤ 64 * (cfgAt regs0 k0).lbound ∧ (rdG (taskAt regs0 k0) 0).toNat + 64 * 63 + 64 ≤ 64 * (cfgAt regs0 k0).cbound ∧
    (WideFree regs0 k0 17 ∧ WideFree regs0 k0 22) ∧ SlotFree regs0 k0 17 ∧ SlotFree regs0 k0 19 :=
  ⟨due_regs, by unfold Passes UsableP; decide, by unfold UsableG; decide, by decide, by decide, by decide, by decide, by decide,
    by unfold WideFree; decide, by unfold SlotFree; decide⟩

/-- R109: a residue error in the vector unit is reported with its point; the result is as computed. -/
theorem test_residue :
    after (execVadd k0 g0 { vd := 1, va := 2, vb := 3, vc := 0, w := 0, rnd := 0, f := 0 } (liveT fun x => { x with residue := [1, 4] }))
      (fun t => ((tileAt t c0).residue, (t.log.recs.map fun r => (r.src, r.sev, r.info)).head?, (taskAt t k0).pc)) =
    some ([1], some (0x06, 3, 4), 1) := by decide +kernel

/-- R126, R415: the record of an uncorrectable word names the LDW that read it, its task 0 and the word's line and place. -/
theorem test_ecc_names_reader :
    ((runAct c0 (byInstr k0 (.ldw k0 g0 1 4 8)) (.load 0 1 72 .w)
      (liveT fun x => { x with ecc := [{ space := .sram, word := 9, bit := none, met := false, stuck := false }] })).log.recs.map
      fun r => (r.src, r.sev, r.okind, r.task, r.opword, r.info)) =
    [(0x03, 1, 1, 0, ((encodeCore (.ldw k0 g0 1 4 8)).getD 0).toNat, 1 + 2 ^ 10)] := by decide +kernel

/-- R105: exp and exp2 overflow to +∞. -/
theorem test_vfunc_overflow : (vfuncLane 0 0x42B17218, vfuncLane 1 0x43000000) = (0x7F800000, 0x7F800000) := by decide +kernel

/-- R105: the exact functions at 1, and log at 2, rounded to FP32 (values of a table of functions). -/
theorem test_exact_functions :
    ([0, 1, 6, 7, 8, 9].map fun f => roundTo fp32 0 0 (.fin false (exactFix f fixOne 1 0).natAbs (-256)), roundTo fp32 0 0
      (.fin false (exactFix 2 (2 * fixOne) 1 1).natAbs (-256))) =
    ([0x402DF854, 0x40000000, 0x3F3B26A8, 0x3F42F7D6, 0x3F57625F, 0x3F3B26A8], 0x3F317218) := by decide +kernel

theorem hyp_VectorArithmeticResults : Due live k0 ∧ Passes live k0 g0 ∧ UsableV live k0 0 ∧ UsableV live k0 7 :=
  ⟨due_live, by unfold Passes UsableP; decide, by unfold UsableV; decide, by unfold UsableV; decide⟩

def vr0 : VR := { vd := 7, va := 0, vb := 1, vc := 2, w := 0, rnd := 3, f := 2 }
def vr1 : VR := { vd := 7, va := 0, vb := 1, vc := 0, w := 1, rnd := 3, f := 14 }

/-- The lane operations and the conversions of 16 elements stand on the same hypotheses. -/
theorem hyp_VectorLaneResults : Due live k0 ∧ Passes live k0 g0 ∧ (∀ v ∈ [vr0.va, vr0.vb, vr0.vc], UsableV live k0 v) ∧ UsableV live k0 vr0.vd :=
  ⟨due_live, by unfold Passes UsableP; decide, by unfold UsableV; decide, by unfold UsableV; decide⟩

theorem hyp_ConversionAndSumResults : UsableV live k0 vr1.va ∧ UsableV live k0 vr1.vd ∧ cvtBad vr1 = false ∧ (9#4).toNat < 10 :=
  ⟨by unfold UsableV; decide, by unfold UsableV; decide, by decide, by decide⟩

/-- Lane 15 of shape W = 0, lane 31 of W = 1, and the last line of the region. -/
theorem hyp_VectorRegisterResults :
    UsableG live k0 15 ∧ UsableV live k0 7 ∧ (15#5).toNat < 16 ∧ (1#1) = 1 ∧
    ((rdG (taskAt live k0) 15).toNat + 64 * 63) % 64 = 0 ∧ (rdG (taskAt live k0) 15).toNat + 64 * 63 + 64 ≤ 64 * (cfgAt live k0).lbound ∧ WideFree live k0 17 :=
  ⟨by unfold UsableG; decide, by unfold UsableV; decide, by decide, by decide, by decide, by decide, by unfold WideFree; decide⟩

/-- A router of period 1, channel 0 sending on a timed, channel 1 on a credited one without credit, channels 2 and 3 receiving, timed and credited with a word queued. -/
def sendCfg : ChanCfg :=
  { en := true, recv := false, cred := false, cret := false, tgt := 0, depth := 0, phase := 0, dslot := 0, dstride := 1, cslot := 0, cstride := 0 }
def word0 : TWord := { data := 5, v := true, ep := false, bad := 0 }
def chans0 : Vector Chan 8 :=
  (((((Vector.replicate 8 Chan.none).set 0 { Chan.none with cfg := sendCfg }).set 1 { Chan.none with cfg := { sendCfg with cred := true, cslot := 1 } }).set 2
    { Chan.none with cfg := { sendCfg with recv := true } }).set 3 { Chan.none with cfg := { sendCfg with recv := true, cred := true }, queue := [word0] }).set 4
    { Chan.none with cfg := { sendCfg with recv := true, cred := true } }
def router0 : Router :=
  { Router.none with phases := Vector.replicate 4 { base := 0, len := 1, next := 0, reps := 0 }, owner := 0, en := true, table := [(0, 0)], startPh := 0 }
def streamS : State := liveT fun x => { x with chans := chans0, router := router0 }
theorem due_stream : Due streamS k0 := ⟨by decide, by decide, by decide, by decide, by decide, by decide +kernel⟩

theorem hyp_StreamAccessesComplete :
    Due streamS k0 ∧ Passes streamS k0 g0 ∧ UsableP streamS k0 0 ∧ UsableP streamS k0 3 ∧ UsableV streamS k0 7 ∧ UsableG streamS k0 0 ∧
    ((tileAt streamS c0).chans[i3 0]).cparity = false ∧ chanFaults streamS k0 0 1 false = [] ∧ chanFaults streamS k0 1 1 false = [] ∧
    chanFaults streamS k0 0 2 false = [] ∧ chanFaults streamS k0 2 1 true = [] ∧ chanFaults streamS k0 3 1 true = [] ∧
    ((rdG (taskAt streamS k0) 0).toNat + 16 * 255) % 16 = 0 ∧ (rdG (taskAt streamS k0) 0).toNat + 16 * 255 + 16 ≤ 64 * (cfgAt streamS k0).lbound ∧
    WideFree streamS k0 17 ∧ WideFree streamS k0 18 :=
  ⟨due_stream, by unfold Passes UsableP; decide, by unfold UsableP; decide, by unfold UsableP; decide, by unfold UsableV; decide, by unfold UsableG; decide,
    by decide, by decide, by decide, by decide, by decide, by decide, by decide, by decide, by unfold WideFree; decide, by unfold WideFree; decide⟩

/-- A timed channel, a credited one with a queued word and one with an empty queue; quarter 3 is the last. -/
theorem hyp_CaptureDelivers :
    3 < 4 ∧ ((tileAt streamS c0).chans[(2 : Fin 8)]).cfg.cred = false ∧
    (((tileAt streamS c0).chans[(3 : Fin 8)]).cfg.cred = true ∧ ((tileAt streamS c0).chans[(3 : Fin 8)]).queue = word0 :: []) ∧
    (((tileAt streamS c0).chans[(4 : Fin 8)]).cfg.cred = true ∧ ((tileAt streamS c0).chans[(4 : Fin 8)]).queue = []) := by decide

theorem hyp_SteeringResults :
    Due live k0 ∧ Passes live k0 g0 ∧ guardAlways g0 = true ∧ (0xFFFF : BitVec 16) ≠ 0 ∧ (taskAt live k0).seg = none ∧
    (Due inSeg k0 ∧ (taskAt inSeg k0).seg = some (2, 1)) ∧
    ((3 : BitVec 4).toNat < (cfgAt live k0).lbCount ∧ lineOf (tileAt live c0) (cfgAt live k0) (taskAt live k0).pc.toNat ≠ some 3 ∧
      (4 * (cfgAt live k0).ibase + 64 * 63) % 64 = 0 ∧ 4 * (cfgAt live k0).ibase + 64 * 63 + 64 ≤ 64 * (cfgAt live k0).lbound ∧ WideFree live k0 17) ∧
    (5 : BitVec 4).toNat < 6 ∧ UsableG live k0 15 :=
  ⟨due_live, by unfold Passes UsableP; decide, by decide, by decide, by decide, ⟨due_inSeg, by decide⟩,
    ⟨by decide, by decide, by decide, by decide, by unfold WideFree; decide⟩, by decide, by unfold UsableG; decide⟩

/-- The last byte, half word and word of the local SRAM; memories in canonical form; a line and its successor. -/
theorem hyp_MemoryActsTakeEffect :
    (tileAt live c0).ecc.filter (touched .sram 32767 1) = [] ∧ (tileAt live c0).ecc.filter (touched .sram 32764 4) = [] ∧
    Memory.wf (tileAt live c0).sram = true ∧ (tileAt live c0).ecc.filter (touched .slab (64 * 1023) 64) = [] ∧
    Memory.wf (memOf (tileAt live c0) .slab) = true ∧ 15 < 16 := by decide

/-- The program's marker is task 0 of tile (0, 0): before and after its first ITER; and a task that is not the marker. -/
def marked : State := { live with progs := (Vector.replicate 8 none).set 0 (some { prog0 with firstM := some 3 }) }
def unmarked : State := { live with progs := (Vector.replicate 8 none).set 0 (some { prog0 with place := { place0 with mkTask := 1 } }) }

theorem hyp_IterCountsAtMarker :
    (Due live k0 ∧ Passes live k0 g0 ∧ prog? live (tileAt live c0).pslot = some prog0 ∧ prog0.place.mkTile = k0.tile ∧ prog0.place.mkTask = k0.task ∧
      prog0.firstM = none) ∧
    (prog? marked (tileAt marked c0).pslot = some { prog0 with firstM := some 3 }) ∧
    prog? unmarked (tileAt unmarked c0).pslot = some { prog0 with place := { place0 with mkTask := 1 } } ∧ (1 : Fin 4) ≠ k0.task :=
  ⟨⟨due_live, by unfold Passes UsableP; decide, by decide, by decide, by decide, by decide⟩, by decide, by decide, by decide⟩

/-- Entries 0 and 7 hold FP8 slices. -/
def staged0 : State := liveT fun x => { x with stage := (x.stage.set 0 { Staged.none with fmt := some 2 }).set 7 { Staged.none with fmt := some 2 } }
theorem due_staged : Due staged0 k0 := ⟨by decide, by decide, by decide, by decide, by decide, by decide +kernel⟩

theorem hyp_MatrixIssues :
    (Due live k0 ∧ Passes live k0 g0 ∧ UsableG live k0 0 ∧ (tileAt live c0).mown = k0.task ∧
      (∀ m ∈ [(0, 0), (1, 9), (2, 2), (3, 7), (4, 8), (5, 12)], m.1 < 6 ∧ m.2 ≠ 15 ∧ loadable m.1 m.2 = true ∧ breaksClass (tileAt live c0) 7 m.2 20 = false) ∧
      ((rdG (taskAt live k0) 0).toNat + 64 * 15) % 64 = 0 ∧ (rdG (taskAt live k0) 0).toNat + 64 * 15 + 64 ≤ 64 * (cfgAt live k0).lbound ∧
      (0 % 32 = 0 ∧ 0 + 32 ≤ 64 * (cfgAt live k0).lbound ∧ WideFree live k0 18) ∧ WideFree live k0 17) ∧
    (Due staged0 k0 ∧ Passes staged0 k0 g0 ∧ (tileAt staged0 c0).mown = k0.task ∧ (mmaClass (tileAt staged0 c0) 0 7).isSome = true ∧
      (tileAt staged0 c0).mmaBusy ≤ staged0.beats.wrb ∧ (tileAt staged0 c0).stageReady[i3 7] ≤ staged0.beats.wrb) :=
  ⟨⟨due_live, by unfold Passes UsableP; decide, by unfold UsableG; decide, by decide, by decide, by decide, by decide,
      ⟨by decide, by decide, by unfold WideFree; decide⟩, by unfold WideFree; decide⟩,
    ⟨due_staged, by unfold Passes UsableP; decide, by decide, by decide, by decide, by decide⟩⟩

/-- MRD of FP32 lanes into v4 to v7, and of BF16 lanes into v6 and v7. -/
theorem hyp_AccumulatorResults :
    Due live k0 ∧ Passes live k0 g0 ∧ (tileAt live c0).mown = k0.task ∧ (tileAt live c0).mmaDone ≤ live.beats.wrb ∧ UsableG live k0 15 ∧
    (4#3).toNat % 4 = 0 ∧ (6#3).toNat % 2 = 0 ∧ UsableV live k0 4 ∧ UsableV live k0 7 :=
  ⟨due_live, by unfold Passes UsableP; decide, by decide, by decide, by unfold UsableG; decide, by decide, by decide, by unfold UsableV; decide,
    by unfold UsableV; decide⟩

/-- Address 1 is misaligned for a half word, 4,096 is beyond the region, and the wide port is taken at issue + 1. -/
def portTaken : State := liveT fun x => { x with wide := [17] }
theorem due_taken : Due portTaken k0 := ⟨by decide, by decide, by decide, by decide, by decide, by decide +kernel⟩

theorem hyp_ProgramFaultResults :
    (Due live k0 ∧ Passes live k0 g0 ∧ UsableG live k0 0 ∧ nAddr live k0 0 1 % 2 ≠ 0) ∧
    (nAddr live k0 0 4096 % 4 = 0 ∧ 64 * (cfgAt live k0).lbound < nAddr live k0 0 4096 + 4) ∧
    (Due portTaken k0 ∧ nAddr portTaken k0 0 0 % 4 = 0 ∧ nAddr portTaken k0 0 0 + 4 ≤ 64 * (cfgAt portTaken k0).lbound ∧ ¬ WideFree portTaken k0 17) ∧
    (isOpen live mgmtCode = true ∧ prog? live (tileAt live c0).pslot = some prog0 ∧ isOpen live (progCode (tileAt live c0).pslot.val) = true) :=
  ⟨⟨due_live, by unfold Passes UsableP; decide, by unfold UsableG; decide, by decide⟩, by decide,
    ⟨due_taken, by decide, by decide, by unfold WideFree; decide⟩, by decide⟩

/-- Line 0 holds an ADD at pc 0; a line of words that are no instruction; no line at all; a pattern whose entries are idle. -/
def coded (w : Line) : State := liveT fun x => { x with code := x.code.set 0 { tag := some 0, words := w } }
def idlePattern : State := liveT fun x => { x with pattern := 0xFFFFFFFFFFFF }
theorem due_coded : Due (coded 0xF0000000) k0 := ⟨by decide, by decide, by decide, by decide, by decide, by decide +kernel⟩

theorem hyp_OwnBeatRunsFetchedInstruction :
    (fetchWord (tileAt (coded 0x0000A300) c0) cfg0 0 = some 0x0000A300 ∧ (decodeCore k0 0x0000A300).isSome = true) ∧
    (Due live k0 ∧ fetchWord (tileAt live c0) (cfgAt live k0) (taskAt live k0).pc.toNat = none) ∧
    (Due (coded 0xF0000000) k0 ∧ fetchWord (tileAt (coded 0xF0000000) c0) cfg0 0 = some 0xF0000000 ∧ decodeCore k0 0xF0000000 = none) ∧
    4 ≤ ((tileAt idlePattern c0).pattern.extractLsb' (3 * (beatAt idlePattern c0 % 16)) 3).toNat :=
  ⟨by decide +kernel, ⟨due_live, by decide +kernel⟩, ⟨due_coded, by decide +kernel, by decide +kernel⟩, by decide +kernel⟩

/-- Every hold beat of h = 56 but a few: CBN 16 is one. -/
def holding : State := { live with pwr := { live.pwr with cmds := [{ at_ := 0, h := 56 }] } }
theorem hyp_HoldBeatsStopTheCores : holdNow holding = true ∧ anyRuns holding = true ∧ (Instr.nop k0 g0).task = some k0 := by decide

/-! ## Hypotheses that are met: power, heat and routers -/

def livePwr (f : Pwr → Pwr) : State := { live with pwr := f live.pwr }
def chg (st : ChStep) : OpChange := { target := 2, step := st, stopAt := 16, at_ := 0 }
def liveChg (st : ChStep) : State := livePwr fun w => { w with change := some (chg st) }

/-- A slower and a faster point than the one in force, the steps of a change, and the two counts of the thermal cap at their last instant. -/
theorem hyp_OperatingPointResults :
    (let s := livePwr fun w => { w with eff := 6 }
     s.pwr.flow = none ∧ anyRuns s = true ∧ isOpen s mgmtCode = true ∧ s.pwr.change = none ∧ s.pwr.eff < effRule s) ∧
    (let s := livePwr fun w => { w with ceil := 6, landedAt := ms 2999 }
     anyRuns s = true ∧ effRule s < s.pwr.eff ∧ s.pwr.landedAt + ms 1 ≤ s.time) ∧
    effRule live = live.pwr.eff ∧
    (liveChg .ramp).pwr.change = some (chg .ramp) ∧
    ((liveChg .announced).pwr.change = some (chg .announced) ∧ (chg .announced).stopAt ≤ (liveChg .announced).beats.cbn) ∧
    (liveChg .stopped).pwr.change = some (chg .stopped) ∧ (liveChg .landed).pwr.change = some (chg .landed) ∧
    isOpen live hostifCode = true ∧
    (let s := livePwr fun w => { w with hotAt := some (ms 2999), coolAt := some (ms 2990) }
     s.pwr.paused = false ∧ ms 2999 + ms 1 ≤ s.time ∧ ms 2990 + ms 10 ≤ s.time) ∧
    (let s := { liveChg .announced with parcels := Vector.replicate 12 Parcel.reset }
     s.pwr.change = some (chg .announced) ∧ anyRuns s = false) := by decide +kernel

theorem hyp_HoldCommandResults :
    isOpen live mgmtCode = true ∧ ((0 : Fin 12) ∉ live.pwr.fast ∧ (live.parcels[(0 : Fin 12)]).logicOn = true) ∧
    (let s := livePwr fun w => { w with fast := [11], fastLow := [(11, ms 3000 - us 1)] }
     (11 : Fin 12) ∈ s.pwr.fast ∧ (11, ms 3000 - us 1) ∈ s.pwr.fastLow ∧ ms 3000 - us 1 + us 1 ≤ s.time) ∧
    (true || false) = true ∧
    (let s := livePwr fun w => { w with cmds := [{ at_ := 80, h := 56 }] }
     onNow s 0 = true ∧ { at_ := 80, h := 56 } ∈ s.pwr.cmds ∧ (s.parcels[(0 : Fin 12)]).stopAt = none ∧ (0 : Fin 8) ∈ progsIn s 0 ∧
       isOpen s (progCode 0) = true) := by decide +kernel

theorem hyp_AlertAndLossResults :
    (live.pwr.iso.getLsbD 47 = false ∧ live.pwr.asserted.getLsbD 47 = false) ∧
    (livePwr fun w => { w with asserted := 1 }).pwr.asserted.getLsbD 0 = true ∧
    (let s := livePwr fun w => { w with forced := true, clearAt := ms 2999 }
     s.pwr.forced = true ∧ s.pwr.asserted = 0 ∧ s.pwr.clearAt + ms 1 ≤ s.time) ∧
    (let s := livePwr fun w => { w with dies := [11], dieLow := [(11, ms 2999)] }
     (11 : Fin 12) ∈ s.pwr.dies ∧ (11, ms 2999) ∈ s.pwr.dieLow ∧ ms 2999 + ms 1 ≤ s.time) ∧
    (let s := livePwr fun w => { w with asserted := 0xFFFFFFFFFFFF }
     (∀ g : Fin 48, s.pwr.asserted.getLsbD g = true ∧ s.pwr.iso.getLsbD g = false) ∧
     (23 : Fin 48).val = 2 * (11 : Fin 12).val + 1 ∧ (35 : Fin 48).val = 24 + (11 : Fin 12).val ∧ (39 : Fin 48).val = 36 + 3 ∧ isOpen s (hubCode 3) = true ∧
     (47 : Fin 48).val = 40 + 4 * 1 + 3 ∧ (portOf s 0).st = .disabled) ∧
    onNow live 0 = true ∧ live.pwr.bref = true ∧ ((prog? live 0).isSome = true ∧ isOpen live (progCode 0) = true) := by decide +kernel

/-- A frame in which field sensor 0, of parcel 0, reads 115 °C and no other has a reading. -/
def hotFrame : SensorFrame := { field := [460], hub := [], phy := [] }
def liveP0 (f : Parcel → Parcel) : State := { live with parcels := live.parcels.set 0 (f live.parcels[(0 : Fin 12)]) }
def flow0 : FlowHold := { cbn := 8, wasOn := [0], evac := [], wentHi := none, progs := [0] }
/-- Every parcel retained, program 0 held. -/
def stoppedFlow : State :=
  { live with
    pwr := { live.pwr with flowEn := true, flow := some flow0 }, parcels := live.parcels.map (fun p => { p with st := .retained }),
    doms := (progCode 0, { Dom.off with st := .closed, held := true, cause := 7 }) :: live.doms }
/-- Tile (0, 8), of no program and no headland. -/
def c8 : TileAt := { row := 0, col := 8 }

theorem hyp_HeatAndFlowResults_sensors :
    (decide (460 ≤ parcelHot (poweredFrame live hotFrame) 0) && decide (parcelHot (poweredFrame live hotFrame) 0 ≠ 0x8000) &&
      (live.parcels[(0 : Fin 12)]).st != .off) = true := by decide +kernel

theorem hyp_HeatAndFlowResults_hottest :
    (hottest (livePwr fun w => { w with sens := poweredFrame live hotFrame })).isSome = true ∧ hottest live = none := by decide +kernel

theorem hyp_HeatAndFlowResults :
    (let s := liveP0 fun p => { p with hot105 := [(0, ms 2990)] }
     s.pwr.flow = none ∧ isOpen s mgmtCode = true ∧ (s.parcels[(0 : Fin 12)]).st = .on ∧ (0, ms 2990) ∈ (s.parcels[(0 : Fin 12)]).hot105 ∧ ms 2990 + ms 10 ≤ s.time) ∧
    (let s := { live with parcels := live.parcels.set 11 { live.parcels[(11 : Fin 12)] with st := .evacuating } }
     (s.parcels[(11 : Fin 12)]).st = .evacuating ∧ (s.parcels[(11 : Fin 12)]).parting = false ∧ evacPending s 11 = false ∧ s.pwr.flow = none ∧
       cxlBusy s (slabIn 11) = false ∧ s.snet.change = none) ∧
    (let s : State :=
       { live with
         parcels := live.parcels.set 11 { live.parcels[(11 : Fin 12)] with st := .evacuating, parting := true },
         snet := { live.snet with change := some { mask := 0x800, step := 3, at_ := ms 2999 } } }
     drained s = true ∧ (s.parcels[(11 : Fin 12)]).parting = true ∧ (0x800#16).getLsbD (11 : Fin 12).val = true) ∧
    (ownersOf (tileAt live c8) = [] ∧ physCol live c8.row.val c8.col.val = some 8 ∧ (find? live.pwr.rating (ratingKey 0 8)).getD 0 < 7) ∧
    (let s := livePwr fun w => { w with lowMargin := [c0] }
     (tileAt s c0).placed = true ∧ c0 ∈ s.pwr.lowMargin ∧ onNow s (parcelOf c0) = true ∧ (s.parcels[parcelOf c0]).trim < 4) ∧
    (let s := livePwr fun w => { w with flowEn := true }
     s.pwr.flowEn = true ∧ s.pwr.flow = none ∧ s.pwr.change = none ∧ onNow s 0 = true ∧ isOpen s (progCode 0) = true) ∧
    isOpen live hostifCode = true ∧
    (stoppedFlow.pwr.flow = some flow0 ∧ stoppedFlow.pwr.flowEn = true ∧ (stoppedFlow.parcels[(0 : Fin 12)]).st = .retained ∧ (0 : Fin 12) ∉ flow0.evac ∧
      (dom stoppedFlow (progCode 0)).held = true) := by decide +kernel

/-- The entry of router0 is invalid (all bits 0), or valid with every output idle; or fails its parity; the tile has a southern neighbour. -/
def routed (d : DWord) (bad : List Nat) : State := liveT fun x => { x with router := { router0 with table := [(0, d)], badEnt := bad } }
theorem test_exitLinks : ((List.range 4).map fun h => (exitLinks h).length) = [80, 80, 80, 80] ∧
    ((List.range 4).map fun h => (exitLinks h).countP fun e => e.2 == innerPort h) = [64, 64, 64, 64] := by decide +kernel

theorem hyp_RouterBeatResults_exit :
    headlandOf (tileOfNo (headCore 0 7)) = some 0 ∧ neighbour (tileOfNo (headCore 0 7)) 1 = some (tileOfNo (headCore 0 7 + 1)) ∧
    headlandOf (tileOfNo (headCore 0 7 + 1)) ≠ some 0 := by decide

theorem hyp_RouterBeatResults :
    routerRuns (routed 0 []) c0 = true ∧ entryValid 0 = true ∧ (routed 0 []).tiles.length = 1 ∧
    (routerRuns (routed 0 [0]) c0 = true ∧ (tileAt (routed 0 [0]) c0).router.badEnt.contains 0 = true) ∧
    (∃ d : DWord, entryValid d.toNat = false) ∧
    (neighbour c0 1 = some c1 ∧ inGap live c1 = false ∧ netOn live (parcelOf c1).val = true) ∧ (tileAt (routed 0 []) c0).router.owner ≠ 8 := by
  refine ⟨by decide +kernel, by decide +kernel, by decide, by decide +kernel, ⟨0xFFFFFFFFFFFFFFFF, by decide +kernel⟩, by decide +kernel, by decide⟩

/-! ## Hypotheses that are met: cellars, window and service net -/

/-- A WRITE of 8 bytes to byte 16 of tile (0, 0) from HUB-W's ring engine for program slot 0, and a READ of 64 bytes of its slab. -/
def wr8 : Packet :=
  { opc := 2, cls := 0, vcr := 0, epoch := 0, first := true, last := true, space := 0, dst := coreEp c0, src := ringUnit, tag := 5, pslot := 0, psv := true,
    plen := 1, countOff := 1, addr := 2, payload := [1, 2, 3, 4, 5, 6, 7, 8], headBad := false, bodyBad := false }
def rd64 : Packet := { wr8 with opc := 1, space := 1, countOff := 8, addr := 8184, plen := 0, payload := [] }
def msgTo4 : Packet := { wr8 with opc := 3, dst := hubEp 0 4 }
def msgRd : InMsg :=
  { dst := coreEp c0, src := ringUnit, tag := 5, opc := 1, total := some 8, got := 0, offs := [], parts := [], refuse := none, epoch := 0, last := 0 }
def rdPart : Packet := { rd64 with countOff := 1, payload := [0, 0, 0, 0, 0, 0, 0, 0] }

def queuedWrite : State := liveT fun x => { x with narrow := [{ space := .sram, addr := 16, wdata := some wr8.payload, pkt := wr8 }] }
def queuedRead : State :=
  let s := liveT fun x => { x with narrow := [{ space := .slab, addr := 64, wdata := none, pkt := rdPart }] }
  { s with snet := { s.snet with msgs := [msgRd] } }

theorem hyp_CellarResults_access :
    (narrowFree queuedWrite c0 .sram = true ∧ inRow (tileAt queuedWrite c0) .sram < 3 ∧ (popNarrow .sram (tileAt queuedWrite c0).narrow).isSome = true ∧
      keptOut queuedWrite c0 wr8 = false) ∧
    (narrowFree queuedRead c0 .slab = true ∧ (popNarrow .slab (tileAt queuedRead c0).narrow).isSome = true ∧ msgOf queuedRead rdPart = some msgRd ∧
      msgRd.total = some rdPart.payload.length ∧ eccBad (tileAt queuedRead c0) .slab 64 8 = false) := by decide +kernel

/-- A corrected word waits; a row repair with three done; a tile to retire; a reserved area with one copy lost. -/
def mark0 : EccMark := { space := .sram, word := 3, bit := some 5, met := true, stuck := false }
def marked0 : State := liveT fun x => { x with ecc := [mark0] }
def freeTile (f : Tile → Tile) : State := { live with tiles := [(8, f Tile.free)] }
def area0 : Reserved := { area := .log, copies := [([c8], true), ([{ row := 300, col := 300 }], false)] }
def newSlab : TileAt := { row := 300, col := 9 }

theorem hyp_CellarResults_upkeep :
    (minorTurn marked0 c0 .sram = true ∧ (tileAt marked0 c0).ecc.find? (fun e => e.space == .sram && e.met && e.bit.isSome) = some mark0) ∧
    (minorTurn live c0 .slab = true ∧ ((tileAt live c0).ecc.any fun e => e.space == .slab && e.met && e.bit.isSome) = false) ∧
    (let s := freeTile fun x => { x with toRepair := [511], repairs := [(1, 0), (2, 1), (3, 2)] }
     (511 : Fin 512).val ∈ (tileAt s c8).toRepair ∧ ownersOf (tileAt s c8) = [] ∧ inStage s c8 = false ∧ inReserved s c8 = false ∧ isOpen s mgmtCode = true ∧ (tileAt s c8).repairs.length < 4) ∧
    (let s := freeTile fun x => { x with retire := true }
     (tileAt s c8).retire = true ∧ ownersOf (tileAt s c8) = [] ∧ inStage s c8 = false ∧ inReserved s c8 = false ∧ isOpen s mgmtCode = true ∧
       physCol s 0 8 = some 8) ∧
    (let s : State := { live with reserved := [area0] }
     s.reserved.find? (fun r => r.area == .log && r.copies.any (·.2) && r.copies.any (fun c => !c.2)) = some area0 ∧
     area0.copies.find? (·.2) = some ([c8], true) ∧ area0.copies.find? (fun c => !c.2) = some ([{ row := 300, col := 300 }], false) ∧ [newSlab].length = 1 ∧
     [newSlab].Nodup ∧ slabFree s newSlab = true ∧ parcelOf newSlab ∉ [c8].map parcelOf ∧ eccBad (tileAt s c8) .slab 0 65536 = false) := by decide +kernel

/-! The staging window: one granule of rows 8 to 11 fewer than asked for, one more, lines in it and above it. -/

def cxlS (f : Machine.Stage → Machine.Stage) : State :=
  { live with stage := f live.stage, hostif := { live.hostif with cxl := true, hdm := true, width := 2, speed := 2 }, tiles := [] }
def granule0 : List TileAt := (List.range 4096).map fun i => tileOfNo (8192 + i)
def asking : State := cxlS fun s => { s with req := 64, busy := true }

theorem granule0_distinct : granule0.Nodup := by
  refine List.pairwise_map.2 (List.Pairwise.imp_of_mem (fun {a b} ha hb hab h => hab ?_) List.nodup_range)
  have ha := List.mem_range.1 ha
  have hb := List.mem_range.1 hb
  have h := congrArg tileNo h
  simp only [tileNo, tileOfNo] at h
  omega

theorem slabFree_asking (t : TileAt) (h : headlandOf t = none) : slabFree asking t = true := by
  have h1 : ownersOf (tileAt asking t) = [] := by show ownersOf Tile.free = []; decide
  have h2 : ∃ c, physCol asking t.row.val t.col.val = some c := ⟨_, rfl⟩
  have h3 : (asking.parcels[parcelOf t]).st = .on := by simp [asking, cxlS, live]
  obtain ⟨c, h2⟩ := h2
  have h4 : unreach asking (epochBit asking) (parcelOf t).val = false := by simp [unreach, epochBit, asking, cxlS, live, State.reset, Snet.reset]
  simp only [slabFree, tileSound, h, h1, h2, h3, h4]
  rfl

theorem headlandOf_between (t : TileAt) (h1 : 8 ≤ t.row.val) (h2 : t.row.val < 352) : headlandOf t = none := by
  simp only [headlandOf]
  rw [if_neg (by omega), if_neg (by omega), if_neg (by omega), if_neg (by omega)]

theorem granule0_free : granule0.all (slabFree asking) = true := by
  refine List.all_eq_true.2 fun t ht => slabFree_asking t ?_
  obtain ⟨i, hi, rfl⟩ := List.mem_map.1 ht
  have hi := List.mem_range.1 hi
  have h : (tileOfNo (8192 + i)).row.val = (8192 + i) / 1024 % 768 := rfl
  exact headlandOf_between _ (by omega) (by omega)

/-- With no request under way and no tag at rest a unit has every tag free. -/
theorem freeTags_of (s : State) (h1 : s.snet.reqs = []) (h2 : s.snet.dead = []) (u : BitVec 24) (n : Nat) (h : n ≤ 4096) : FreeTags s u n := by
  simp [FreeTags, h1, h2, h]

theorem hyp_StagingWindowResults_tags : FreeTags (cxlS fun s => { s with req := 1, granules := [[c8]] }) (hubEp 0 4) 1 := freeTags_of _ rfl rfl _ _ (by decide)

theorem hyp_StagingWindowResults_grant :
    asking.stage.busy = true ∧ asking.stage.granules.length < stageGoal asking ∧ isOpen asking mgmtCode = true ∧ granule0 ≠ [] ∧ granuleBad asking granule0 = false := by
  refine ⟨by decide, by decide, by decide, by simp [granule0], ?_⟩
  simp only [granuleBad, granule0_free, granule0_distinct]
  simp [granule0]

theorem hyp_StagingWindowResults :
    (stageOn asking = true ∧ isOpen asking hostifCode = true) ∧
    (let s := cxlS fun s => { s with req := 0, busy := true, granules := [[], [c8]] }
     s.stage.granules = [[]] ++ [[c8]] ∧ s.stage.busy = true ∧ stageGoal s < s.stage.granules.length) ∧
    (cxlOpen asking = true ∧ stagePlace asking 0 = none) ∧
    (let s := cxlS fun s => { s with req := 1, granules := [[c8]] }
     stagePlace s 64 = some (c8, 64) ∧ slabReach s c8 = true ∧ mustHold s (hubEp 0 4) = false ∧ (s.snet.waiting.any fun q => q.1.unit == hubEp 0 4) = false ∧
       unreach s (epochBit s) (epRegion (coreEp c8)) = false) ∧
    (let s := cxlS fun s => { s with req := 1, granules := [[c8]], lost := [c8] }
     stagePlace s 64 = some (c8, 64) ∧ slabReach s c8 = false) := by decide +kernel

def netReq (opc : BitVec 6) (why : NetWhy) : NetReq :=
  { unit := ringUnit, tag := 5, opc := opc, epoch := false, at_ := ms 2999, total := none, got := 0, parts := [], bad := none, why := why, base := 0, skip := 0, keep := 8 }
def ref0 : DescRef := { sq := 0, seq := 0, era := 0 }
/-- The 64 bytes of a descriptor with these fields: offset, bytes, value. -/
def fields (l : List (Nat × Nat × Nat)) : List Byte :=
  (List.range 64).map fun i => match l.find? fun e => decide (e.1 ≤ i ∧ i < e.1 + e.2.1) with
    | some e => BitVec.ofNat 8 (e.2.2 / 256 ^ (i - e.1))
    | none => 0
/-- A descriptor of these fields, not started. -/
def desc (l : List (Nat × Nat × Nat)) : Desc :=
  { ref := ref0, cq := 0, bytes := fields l, started := false, moved := 0, wrote := 0, stale := false, took := false, old := false,
    sent := 0, dropped := false, last := none, due := none, fault := none, outc := none }
def liveD (l : List (Nat × Nat × Nat)) : State := { live with hostif := { live.hostif with descs := [desc l] } }
def liveReq (r : NetReq) : State := { liveD [(0, 1, 0x18)] with snet := { live.snet with reqs := [r] } }
def resp (opc : BitVec 6) : Packet := { wr8 with opc := opc, vcr := 1, dst := ringUnit, src := coreEp c0 }

theorem hyp_ServiceNetPacketResults_requests :
    (∀ p ∈ [wr8, rd64, msgTo4], p.headBad = false ∧ p.bodyBad = false ∧ overtaken live p = false ∧ (epOk p.dst = true → routerUp live p.dst = true) ∧
      (inFlight live p && unreach live p.epoch (epRegion p.dst)) = false ∧ p.vcr = 0) ∧
    (live.snet.wires.late = [] ∧ ∀ p ∈ [wr8, rd64, msgTo4], wayOf live p = none) ∧
    (let s : State := { live with snet := { live.snet with flight := [wr8], wires := { live.snet.wires with late := [rd64] } } }
     wayOf s wr8 = some wr8 ∧ wr8.headBad = false ∧ wr8.bodyBad = false ∧ asSent rd64 ≠ asSent wr8) ∧
    (rd64.vcr = 0 ∧ refusal live rd64 64 = none ∧ epKind rd64.dst = 0 ∧ rd64.space ≠ 2 ∧ rd64.countOff ≠ 0) ∧
    refusal live { rd64 with addr := 8185 } 64 = some 0x0F ∧
    (wr8.payload ≠ [] ∧ wr8.payload.length ≤ 1024 ∧ wr8.payload.length % 8 = 0 ∧ live.snet.blocked = [] ∧ refusal live wr8 8 = none ∧ badPart ((msgOf live wr8).getD (newMsg live wr8)) wr8 = false ∧
      writesAt live wr8.dst < 4) ∧
    (msgRefusal live msgTo4 = none ∧ badPart ((msgOf live msgTo4).getD (newMsg live msgTo4)) msgTo4 = false ∧
      (withPart (newMsg live msgTo4) msgTo4 live.time).total = some (withPart (newMsg live msgTo4) msgTo4 live.time).got ∧
      (let p := { msgTo4 with countOff := 2 }
       (withPart (newMsg live p) p live.time).total ≠ some (withPart (newMsg live p) p live.time).got)) := by decide +kernel

theorem hyp_ServiceNetPacketResults_responses :
    (let r := netReq 1 (.desc ref0)
     let p := resp 0x21
     unitOpen (liveReq r) p.dst = true ∧ (liveReq r).snet.waiting = [] ∧ reqOf (liveReq r) p 1 = some r ∧ (descOf (liveReq r) ref0).isSome = true ∧
       8 * p.countOff.toNat = p.payload.length ∧ isOpen (liveReq r) hostifCode = true ∧ (p.payload.drop r.skip).take r.keep ≠ [] ∧
       (p.vcr = 1 ∧ overtaken (liveReq r) p = false ∧ routerUp (liveReq r) p.dst = true ∧ (liveReq r).colls = [] ∧ (desc [(0, 1, 0x18)]).old = false ∧
         p.first = true ∧ r.parts = [] ∧ r.got = 0)) ∧
    (let r := netReq 1 (.cxlRead 64)
     reqOf (liveReq r) { resp 0x21 with addr := 0 } 1 = some r ∧ r.bad = none ∧ ({ resp 0x21 with addr := 0 } : Packet).addr.toNat % 256 = 0) ∧
    (let r := netReq 2 (.cxlWrite 64)
     reqOf (liveReq r) (resp 0x22) 2 = some r ∧ (resp 0x22).addr.toNat % 256 ≠ 0x0B) ∧
    (let r := netReq 3 .other
     reqOf (liveReq r) (resp 0x23) 3 = some r) := by decide +kernel

theorem hyp_ServiceNetTimeResults :
    (let r := netReq 1 (.desc ref0)
     let s := liveReq r
     s.snet.reqs.find? (fun r => r.unit == ringUnit && r.tag == 5 && decide (r.at_ + ms 1 ≤ s.time) && !feeding s r) = some r ∧ (descOf s ref0).isSome = true ∧ s.snet.reqs = [r] ∧
       s.snet.waiting = [] ∧ s.hostif.reads = [] ∧ s.colls = [] ∧ (desc [(0, 1, 0x18)]).outc = none ∧
       (desc [(0, 1, 0x18)]).dropped = false ∧ opcOf (desc [(0, 1, 0x18)]) ≠ 0x31) ∧
    (let m := { msgRd with opc := 2, last := ms 2998 }
     let s : State := { live with snet := { live.snet with msgs := [m] } }
     m ∈ s.snet.msgs ∧ m.opc ≠ 1 ∧ m.total ≠ some m.got ∧ m.last + ms 2 ≤ s.time ∧ s.snet.blocked = []) ∧
    (let n := live.snet
     let sums (k : Nat) : List Nat := (gatewaySums live 0).zipIdx.map fun e => e.1 + ([k][e.2]?).getD 0
     n.wins[(0 : Fin 4)].1 + n.wins[(0 : Fin 4)].2 ≤ netNow live ∧ netNow State.reset < State.reset.snet.wins[(0 : Fin 4)].1 + State.reset.snet.wins[(0 : Fin 4)].2 ∧
       n.act[(0 : Fin 4)].2.2 = true ∧ (∃ x ∈ sums 41, n.act[(0 : Fin 4)].1 < x) ∧ (∀ x ∈ sums 20, x ≤ n.act[(0 : Fin 4)].1 / 2) ∧
       ((∀ x ∈ sums 40, x ≤ n.act[(0 : Fin 4)].1) ∧ ∃ x ∈ sums 40, n.act[(0 : Fin 4)].1 / 2 < x)) ∧
    (let s : State := { live with snet := { live.snet with act := Vector.replicate 4 (40, 4, false) } }
     s.snet.act[(3 : Fin 4)].2.2 = false) ∧
    isOpen live hostifCode = true ∧
    (let s : State := { live with snet := { live.snet with epoch := true, change := some { mask := 1, step := 2, at_ := ms 2998 }, queued := [2] } }
     drained s = true ∧ s.snet.queued = 2 :: []) ∧
    (let s : State := { live with snet := { live.snet with epoch := true, change := some { mask := 1, step := 2, at_ := ms 2998 }, inject := Vector.replicate 2 1 } }
     drained s = false ∧ ms 2998 + ms 2 ≤ s.time ∧ s.snet.queued = []) := by decide +kernel

/-! ## Hypotheses that are met: rings, registers and the descriptors of programs and data -/

def liveH (f : Hostif → Hostif) : State := { live with hostif := f live.hostif }
/-- SQ 0 enabled on CQ 0 with two entries published of which one is fetched; CQ 0 with two records of which one is read. -/
def ringS : State :=
  liveH fun h => { h with sqs := h.sqs.set 0 { Sq.reset with en := true, tail := 2, head := 1 }, cqs := h.cqs.set 0 { Cq.reset with en := true, widx := 2, head := 1 } }

theorem hyp_RingSetupResults_doorbells :
    isOpen ringS hostifCode = true ∧
    ((sqOf ringS 63).en = false ∧ 2 ^ (sqOf ringS 0).log2 ≤ 64) ∧
    ((sqOf ringS 0).en = true ∧ 63 < 2 ^ (sqOf ringS 0).log2 ∧ 2 = (sqOf ringS 0).tail) ∧
    (3 ≠ (sqOf ringS 0).tail ∧ sqReady (sqOf ringS 0) ≤ (3 + 64 - (sqOf ringS 0).head) % 64) ∧
    (1 ≠ (sqOf ringS 0).tail ∧ (1 + 64 - (sqOf ringS 0).head) % 64 < sqReady (sqOf ringS 0)) ∧
    ((cqOf ringS 63).en = false ∧ 2 ^ (cqOf ringS 0).log2 ≤ 64) ∧
    ((cqOf ringS 0).en = true ∧ 3 ≠ (cqOf ringS 0).head ∧ cqUsed (cqOf ringS 0) < (3 + 64 - (cqOf ringS 0).head) % 64) ∧
    (2 ≠ (cqOf ringS 0).head ∧ (2 + 64 - (cqOf ringS 0).head) % 64 ≤ cqUsed (cqOf ringS 0)) := by decide +kernel

/-- LOG2 6 and 16; an SQ bound to an enabled and to a disabled CQ; a CQ with and without an enabled SQ. -/
theorem hyp_RingSetupResults_enables :
    (6 ≤ (0x10006#32).toNat % 32 ∧ (0x10010#32).toNat % 32 ≤ 16) ∧
    ((sqOf ringS 1).en = false ∧ (cqOf ringS (fin64 ((0x10006#32).toNat / 256))).en = true ∧ (cqOf ringS (fin64 ((0x10106#32).toNat / 256))).en = false) ∧
    (sqOf ringS 0).en = true ∧ ((cqOf ringS 1).en = false ∧ ringS.hostif.held = []) ∧
    ((cqOf ringS 0).en = true ∧ ∃ i : Fin 64, (sqOf ringS i).en = true ∧ (sqOf ringS i).cq = 0) ∧
    (let s := liveH fun h => { h with cqs := h.cqs.set 63 { Cq.reset with en := true } }
     (cqOf s 63).en = true ∧ ∀ i : Fin 64, (sqOf s i).en = true → (sqOf s i).cq ≠ 63) := by decide +kernel

theorem hyp_HostRegisterResults :
    isOpen live hostifCode = true ∧ (1#32).getLsbD 0 = true ∧ live.hostif.descs.find? (heldDue live) = none ∧
    (let s := liveH fun h => { h with pba := 1, msix := Vector.replicate 64 { addr := 0, data := 0, mask := false } }
     s.hostif.fmask = false ∧ s.hostif.pba.getLsbD 0 = true ∧ ((s.hostif.msix)[(0 : Fin 64)]).mask = false) ∧
    (isOpen live mgmtCode = true ∧ ∀ n : Fin 24, (portOf live n).st = .disabled) ∧
    (let s : State := { live with edge := { live.edge with ports := live.edge.ports.set 23 { Port.reset with st := .failed } } }
     (portOf s 23).st ≠ .disabled) ∧
    (let s : State := { live with sec := { live.sec with tmux := true } }
     s.sec.tmux = true) ∧
    live.sec.tmux = false ∧ (sqOf live 63).en = false ∧
    (let s : State := { live with doms := (mgmtCode, { Dom.off with st := .closed }) :: live.doms }
     isOpen s hostifCode = true ∧ isOpen s mgmtCode = false) := by decide +kernel

/-- A descriptor may start. -/
theorem starts_of (s : State) (o : Nat) (l : List (Nat × Nat × Nat))
    (h : (descOf s ref0 == some (desc l) && canStart s o (desc l) && !((sqOf s 0).wait && sameEra s ref0)) = true) : Starts s o ref0 (desc l) := by
  simp only [Bool.and_eq_true, beq_iff_eq, Bool.not_eq_true'] at h
  exact ⟨h.1.1, h.1.2, h.2, rfl, rfl⟩

theorem starts_nop : Starts (liveD []) 0 ref0 (desc []) := starts_of _ _ _ (by decide +kernel)
theorem starts_fence : Starts (liveD [(0, 1, 1)]) 1 ref0 (desc [(0, 1, 1)]) := starts_of _ _ _ (by decide +kernel)

/-- The same with SQ 0 waiting for FENCE_ACK. -/
def fenced (l : List (Nat × Nat × Nat)) : State :=
  liveH fun h => { h with descs := [desc l], sqs := h.sqs.set 0 { Sq.reset with en := true, wait := true } }
/-- A decided descriptor whose record may be written to CQ 0. -/
def decided : State :=
  liveH fun h => { h with descs := [{ desc [] with started := true, outc := some { status := 0, detail := 0, time := 0 } }], cqs := h.cqs.set 0 { Cq.reset with en := true } }

/-- An uncorrectable word of HUB-W's SRAM. -/
def sramMark (u : HubUse) : HubMark := { hub := 0, unit := 1, use := u, word := 5, unc := true }
/-- R421: a unit's lost state resets the hub, the Vintner's resets MGMT, a corrected word gives a CORRECTED record; R425: a residue mismatch of the press
takes it out of service under RETIRE. -/
theorem test_hub_errors :
    (let s (m : HubMark) := meetMarks 0 [m.use] id id { live with marks := [m] }
     (dom (s (sramMark .unit)) 0x300).st = .closing ∧ (dom (s (sramMark .unit)) 0x300).cause = 4 ∧ (dom (s (sramMark .vintner)) 0x100).st = .closing ∧
     ((s { sramMark .payload with unc := false }).log.recs.map fun r => (r.src, r.sev, r.info)) = [(0x0F, 0, 5)] ∧
     (s (sramMark .datapath)).adders = 0xE ∧ (s (sramMark .unit)).marks = []) := by decide +kernel

theorem hyp_DescriptorLifeResults :
    (eligible ringS 0 = true ∧ (sqOf ringS 0).credit ≠ 0 ∧ ringS.hostif.descs = [] ∧ (fields []).length = 64 ∧ ringS.marks = []) ∧
    (let s := { ringS with marks := [sramMark .payload] }
     s.marks = [sramMark .payload] ∧ (sramMark .payload).hub = 0 ∧ (sramMark .payload).unc = true ∧ eligible s 0 = true ∧ (sqOf s 0).credit ≠ 0) ∧
    (opcListed (opcOf (desc [])) = true ∧ opcListed (opcOf (desc [(0, 1, 0xFF)])) = false ∧ ringS.boot.ready = true) ∧
    sameEra (liveD [(0, 1, 1)]) ref0 = true ∧
    (descOf (fenced [(0, 1, 1)]) ref0 = some (desc [(0, 1, 1)]) ∧ canStart (fenced [(0, 1, 1)]) 1 (desc [(0, 1, 1)]) = true ∧
      sameEra (fenced [(0, 1, 1)]) ref0 = true ∧ (sqOf (fenced [(0, 1, 1)]) 0).wait = true) ∧
    (descOf (fenced []) ref0 = some (desc []) ∧ canStart (fenced []) 0 (desc []) = true ∧ sameEra (fenced []) ref0 = true ∧ (sqOf (fenced []) 0).wait = true ∧
      ∀ y ∈ earlier (fenced []) ref0, opcOf y ≠ 1) ∧
    ((decided.hostif.descs.find? fun x => x.ref.sq == 0).isSome = true ∧ (∀ x ∈ decided.hostif.descs, x.outc.isSome = true ∧ x.old = false ∧ x.last = none ∧ mayWrite decided x = true) ∧
      (let s := liveH fun h => { h with descs := decided.hostif.descs.map fun x => { x with last := some 64 }, cqs := decided.hostif.cqs }
       ∀ x ∈ s.hostif.descs, x.last = some 64 ∧ x.old = false ∧ mayWrite s x = true ∧ s.hostif.reads = []) ∧
      decided.hostif.descs.find? (heldDue decided) = none ∧ decided.hostif.spoilt = [] ∧ decided.hostif.owed = [] ∧ (sqOf decided 0).wait = false) := by decide +kernel

/-- An ended descriptor that a host-interface reset has outlived. -/
theorem hyp_DescriptorLifeResults_old :
    (let x : Desc := { desc [] with started := true, old := true, outc := some { status := 0, detail := 0, time := 0 }, last := some 64 }
     let s : State := { liveH (fun h => { h with descs := [x] }) with doms := (hostifCode, { Dom.off with st := .closed }) :: live.doms }
     s.hostif.descs.find? (fun x => x.ref.sq == 0) = some x ∧ x.outc.isSome = true ∧ x.old = true ∧ x.after = [] ∧ isOpen s mgmtCode = true ∧
       isOpen s hostifCode = false ∧ s.hostif.held.length + s.hostif.descs.length ≤ 65536) := by decide +kernel

theorem hyp_HostResetResults :
    isOpen live hostifCode = true ∧
    (let s := liveH fun h => { h with resetAt := some (ms 3000 - us 10) }
     s.hostif.resetAt = some (ms 3000 - us 10) ∧ ms 3000 - us 10 + us 10 ≤ s.time) ∧
    live.hostif.link = true ∧
    ((liveD [(0, 1, 0x18)]).hostif.descs = [desc [(0, 1, 0x18)]] ∧ (desc [(0, 1, 0x18)]).outc = none ∧ needsHost (liveD [(0, 1, 0x18)]) (desc [(0, 1, 0x18)]) = true) ∧
    (let s : State := { (liveH fun h => { h with link := false }) with doms := [(mgmtCode, { Dom.off with st := .opened })] }
     s.hostif.perst = false ∧ s.module.running = true ∧ s.hostif.link = false ∧ (2#2) ≠ 3 ∧ (dom s hostifCode).st = .off) ∧
    (let s : State := { live with moving := 8 }
     s.moving.getLsbD (hubNum .s) = true) := by decide +kernel

/-! Program descriptors: slot 1 is free, slot 0 holds prog0. -/

def ld (n : Nat) : List (Nat × Nat × Nat) := [(0, 1, 0x10), (24, 8, n), (48, 1, 1)]
theorem starts_load (n : Nat) (h : n = 351 ∨ n = 352 ∨ n = 48 * 2 ^ 30) : Starts (liveD (ld n)) 0x10 ref0 (desc (ld n)) := by
  rcases h with rfl | rfl | rfl <;> exact starts_of _ _ _ (by decide +kernel)
def ldBusy : List (Nat × Nat × Nat) := [(0, 1, 0x10), (24, 8, 352), (48, 1, 0)]
theorem starts_loadBusy : Starts (liveD ldBusy) 0x10 ref0 (desc ldBusy) := starts_of _ _ _ (by decide +kernel)

theorem onProg0 (l : List (Nat × Nat × Nat)) (h : slotOf (desc l) = some 0) : OnProg (liveD l) (desc l) 0 prog0 :=
  ⟨h, by show prog? live 0 = some prog0; decide, by show (dom live (progCode 0)).st ≠ _ ∧ (dom live (progCode 0)).st ≠ _; decide⟩

theorem hyp_ProgramDescriptorResults_load :
    isOpen (liveD (ld 352)) mgmtCode = true ∧ slotOf (desc (ld 352)) = some 1 ∧ (dom (liveD (ld 352)) (progCode 1)).st = .off ∧
    slotBusy (liveD (ld 352)) 1 = false ∧ fld (desc (ld 351)) 24 8 < 352 ∧ 352 ≤ fld (desc (ld 352)) 24 8 ∧ fld (desc (ld (48 * 2 ^ 30))) 24 8 ≤ 48 * 2 ^ 30 ∧
    (slotOf (desc ldBusy) = some 0 ∧ slotBusy (liveD ldBusy) 0 = true) := by decide +kernel

def reconf : List (Nat × Nat × Nat) := [(0, 1, 0x11), (24, 8, 352), (48, 1, 0), (52, 4, 4096)]
def remove : List (Nat × Nat × Nat) := [(0, 1, 0x12), (48, 1, 0)]
def report : List (Nat × Nat × Nat) := [(0, 1, 0x13), (40, 4, 128), (48, 1, 0)]
def counters : List (Nat × Nat × Nat) := [(0, 1, 0x14), (40, 4, 64), (48, 1, 0)]
def table : List (Nat × Nat × Nat) := [(0, 1, 0x33), (24, 2, 4095), (26, 2, 1), (28, 1, 0)]

theorem hyp_ProgramDescriptorResults :
    (OnProg (liveD reconf) (desc reconf) 0 prog0 ∧ Starts (liveD reconf) 0x11 ref0 (desc reconf) ∧ fld (desc reconf) 52 4 ≤ 4096 ∧ 352 ≤ fld (desc reconf) 24 8 ∧
      fld (desc reconf) 24 8 ≤ 48 * 2 ^ 30) ∧
    (OnProg (liveD remove) (desc remove) 0 prog0 ∧ Starts (liveD remove) 0x12 ref0 (desc remove) ∧ prog0.bar = none ∧ prog0.running = true) ∧
    (OnProg (liveD report) (desc report) 0 prog0 ∧ Starts (liveD report) 0x13 ref0 (desc report) ∧ fld (desc report) 40 4 ≠ 0 ∧ prog0.report ≠ []) ∧
    (OnProg (liveD counters) (desc counters) 0 prog0 ∧ Starts (liveD counters) 0x14 ref0 (desc counters) ∧ fld (desc counters) 40 4 ≠ 0) ∧
    (OnProg (liveD table) (desc table) 0 prog0 ∧ Starts (liveD table) 0x33 ref0 (desc table) ∧ fld (desc table) 24 2 ≤ 4095 ∧ fld (desc table) 26 2 ≠ 0 ∧
      fld (desc table) 24 2 + fld (desc table) 26 2 ≤ 4096) :=
  ⟨⟨onProg0 _ (by decide +kernel), starts_of _ _ _ (by decide +kernel), by decide +kernel, by decide +kernel, by decide +kernel⟩,
   ⟨onProg0 _ (by decide +kernel), starts_of _ _ _ (by decide +kernel), rfl, rfl⟩,
   ⟨onProg0 _ (by decide +kernel), starts_of _ _ _ (by decide +kernel), by decide +kernel, by decide⟩,
   ⟨onProg0 _ (by decide +kernel), starts_of _ _ _ (by decide +kernel), by decide +kernel⟩,
   ⟨onProg0 _ (by decide +kernel), starts_of _ _ _ (by decide +kernel), by decide +kernel, by decide +kernel, by decide +kernel⟩⟩

/-- A descriptor of the host interface that was reset since: its report is asked for, and goes nowhere. -/
def reset0 (l : List (Nat × Nat × Nat)) : State := { liveD l with doms := (hostifCode, { Dom.off with st := .closed }) :: live.doms }
theorem hyp_ProgramDescriptorResults_reset :
    isOpen (reset0 report) hostifCode = false ∧ isOpen (reset0 report) mgmtCode = true ∧ Starts (reset0 report) 0x13 ref0 (desc report) ∧
    Starts (reset0 counters) 0x14 ref0 (desc counters) ∧ prog? (reset0 report) 0 = some prog0 :=
  ⟨by decide, by decide, starts_of _ _ _ (by decide +kernel), starts_of _ _ _ (by decide +kernel), by decide⟩

/-- An epoch barrier of a kind at a step, S and T reached, the new placement ready. -/
def bar (kind : BarKind) (st : BarStep) (p : Option Placement) : Barrier :=
  { kind := kind, desc := none, step := st, s := 16, t := 16, disc := 0, late := 0, lmax := 0, again := 16, evac := [], place := p, wants := false }
def barred (b : Barrier) : State := { live with beats := { cbn := 64, wrb := 64 }, progs := (Vector.replicate 8 none).set 0 (some { prog0 with bar := some b }) }
def placing0 : Placing :=
  { desc := some ref0, slot := 1, evac := none, image := [], at_ := ms 3000 - ms 2999, fresh := true, ready := true, live := some (liveOf live 1),
    timed := true, plots := [] }
def placingS (at_ : Nat) : State := { liveD (ld 352) with placing := [{ placing0 with at_ := at_ }], time := ms 30000 }

/-- `n` bytes of these fields: offset, bytes, value. -/
def layout (n : Nat) (l : List (Nat × Nat × Nat)) : List Byte :=
  (List.range n).map fun i => match l.find? fun e => decide (e.1 ≤ i ∧ i < e.1 + e.2.1) with
    | some e => BitVec.ofNat 8 (e.2.2 / 256 ^ (i - e.1))
    | none => 0
/-- An image of one plot of one core, no nets, objects, ports, constraints or names, and phases of one beat: directory entries of sections 1 and 5. -/
def image1 : List Byte :=
  layout 544 [(128, 4, 1), (136, 8, 384), (144, 8, 64), (160, 4, 5), (168, 8, 448), (176, 8, 96), (384, 1, 1), (385, 1, 1), (480, 2, 1), (496, 2, 1), (512, 2, 1),
    (528, 2, 1)]
def img1 : Img :=
  { plots := [(0, layout 64 [(0, 1, 1), (1, 1, 1)])], nets := [], objs := [], ports := [],
    phases := layout 96 [(32, 2, 1), (48, 2, 1), (64, 2, 1), (80, 2, 1)], cons := [], names := [], data := [] }
theorem image1_reads : imgOf (sectBytes image1) = img1 := by
  have h (n : Nat) : firstRecs (max 1 n) 64 (sectBytes image1 1) = [(0, layout 64 [(0, 1, 1), (1, 1, 1)])] := by
    have e : recsOf 64 (sectBytes image1 1) = [(0, layout 64 [(0, 1, 1), (1, 1, 1)])] := by decide +kernel
    simp only [firstRecs, e]
    exact List.take_of_length_le (Nat.le_max_left 1 n)
  have e3 : sectBytes image1 3 = [] := by decide +kernel
  simp only [imgOf, plotRecs, objectRecs, h, e3, img1, Img.mk.injEq, true_and]
  refine ⟨by decide +kernel, by simp [firstRecs, recsOf], by decide +kernel, by decide +kernel, by decide +kernel, by decide +kernel, trivial⟩
/-- Its placement on tile (0, 8). -/
def tile1 : TileCfg := { tileOf 8 with at_ := c8 }
def place1 : Placement :=
  { place0 with
    tiles := [tile1], mkTile := c8, plots := [{ row := 0, col := 8, phi := 0, helpers := [], relays := [] }],
    phases := List.replicate 4 { len := 1, next := 0, opPref := 0, reps := 0, htol := 0 },
    reads := { place0.reads with cores := [[{ tasks := tile1.tasks, pattern := 0, mown := 0, chans := tile1.chans, entries := [], phases := tile1.phases, startPh := 0, users := [], pops := [], segs := [] }]] } }

theorem hyp_BarrierAndPlacementResults :
    (∀ st ∈ [BarStep.accepted, .stopped, .halted, .restarted], ∀ kind ∈ [BarKind.remove, .reconfig], (prog? (barred (bar kind st none)) 0).isSome = true) ∧
    ((bar .reconfig .accepted none).s ≤ progBeat (barred (bar .reconfig .accepted none)) prog0) ∧
    ((bar .remove .stopped none).t ≤ progBeat (barred (bar .remove .stopped none)) prog0 ∧ isOpen (barred (bar .remove .stopped none)) mgmtCode = true ∧
      (barred (bar .remove .stopped none)).colls = []) ∧
    (let b := bar .reconfig .halted (some place0)
     b.place = some place0 ∧ b.wants = false ∧ (barred b).placing = [] ∧ (barred b).beats.wrb % 64 = 0 ∧ (barred b).marks = [] ∧ b.evac = [] ∧ collAccess (barred { b with evac := [0] }) 0 = false ∧
       (∀ c ∈ place0.tiles, (tileAt (barred b) c.at_).ecc = []) ∧ barHolds b = true ∧ barHolds { b with kind := .evacuate 0 } = false ∧
       (∀ u ∈ leaving prog0 place0, (tileAt (barred b) u).ecc = []) ∧ prog0.stuck = false ∧ newImage (barred b) b = false ∧ prog0.waiting = []) ∧
    ((bar .reconfig .restarted none).again + (bar .reconfig .restarted none).lmax ≤ (barred (bar .reconfig .restarted none)).beats.wrb ∧ prog0.report ≠ []) := by
  decide +kernel

/-- A barrier for the reconfiguration ref0; a program that stays halted since a reconfiguration failed. -/
def barredD (b : Barrier) : State := { barred b with hostif := (liveD [(0, 1, 0x11), (40, 4, 128)]).hostif }
theorem hyp_BarrierAndPlacementResults_descriptor :
    (let b := { bar .reconfig .halted (some place0) with desc := some ref0 }
     newImage (barredD b) b = true ∧ { prog0 with stuck := true }.stuck = true) ∧
    (let s := barredD { bar .reconfig .restarted none with desc := some ref0 }
     descOf s ref0 = some (desc [(0, 1, 0x11), (40, 4, 128)]) ∧ isOpen s hostifCode = true ∧ fld (desc [(0, 1, 0x11), (40, 4, 128)]) 40 4 ≠ 0) := by
  decide +kernel

theorem hyp_BarrierAndPlacementResults_placement :
    (let s := placingS (ms 10000)
     curPlacing s = some { placing0 with at_ := ms 10000 } ∧ placing0.live = some (liveOf live 1) ∧ placing0.fresh = true ∧ descOf s ref0 = some (desc (ld 352)) ∧
       isOpen s mgmtCode = true ∧ prog? s 1 = none ∧ s.memo = [] ∧ s.time < ms 10001 + ms 20000 ∧ ms 10000 + ms 20000 ≤ s.time ∧
       placeRefusal (restricts (desc (ld 352))) img1 place1 = none ∧ placeUsable s 1 place1 = true) ∧
    placeRefusal false img1 { place1 with tiles := [{ tile1 with tasks := [{ cfg0 with lbase := 512 }] }] } = some (4, 0) ∧
    placeUsable { placingS (ms 10001) with tiles := [(0, tile0), (8, { Tile.free with retire := true })] } 1 place1 = false := by decide +kernel

/-- Refusals that may be Jarbor's own, and may not, for image1. -/
theorem hyp_BarrierAndPlacementResults_refused :
    (let m := imgOf (sectBytes image1)
     recordRefusal false m = none ∧ refusalFits false m 6 0 = true ∧ refusalFits false m 4 1 = false ∧ refusalFits false m 5 0 = false) := by
  simp only [image1_reads]
  decide +kernel
/-- The same image with a net whose window is empty: LMIN 9 and LMAX 3. -/
def image2 : List Byte :=
  layout 640 [(128, 4, 1), (136, 8, 384), (144, 8, 64), (160, 4, 5), (168, 8, 448), (176, 8, 96), (192, 4, 2), (200, 8, 576), (208, 8, 48), (384, 1, 1), (385, 1, 1),
    (480, 2, 1), (496, 2, 1), (512, 2, 1), (528, 2, 1), (592, 4, 9), (596, 4, 3)]
theorem hyp_BarrierAndPlacementResults_recordRefusal : recordRefusal false (imgOf (sectBytes image2)) = some (8, 0) := by
  have e3 : sectBytes image2 3 = [] := by decide +kernel
  have e : objectRecs [] = [] := by simp [objectRecs, firstRecs, recsOf]
  have h : (recsOf 48 (sectBytes image2 2)).find? (fun e => decide (netLmax e.2 < netLmin e.2)) = some (0, layout 48 [(16, 4, 9), (20, 4, 3)]) := by decide +kernel
  simp [recordRefusal, imgOf, e3, e, directoryRefusal, h]

/-- Jarbor may come to place1 for image1, and cannot come to a placement of no cores. -/
theorem hyp_BarrierAndPlacementResults_possible :
    (let s := placingS (ms 10001)
     possible s { placing0 with at_ := ms 10001, image := image1 } (liveOf live 1) place1 = true ∧
       possible s { placing0 with at_ := ms 10001, image := image1 } (liveOf live 1) place0 = false) := by
  have h (s : State) (n : Nat) : imgFor s { placing0 with at_ := n, image := image1 } = img1 := by
    simp only [imgFor, placing0]
    exact image1_reads
  simp only [possible, h]
  decide +kernel

/-- The load of the resident program in slot 0 has started at beat 16. -/
def loadedS : State :=
  { liveD [(0, 1, 0x10), (40, 4, 1)] with progs := (Vector.replicate 8 none).set 0 (some { prog0 with load := some ref0, start := 16 }) }
theorem hyp_BarrierAndPlacementResults_load :
    prog? loadedS 0 = some { prog0 with load := some ref0, start := 16 } ∧ 16 ≤ loadedS.beats.wrb ∧ isOpen loadedS mgmtCode = true ∧ isOpen loadedS hostifCode = true ∧
    descOf loadedS ref0 = some (desc [(0, 1, 0x10), (40, 4, 1)]) ∧ fld (desc [(0, 1, 0x10), (40, 4, 1)]) 40 4 ≠ 0 ∧ prog0.report ≠ [] := by decide +kernel

/-! Data descriptors of program slot 0: port 0 with a slot, plot 0 of one core, object 0. -/

def port0 : PortBind := { hasIn := true, hasOut := true, hubField := 0, slot := 0, span := 0, inAt := [], outAt := [], inDepth := 0, inCrAt := [], outDepth := 0, outCrAt := [] }
def slot0 : Slot := { port := 0, landing := [], units := [], egress := [], old := 0, skip := 0, lcap := 1024, ecap := 1024, inCred := 0, outQ := [], outPend := 0 }
def cfgOf0 : TileCfg :=
  { at_ := c0, placed := true, plot := 0, prow := 0, pcol := 0, tasks := [], pattern := 0, mown := 0, chans := [], entries := [], phases := [], startPh := 0,
    startCur := 0, routerEn := false, initTok := [], mem := [], freeWide := 2, freeSlots := 1 }
def obj0 : ObjPlace := { fmt := 0, enc := 0, trained := false, elems := 16, len := 64, copies := [[(c0, .sram, 0, 64)]], trans := [], transRecs := [] }
def prog1 : Prog := { prog0 with place := { place0 with ports := [port0], objects := [obj0], tiles := [cfgOf0] }, slots := [(0, slot0)] }
def liveX (l : List (Nat × Nat × Nat)) : State := { liveD l with progs := (Vector.replicate 8 none).set 0 (some prog1) }
theorem onProg1 (l : List (Nat × Nat × Nat)) (h : slotOf (desc l) = some 0) : OnProg (liveX l) (desc l) 0 prog1 :=
  ⟨h, by show ((Vector.replicate 8 none).set 0 (some prog1))[(0 : Fin 8)] = some prog1; decide,
   by show (dom live (progCode 0)).st ≠ _ ∧ (dom live (progCode 0)).st ≠ _; decide⟩
theorem ringFree_live (l : List (Nat × Nat × Nat)) : RingFree (liveX l) :=
  ⟨fun r h => absurd (show r ∈ live.snet.reqs from h) (by simp [live, State.reset, Snet.reset]),
   fun w h => absurd (show w ∈ live.snet.waiting from h) (by simp [live, State.reset, Snet.reset])⟩

def xfer : List (Nat × Nat × Nat) := [(0, 1, 0x20), (32, 4, 16)]
def mrd : List (Nat × Nat × Nat) := [(0, 1, 0x18), (24, 4, 64), (36, 4, 32704)]
def mwr : List (Nat × Nat × Nat) := [(0, 1, 0x19), (24, 4, 64), (36, 4, 32704)]
def ord : List (Nat × Nat × Nat) := [(0, 1, 0x1A), (24, 4, 64)]
def owr : List (Nat × Nat × Nat) := [(0, 1, 0x1B), (24, 4, 64)]

theorem hyp_DataDescriptorResults :
    (OnProg (liveX xfer) (desc xfer) 0 prog1 ∧ (liveX xfer).marks = [] ∧ Starts (liveX xfer) 0x20 ref0 (desc xfer) ∧ xferBehind (liveX xfer) (desc xfer) = false ∧
      (xferChecks (desc xfer) prog1).find? (·.1) = none ∧ bindOf prog1 (xferPort (desc xfer)) = some port0 ∧ slotAt (liveX xfer) 0 port0.slot = some slot0 ∧
      slotBlocked (liveX xfer) port0 slot0 = none ∧ xferIn (desc xfer) ≠ 0) ∧
    (OnProg (liveX mrd) (desc mrd) 0 prog1 ∧ RingFree (liveX mrd) ∧ Reaches (liveX mrd) c0 ∧ Starts (liveX mrd) 0x18 ref0 (desc mrd) ∧
      (memChecks (desc mrd) prog1).find? (·.1) = none ∧ memCore (desc mrd) prog1 = some c0) ∧
    (OnProg (liveX mwr) (desc mwr) 0 prog1 ∧ Starts (liveX mwr) 0x19 ref0 (desc mwr) ∧ (memChecks (desc mwr) prog1).find? (·.1) = none) ∧
    (OnProg (liveX ord) (desc ord) 0 prog1 ∧ Starts (liveX ord) 0x1A ref0 (desc ord) ∧ (objChecks (desc ord) prog1).find? (·.1) = none ∧
      objAt prog1 (fld (desc ord) 48 4) = some obj0 ∧ (firstRuns obj0 0 64).length = 1) ∧
    (OnProg (liveX owr) (desc owr) 0 prog1 ∧ Starts (liveX owr) 0x1B ref0 (desc owr) ∧ (objChecks (desc owr) prog1).find? (·.1) = none) :=
  ⟨⟨onProg1 _ (by decide +kernel), rfl, starts_of _ _ _ (by decide +kernel), by decide +kernel, by decide +kernel, by decide +kernel, by decide +kernel, by decide +kernel,
      by decide +kernel⟩,
   ⟨onProg1 _ (by decide +kernel), ringFree_live _, by unfold Reaches; decide +kernel, starts_of _ _ _ (by decide +kernel), by decide +kernel, by decide +kernel⟩,
   ⟨onProg1 _ (by decide +kernel), starts_of _ _ _ (by decide +kernel), by decide +kernel⟩,
   ⟨onProg1 _ (by decide +kernel), starts_of _ _ _ (by decide +kernel), by decide +kernel, by decide +kernel, by decide +kernel⟩,
   ⟨onProg1 _ (by decide +kernel), starts_of _ _ _ (by decide +kernel), by decide +kernel⟩⟩

theorem hyp_DataDescriptorResults_tags : FreeTags (liveX mrd) ringUnit 1 ∧ FreeTags (liveX ord) ringUnit (firstRuns obj0 0 64).length :=
  ⟨freeTags_of _ rfl rfl _ _ (by decide), freeTags_of _ rfl rfl _ _ (by decide +kernel)⟩

/-- A read of host memory for the descriptor is outstanding. -/
def reading (l : List (Nat × Nat × Nat)) (why : Why) (n : Nat) : State :=
  let s := liveX l
  { s with hostif := { s.hostif with reads := [{ tag := 3, desc := ref0, why := why, addr := 0, len := n }] } }
theorem awaits_of (l : List (Nat × Nat × Nat)) (why : Why) (n : Nat) :
    Awaits (reading l why n) 3 { tag := 3, desc := ref0, why := why, addr := 0, len := n } (desc l) :=
  ⟨by simp [reading], by simp [reading, liveX, liveD, descOf, desc, ref0], rfl, by show isOpen live hostifCode = true; decide⟩

theorem hyp_HostReadResults :
    (Awaits (reading xfer .streamIn 16) 3 { tag := 3, desc := ref0, why := .streamIn, addr := 0, len := 16 } (desc xfer) ∧ slotOf (desc xfer) = some 0 ∧
      bindOf prog1 (xferPort (desc xfer)) = some port0 ∧ slotAt (reading xfer .streamIn 16) 0 port0.slot = some slot0) ∧
    (Awaits (reading mwr .memData 64) 3 { tag := 3, desc := ref0, why := .memData, addr := 0, len := 64 } (desc mwr) ∧ opcOf (desc mwr) = 0x19 ∧
      OnProg (liveX mwr) (desc mwr) 0 prog1 ∧ (memChecks (desc mwr) prog1).find? (·.1) = none ∧ memCore (desc mwr) prog1 = some c0 ∧ 64 = fld (desc mwr) 24 4) ∧
    (Awaits (reading reconf .image 352) 3 { tag := 3, desc := ref0, why := .image, addr := 0, len := 352 } (desc reconf) ∧ Why.image ≠ .streamIn ∧ isData .image = false) :=
  ⟨⟨awaits_of _ _ _, by decide +kernel, by decide +kernel, by decide +kernel⟩,
   ⟨awaits_of _ _ _, by decide +kernel, onProg1 _ (by decide +kernel), by decide +kernel, by decide +kernel, by decide +kernel⟩,
   ⟨awaits_of _ _ _, by decide, by decide⟩⟩

/-- The port's slot is hub N's (slot 128): the landed bytes go there in a MSG message. -/
def liveN (l : List (Nat × Nat × Nat)) (why : Why) (n : Nat) : State :=
  { reading l why n with
    progs := (Vector.replicate 8 none).set 0 (some { prog1 with place := { prog1.place with ports := [{ port0 with slot := 128, hubField := 2 }] }, slots := [(128, slot0)] }) }
theorem hyp_HostReadResults_hub :
    Awaits (liveN xfer .streamIn 16) 3 { tag := 3, desc := ref0, why := .streamIn, addr := 0, len := 16 } (desc xfer) ∧
    (slotAt (liveN xfer .streamIn 16) 0 128).isSome = true ∧ 128 / 128 ≠ 0 ∧ 128 < 512 ∧ 0 < 16 ∧
    unreach (liveN xfer .streamIn 16) (epochBit (liveN xfer .streamIn 16)) (12 + 1) = false :=
  have h := awaits_of xfer .streamIn 16
  ⟨⟨h.found, h.desc, h.live, h.link⟩, by decide +kernel, by decide, by decide, by decide, by decide +kernel⟩

theorem hyp_HostReadResults_tags : FreeTags (liveN xfer .streamIn 16) (hubEp 0 2) 1 ∧ FreeTags (reading mwr .memData 64) ringUnit 1 :=
  ⟨freeTags_of _ rfl rfl _ _ (by decide), freeTags_of _ rfl rfl _ _ (by decide)⟩

/-! ## Hypotheses that are met: domains, watches, management and security -/

/-- DOMAIN_CTL of an action on a domain, in a state with the domain as given. -/
def ctl (action c : Nat) : List (Nat × Nat × Nat) := [(0, 1, 0x42), (16, 2, c), (18, 1, action)]
def inDom (l : List (Nat × Nat × Nat)) (c : Nat) (f : Dom → Dom) : State := { liveD l with doms := (c, f { Dom.off with st := .opened }) :: live.doms }
theorem starts_ctl (s : State) (a c : Nat) (h : (descOf s ref0 == some (desc (ctl a c)) && canStart s 0x42 (desc (ctl a c)) && !((sqOf s 0).wait && sameEra s ref0)) = true) :
    Starts s 0x42 ref0 (desc (ctl a c)) := starts_of s _ _ h

/-- The domain's code is read from the descriptor, is one of R433, and no DOMAIN_CTL waits for it. -/
def ctlReady (s : State) (a c : Nat) : Bool :=
  descOf s ref0 == some (desc (ctl a c)) && canStart s 0x42 (desc (ctl a c)) && !((sqOf s 0).wait && sameEra s ref0) && ctlDom (desc (ctl a c)) == c &&
    ctlAction (desc (ctl a c)) == a && codeOk c && (dom s c).askers.isEmpty

theorem ctl_ready (s : State) (a c : Nat) (h : ctlReady s a c = true) :
    Starts s 0x42 ref0 (desc (ctl a c)) ∧ codeOk (ctlDom (desc (ctl a c))) = true ∧ (∀ e ∈ (dom s (ctlDom (desc (ctl a c)))).askers, e.1 ≠ ref0) ∧
      ctlAction (desc (ctl a c)) = a ∧ ctlDom (desc (ctl a c)) = c := by
  simp only [ctlReady, Bool.and_eq_true, beq_iff_eq, List.isEmpty_iff] at h
  obtain ⟨⟨⟨⟨h1, h2⟩, h3⟩, h4⟩, h5⟩ := h
  refine ⟨starts_ctl s a c (by simp only [Bool.and_eq_true, beq_iff_eq]; exact h1), by rw [h2]; exact h4, ?_, h3, h2⟩
  rw [h2, h5]
  simp

/-- QUERY, an unlisted action, RESET, DISABLE, ENABLE and EVACUATE, each in the states its clauses name. -/
theorem hyp_DomainControlResults :
    (∀ a ∈ [0, 5, 255], ctlReady (liveD (ctl a 0x417)) a 0x417 = true) ∧
    (ctlReady (liveD (ctl 1 0x303)) 1 0x303 = true ∧ 0x303 / 256 = 3 ∧ (dom (liveD (ctl 1 0x303)) 0x303).st = .opened) ∧
    (ctlReady (liveD (ctl 1 0x100)) 1 0x100 = true ∧ (dom (liveD (ctl 1 0x100)) mgmtCode).st = .opened) ∧
    ctlReady (liveD (ctl 1 0x200)) 1 0x200 = true ∧
    (ctlReady (liveD (ctl 1 0x707)) 1 0x707 = true ∧ prog? (liveD (ctl 1 0x707)) 7 = none ∧ (dom (liveD (ctl 1 0x707)) 0x707).st = .off) ∧
    (ctlReady (liveD (ctl 2 0x417)) 2 0x417 = true ∧ (dom (liveD (ctl 2 0x417)) 0x417).st = .opened) ∧
    (ctlReady (liveD (ctl 2 0x700)) 2 0x700 = true ∧ (prog? (liveD (ctl 2 0x700)) 0).isSome = true ∧ (dom (liveD (ctl 2 0x700)) 0x700).st = .opened) ∧
    (ctlReady (liveD (ctl 2 0x50B)) 2 0x50B = true ∧ (liveD (ctl 2 0x50B)).parcels[(11 : Fin 12)].st ≠ .off) ∧
    (ctlReady (inDom (ctl 3 0x301) 0x301 fun d => { d with st := .off }) 3 0x301 = true ∧ ctlReady (inDom (ctl 3 0x301) 0x301 fun d => { d with st := .off, readmit := true }) 3 0x301 = true ∧
      ctlReady (liveD (ctl 3 0x301)) 3 0x301 = true ∧ ctlReady (inDom (ctl 3 0x301) 0x301 fun d => { d with st := .closing }) 3 0x301 = true ∧
      ctlReady (inDom (ctl 3 0x301) 0x301 fun d => { d with st := .closed }) 3 0x301 = true) ∧
    (ctlReady (liveD (ctl 4 0x500)) 4 0x500 = true ∧ (liveD (ctl 4 0x500)).parcels[(0 : Fin 12)].st = .on ∧ touches (liveD (ctl 4 0x500)) 0 0 = true) := by
  decide +kernel

theorem hyp_DomainLifeResults :
    (let s := inDom [] 0x700 fun d => { d with st := .closing }
     (dom s (progCode 0)).st = .closing ∧ prog? s 0 = some prog0 ∧ haltReached s prog0 = true ∧ inFoot 0 (tileAt s c0) = true) ∧
    (let s := inDom [] 0x300 fun d => { d with st := .closing }
     1 ≤ (0x300#16).toNat / 256 ∧ (dom s (0x300#16).toNat).st = .closing) ∧
    (let s := inDom [] 0x700 fun d => { d with st := .closed }
     (dom s (progCode 0)).st = .closed ∧ (dom s (progCode 0)).held = false ∧ (tileAt s c0).placed = true ∧ (tileAt s c0).pslot = 0) ∧
    (let s := inDom [] 0x417 fun d => { d with st := .closed, pend := true }
     codeOk (0x417#16).toNat = true ∧ (dom s (0x417#16).toNat).st = .closed ∧ (dom s (0x417#16).toNat).held = false ∧ (dom s (0x417#16).toNat).readmit = false ∧
       (dom s (0x417#16).toNat).pend = true ∧ (0x417#16).toNat ≠ hubCode 0) ∧
    (let s := inDom [] 0x300 fun d => { d with st := .closed }
     (dom s (0x300#16).toNat).pend = false ∧ (dom s (0x300#16).toNat).reopen = false) ∧
    (let s := inDom [] 0x200 fun d => { d with st := .closed }
     (dom s hostifCode).st = .closed ∧ (dom s hostifCode).held = false ∧ s.hostif.link = true ∧ s.hostif.perst = false) ∧
    (let s := inDom [] 0x100 fun d => { d with st := .closed, since := ms 1000 }
     (dom s mgmtCode).st = .closed ∧ s.sec.staged = none ∧ fwHolds s = true ∧ (dom s mgmtCode).since + ms 2000 ≤ s.time ∧
       fwHolds { s with sec := { s.sec with fw := some { bytes := [], ver := 0, arb := 0, revoke := 0 } } } = false) := by decide +kernel

def watched (k : Nat) (f : State → State) : State := f { live with watches := [(k, { win := 60000, counted := ms 60000, seen := 0 })] }
def watchProg : List (Nat × Nat × Nat) := [(0, 1, 0x43), (16, 1, 1), (17, 1, 0), (20, 4, 60000)]
def watchSq : List (Nat × Nat × Nat) := [(0, 1, 0x43), (16, 1, 2), (17, 1, 63), (20, 4, 0)]
def policy : List (Nat × Nat × Nat) := [(0, 1, 0x45), (16, 1, 1), (18, 2, 8760)]
def stuckSq : State :=
  let s := watched 256 id
  { s with hostif := { s.hostif with descs := [desc [(0, 1, 0x20)]], sqs := s.hostif.sqs.set 0 { Sq.reset with en := true, tail := 1 } } }

theorem hyp_WatchAndPolicyResults :
    (watchDue (watched 0 id) 0 = true ∧ (prog? (watched 0 id) 0).isSome = true ∧ (dom (watched 0 id) (progCode 0)).st = .opened) ∧
    watchDue (watched 0 id) 7 = false ∧
    (watchDue stuckSq (256 + 0) = true ∧ 0 < sqReady (sqOf stuckSq 0) ∧ stuckSq.hostif.descs.find? (fun y => y.ref.sq == 0) = some (desc [(0, 1, 0x20)]) ∧
      slotOf (desc [(0, 1, 0x20)]) = some 0) ∧
    (let s := { stuckSq with hostif := { stuckSq.hostif with descs := [desc [(0, 1, 0x54)]] } }
     smallest s (desc [(0, 1, 0x54)]) = hostifCode ∧ isOpen s hostifCode = true) ∧
    (watchDue live (256 + 63) = false ∧ sqReady (sqOf live 63) = 0) ∧
    (epKind (hubEp 3 2) = 2 ∧ epOk (hubEp 3 2) = true ∧ isOpen live (unitDom (epHub (hubEp 3 2)) (epUnit (hubEp 3 2))) = true) ∧
    ((watchChecks (desc watchProg)).find? (·.1) = none ∧ (prog? (liveD watchProg) (fin8 (fld (desc watchProg) 17 1))).isSome = true) ∧
    ((watchChecks (desc watchSq)).find? (·.1) = none ∧ fld (desc watchSq) 16 1 ≠ 1) ∧
    (fld (desc policy) 18 2 ≠ 0 ∧ fld (desc policy) 18 2 ≤ 8760) := by decide +kernel

theorem hyp_WatchAndPolicyResults_starts :
    Starts (liveD watchProg) 0x43 ref0 (desc watchProg) ∧ Starts (liveD watchSq) 0x43 ref0 (desc watchSq) ∧ Starts (liveD policy) 0x45 ref0 (desc policy) :=
  ⟨starts_of _ _ _ (by decide +kernel), starts_of _ _ _ (by decide +kernel), starts_of _ _ _ (by decide +kernel)⟩

def mgmt (o n : Nat) : List (Nat × Nat × Nat) := [(0, 1, o), (24, 4, n)]
theorem hyp_ManagementResults :
    (isOpen (liveD []) mgmtCode = true ∧ isOpen (liveD []) hostifCode = true) ∧
    (Starts (liveD (mgmt 0x40 64)) 0x40 ref0 (desc (mgmt 0x40 64)) ∧ 64 ≤ fld (desc (mgmt 0x40 64)) 24 4 ∧ 262144 % 64 = 0) ∧
    (Starts (liveD (mgmt 0x41 16777216)) 0x41 ref0 (desc (mgmt 0x41 16777216)) ∧ fld (desc (mgmt 0x41 16777216)) 24 4 ≤ 16777216 ∧
      fld (desc (mgmt 0x41 16777216)) 28 4 % 64 = 0 ∧ (liveD []).lees = none ∧ ({ liveD [] with lees := some { seq := 1, bytes := [1] } } : State).lees.isSome = true) ∧
    Starts (liveD (mgmt 0x54 64)) 0x54 ref0 (desc (mgmt 0x54 64)) ∧
    (Starts (liveD (mgmt 0x50 4096)) 0x50 ref0 (desc (mgmt 0x50 4096)) ∧ 5 ≤ live.boot.stage ∧ 4096 ≤ fld (desc (mgmt 0x50 4096)) 24 4) ∧
    (Starts (liveD (mgmt 0x51 2097152)) 0x51 ref0 (desc (mgmt 0x51 2097152)) ∧ fld (desc (mgmt 0x51 2097152)) 24 4 ≤ 2097152) ∧
    Starts (liveD (mgmt 0x52 0)) 0x52 ref0 (desc (mgmt 0x52 0)) ∧
    (Starts (liveD (mgmt 0x53 16384)) 0x53 ref0 (desc (mgmt 0x53 16384)) ∧ fld (desc (mgmt 0x53 16384)) 24 4 ≤ 16384) :=
  ⟨by decide, ⟨starts_of _ _ _ (by decide +kernel), by decide +kernel, by decide⟩,
   ⟨starts_of _ _ _ (by decide +kernel), by decide +kernel, by decide +kernel, by decide, by decide⟩, starts_of _ _ _ (by decide +kernel),
   ⟨starts_of _ _ _ (by decide +kernel), by decide, by decide +kernel⟩, ⟨starts_of _ _ _ (by decide +kernel), by decide +kernel⟩, starts_of _ _ _ (by decide +kernel),
   ⟨starts_of _ _ _ (by decide +kernel), by decide +kernel⟩⟩

theorem hyp_ManagementResults_lees : ∀ r ∈ (liveD (mgmt 0x41 64)).reserved ++ [{ area := .lees, copies := [([c8], true)] }], r.area = .lees → ∀ c ∈ r.copies, ∀ u ∈ c.1,
    (tileAt (liveD (mgmt 0x41 64)) u).ecc = [] := by decide +kernel

/-- A public key (private key 1) and a signature with it (k = 1). -/
def key1 : List Byte := ofPoint curveG
def sign1 (m : List Byte) : List Byte :=
  let x := ofBE ((key1.drop 1).take 48) % curveN
  beBytes 48 x ++ beBytes 48 ((ofBE (sha384 m) + x) % curveN)
/-- Key slot 0 names key1. -/
def keyed (s : State) : State := { s with sec := { s.sec with keys := s.sec.keys.set 0 (sha384 key1) } }
/-- Firmware of 512 bytes with its header, signed with key slot 0. -/
def image0 : List Byte :=
  let b := [0x58, 0x46, 0x57, 0x49, 1, 0, 0, 0, 1, 0, 0, 0, 0, 2, 0, 0] ++ zeros 48 ++ key1 ++ zeros 95
  b ++ sign1 b ++ zeros 160
def fwS : State := { keyed (reading (mgmt 0x50 512) .firmware 512) with boot := { live.boot with stage := 5 } }
theorem hyp_ManagementResults_firmware :
    Awaits fwS 3 { tag := 3, desc := ref0, why := .firmware, addr := 0, len := 512 } (desc (mgmt 0x50 512)) ∧ image0.length = 512 ∧
    512 = fld (desc (mgmt 0x50 512)) 24 4 ∧ (desc (mgmt 0x50 512)).old = false ∧ fwFault fwS [] 512 = some 1 ∧ fwS.boot.stage = 5 ∧ fwS.sec.fw = none :=
  have h := awaits_of (mgmt 0x50 512) .firmware 512
  ⟨⟨h.found, h.desc, h.live, h.link⟩, by decide +kernel, by decide +kernel, rfl, by decide +kernel, by decide, by decide⟩

/-- R492, R493: the image verifies; with one byte of its ARB counter changed its signature does not (check 5). -/
theorem hyp_ManagementResults_verified : fwFault fwS image0 512 = none ∧ fwFault fwS (image0.set 7 1) 512 = some 5 := by decide +kernel

/-- Firmware runs; before it does; a token that is refused; a PHY die with 1,023 and 1,024 drops. -/
def running : State := { live with sec := { live.sec with fw := some { bytes := [], ver := 1, arb := 0, revoke := 0 } } }
def dropped (n : Nat) : State := { live with sec := { live.sec with drops := live.sec.drops.set 7 (List.replicate n (ms 2999)) } }
theorem hyp_SecurityResults :
    isOpen live hostifCode = true ∧ doeReady live = false ∧ doeReady running = true ∧ (List.replicate 32 (0 : Byte)).length = 32 ∧
    ((List.replicate 296 (0 : Byte)).length = 296 ∧ tokenOk running (List.replicate 296 0) = false) ∧ (phyPasses .laneData = true ∧ phyPasses .dieWrite = false) ∧
    live.module.phys.getLsbD 7 = true := by decide +kernel

theorem hyp_SecurityResults_drops (n : Nat) : ((dropped n).sec.drops[(7 : Fin 8)].filter fun u => decide ((dropped n).time < u + ms 1000)).length = n := by
  have h : (dropped n).sec.drops[(7 : Fin 8)] = List.replicate n (ms 2999) := Vector.getElem_set_self ..
  have h2 : decide ((dropped n).time < ms 2999 + ms 1000) = true := by show decide (ms 3000 < ms 2999 + ms 1000) = true; decide
  rw [h, List.filter_replicate, if_pos h2, List.length_replicate]

/-- A token for JTAG and TMUX with an outstanding challenge of zeros, signed with key slot 0 for this engine's identity. -/
def challenged : State := keyed { running with sec := { running.sec with chal := some (zeros 32) } }
def token0 : List Byte :=
  let b := [0x58, 0x44, 0x42, 0x47, 1, 0, 0, 3] ++ sha384 (idPub challenged) ++ zeros 40 ++ key1 ++ zeros 7
  b ++ sign1 b
theorem hyp_SecurityResults_token : token0.length = 296 ∧ doeReady challenged = true ∧ tokenOk challenged token0 = true := by decide +kernel

/-! ## Hypotheses that are met: edge ports, the link layer and the transport -/

def liveP (p : Port) : State := { live with edge := { live.edge with engineId := 5, ports := live.edge.ports.set 0 p, routes := Vector.replicate 128 0xFFFFFF } }
/-- A port that has been in a state since engine time 0. -/
def portIn (st : PortSt) : Port := { Port.reset with st := st, en := true, pcmax := 20 }
/-- A port in UP with peer 6, one DATA flit unacknowledged. -/
def flit0 : Flit :=
  { ftype := 1, vc := 0, seq := 0, ack := 0, cvc := 0, ccnt := 0, thdr := 0, body := [], crc := 0, fixed := 0, uncorr := false }
def upPort : Port := { portIn .up with peerId := 6, width := 8, replay := [(flit0, 0)], txCred := Vector.replicate 4 8, tsync := true }
/-- A flit with its CRC. -/
def sealedFlit (f : Flit) : Flit := { f with crc := crc32 (flitBody f) }
theorem sealedFlit_clean (f : Flit) (h1 : f.uncorr = false) (h2 : f.fixed = 0) : CleanFlit (sealedFlit f) := ⟨h1, h2, beq_self_eq_true _⟩
/-- A flit with another CRC. -/
def spoiltFlit (f : Flit) : Flit := { f with crc := crc32 (flitBody f) + 1 }
theorem spoiltFlit_bad (f : Flit) : flitOk (spoiltFlit f) = false := by
  have h : ∀ x : Word, x ≠ x + 1 := fun x h => by bv_omega
  exact beq_eq_false_iff_ne.2 (h _)
def hello0 (peer : Byte) : Flit := { flit0 with ftype := 2, body := [1, peer, 3, 0, 1] }

/-- An identity page with its CRC: 8 lanes, speed, power class 1. -/
def page0 : List Byte :=
  let b : List Byte := [1, 0, 8, 100, 0, 0, 1] ++ List.replicate 55 0
  b ++ leBytes 2 (crc16 b).toNat

theorem hyp_PortStateResults_enable :
    isOpen live hostifCode = true ∧ isOpen live mgmtCode = true ∧
    ((portOf live 23).st = .disabled ∧ portServed live 23 = true ∧ isOpen live (edgeCode 23) = true) ∧
    ((portOf (liveP (portIn .up)) 0).st ≠ .disabled ∧ isOpen (liveP (portIn .up)) (hubCode (hubOf 0)) = true ∧ reach (liveP (portIn .up)) (hubOf 0) = true) ∧
    (let s : State := { live with doms := (mgmtCode, { Dom.off with st := .closing }) :: live.doms }
     isOpen s hostifCode = true ∧ isOpen s mgmtCode = false) := by decide +kernel

theorem hyp_PortStateResults :
    ((portOf (liveP (portIn .idRead)) 0).st = .idRead ∧ pageFault (portIn .idRead) (some page0) = none ∧ pageFault (portIn .idRead) none ≠ none ∧
      ({ portIn .idRead with noid := true } : Port).noid = true) ∧
    (busPort (liveP (portIn .idRead)) 0 = some 0 ∧ busPort (liveP (portIn .up)) 0 ≠ some 0) ∧
    (let tr : Trained := { pass := 0xFF, heard := [7, 6, 5, 4, 3, 2, 1, 0], inverted := 0, skew := 32 }
     trainGroup (portIn .training) tr = some (8, 0) ∧ trainGroup (portIn .training) { tr with pass := 0xF0 } = some (4, 4) ∧
       trainGroup (portIn .training) { tr with heard := [1, 0, 2, 3, 4, 5, 6, 7] } = none ∧ trainGroup (portIn .training) { tr with skew := 33 } = none ∧
       trainGroup (portIn .training) { tr with pass := 0 } = none ∧ trainGroup (portIn .retrain) tr = some (8, 0)) ∧
    (stBound (liveP (portIn .training)) (portIn .training) = some (ms 50) ∧ (portIn .training).at_ + ms 50 ≤ live.time ∧
      stBound (liveP (portIn .idRead)) (portIn .idRead) = some (ms 5) ∧ stBound (liveP (portIn .hello)) (portIn .hello) = some (ms 1)) ∧
    (let s := liveP { portIn .failed with at_ := ms 2000 }
     (portOf s 0).st = .failed ∧ (portOf s 0).en = true ∧ (portOf s 0).at_ + ms 1000 ≤ s.time ∧ portServed s 0 = true ∧ isOpen s (edgeCode 0) = true) ∧
    (let s : State := { liveP { portIn .hello with heard := true, hellos := 2 } with boot := { live.boot with ready := false } }
     (portOf s 0).heard = true ∧ (portOf s 0).hellos = 2 ∧ ownId s ≤ 127 ∧ s.boot.ready = false) ∧
    (byteAt (hello0 5).body 0 = 1 ∧ byteAt (hello0 5).body 1 = ownId (liveP (portIn .hello)) ∧ byteAt (hello0 6).body 1 ≠ ownId (liveP (portIn .hello)) ∧
      byteAt (hello0 6).body 4 = 1 ∧ byteAt (hello0 6).body 3 % 2 = 0) ∧
    ((portOf (liveP (portIn .retrain)) 0).st = .retrain ∧ (portIn .retrain).at_ + ms 10 ≤ live.time ∧ live.time < ({ portIn .retrain with at_ := ms 2991 } : Port).at_ + ms 10) ∧
    (({ portIn .up with power := 15 } : Port).power ≠ 0 ∧ (portIn .up).power = 0) := by decide +kernel

theorem hyp_PortStateResults_flits : CleanFlit (sealedFlit (hello0 5)) ∧ CleanFlit (sealedFlit (hello0 6)) ∧ (sealedFlit (hello0 6)).ftype = 2 :=
  ⟨sealedFlit_clean _ rfl rfl, sealedFlit_clean _ rfl rfl, rfl⟩

/-- A one-packet message to this engine on channel 3 of peer 6. -/
def thdr0 : BitVec 64 := BitVec.ofNat 64 (2 ^ 45)
theorem hyp_LinkLayerResults :
    (portOf (liveP upPort) 0).st = .up ∧ (portOf (liveP upPort) 0).txq = [] ∧ (portOf (liveP upPort) 0).cwBad = false ∧ CleanFlit (sealedFlit { flit0 with thdr := thdr0 }) ∧
    (sealedFlit { flit0 with thdr := thdr0 }).seq = upPort.rxSeq ∧ bitsOf thdr0.toNat 40 5 = 0 ∧ bitsOf thdr0.toNat 45 1 = 1 ∧
    partFits 0 thdr0.toNat (pktOf thdr0.toNat []) 0 = true ∧
    (CleanFlit (sealedFlit { flit0 with seq := 1023 }) ∧ (sealedFlit { flit0 with seq := 1023 }).seq ≠ upPort.rxSeq) ∧ flitOk (spoiltFlit flit0) = false ∧ upPort.nakAt = none ∧
    (CleanFlit (sealedFlit { flit0 with ftype := 0, ack := 1 }) ∧ upPort.replay = (flit0, 0) :: [] ∧ ((1 : BitVec 10) - flit0.seq).toNat ≤ upPort.replay.length ∧
      upPort.replay.length < ((2 : BitVec 10) - flit0.seq).toNat) ∧
    (CleanFlit (sealedFlit { flit0 with ftype := 2, body := [2] }) ∧ byteAt ({ flit0 with ftype := 2, body := [2] } : Flit).body 0 = 2 ∧ (0 : BitVec 10) = flit0.seq) ∧
    ((∀ e ∈ upPort.replay, e.2 < 15) ∧ ∃ e ∈ ({ upPort with replay := [(flit0, 15)] } : Port).replay, 15 ≤ e.2) ∧ (upPort.replay ≠ [] ∧ upPort.ackAt + us 4 ≤ live.time) ∧
    live.time < ({ upPort with ackAt := live.time } : Port).ackAt + us 4 :=
  ⟨by decide, by decide, by decide, sealedFlit_clean _ rfl rfl, rfl, by decide +kernel, by decide +kernel, by decide +kernel, ⟨sealedFlit_clean _ rfl rfl, by decide⟩, spoiltFlit_bad _, rfl,
   ⟨sealedFlit_clean _ rfl rfl, rfl, by decide, by decide⟩, ⟨sealedFlit_clean _ rfl rfl, by decide, rfl⟩, by decide, ⟨by decide, by decide +kernel⟩, Nat.lt_add_of_pos_right (by decide)⟩

def probing : State := liveP { upPort with probe := some (ms 3000 - us 100, 7) }
def reply0 (t1 : Byte) : Flit := { flit0 with ftype := 2, body := [4, 5, 6, 0, 0, 0, 0, 0, t1] ++ List.replicate 231 0 }
theorem hyp_TimeProbeResults :
    (portOf (liveP upPort) 0).st = .up ∧ (portOf (liveP upPort) 0).txq = [] ∧ (portOf (liveP upPort) 0).cwBad = false ∧ upPort.tsync = true ∧ probeDst (liveP upPort) upPort = some 6 ∧
    (portIn .up).tsync = false ∧ CleanFlit (sealedFlit { flit0 with ftype := 2, body := [3] }) ∧ CleanFlit (sealedFlit (reply0 7)) ∧
    byteAt (reply0 7).body 0 = 4 ∧ (portOf probing 0).probe = some (ms 3000 - us 100, 7) ∧ probing.time ≤ ms 3000 - us 100 + us 100 ∧
    fieldLE (reply0 7).body 8 8 = (7 : DWord).toNat ∧ fieldLE (reply0 8).body 8 8 ≠ (7 : DWord).toNat ∧ ms 3000 - us 100 + us 100 ≤ probing.time :=
  ⟨by decide, by decide, by decide, by decide, by decide, by decide, sealedFlit_clean _ rfl rfl, sealedFlit_clean _ rfl rfl, by decide, by decide, by decide +kernel, by decide +kernel,
    by decide +kernel, by decide +kernel⟩

/-! The transport: descriptors to and from peer 6, channel 3. -/

def edgeS (l : List (Nat × Nat × Nat)) : State := { liveX l with edge := (liveP upPort).edge }
def esend : List (Nat × Nat × Nat) := [(0, 1, 0x30), (24, 4, 16777216), (28, 1, 6), (29, 1, 3)]
def esendObj : List (Nat × Nat × Nat) := [(0, 1, 0x30), (24, 4, 64), (28, 1, 6), (29, 1, 3), (30, 1, 2)]
def erecv : List (Nat × Nat × Nat) := [(0, 1, 0x31), (24, 4, 64), (28, 1, 6), (29, 1, 3)]
def pdown : List (Nat × Nat × Nat) := [(0, 1, 0x34), (16, 1, 127)]
def pup : List (Nat × Nat × Nat) := [(0, 1, 0x35), (16, 1, 6), (17, 1, 15)]

theorem starts_edge (l : List (Nat × Nat × Nat)) (o : Nat) (h : Starts (liveX l) o ref0 (desc l)) : Starts (edgeS l) o ref0 (desc l) :=
  ⟨h.found, h.can, h.free, h.clean, h.kept⟩
theorem starts_x (l : List (Nat × Nat × Nat)) (o : Nat) (h : Starts (liveD l) o ref0 (desc l)) : Starts (liveX l) o ref0 (desc l) :=
  ⟨h.found, h.can, h.free, h.clean, h.kept⟩
theorem unbound_edge (l : List (Nat × Nat × Nat)) : Unbound (edgeS l) ref0 :=
  ⟨fun c h => absurd (show c ∈ live.colls from h) (by simp [live, State.reset]),
   fun e h => absurd (show e ∈ live.edge.chans from h) (by simp [live, State.reset, Edge.reset]),
   fun e h => absurd (show e ∈ live.edge.chans from h) (by simp [live, State.reset, Edge.reset])⟩

theorem ready_send : EdgeReady (edgeS esend) (desc esend) :=
  ⟨by decide +kernel, by decide +kernel, .inl (by decide +kernel), by decide +kernel, by decide +kernel⟩
theorem ready_obj : EdgeReady (edgeS esendObj) (desc esendObj) :=
  have h := onProg1 esendObj (by decide +kernel)
  ⟨by decide +kernel, by decide +kernel, .inr ⟨0, prog1, ⟨h.slot, h.prog, h.live⟩, by decide +kernel⟩, by decide +kernel, by decide +kernel⟩
theorem ready_recv : EdgeReady (edgeS erecv) (desc erecv) :=
  ⟨by decide +kernel, by decide +kernel, .inl (by decide +kernel), by decide +kernel, by decide +kernel⟩

theorem hyp_EdgeDescriptorResults :
    (EdgeReady (edgeS esend) (desc esend) ∧ Unbound (edgeS esend) ref0 ∧ Starts (edgeS esend) 0x30 ref0 (desc esend) ∧ edgeKind (desc esend) = 0 ∧
      edgeLen (desc esend) ≠ 0) ∧
    (EdgeReady (edgeS esendObj) (desc esendObj) ∧ Starts (edgeS esendObj) 0x30 ref0 (desc esendObj) ∧ edgeKind (desc esendObj) = 2 ∧
      objAt prog1 (fld (desc esendObj) 36 4) = some obj0) ∧
    (EdgeReady (edgeS erecv) (desc erecv) ∧ Starts (edgeS erecv) 0x31 ref0 (desc erecv) ∧ (echan (edgeS erecv) (edgeKey (desc erecv))).rx = []) ∧
    (Unbound (edgeS pdown) ref0 ∧ Starts (edgeS pdown) 0x34 ref0 (desc pdown) ∧ fld (desc pdown) 16 1 ≤ 127 ∧ fld (desc pdown) 16 1 ≠ ownId (edgeS pdown) ∧
      (peerOf (edgeS pdown) 127).down = none) ∧
    (Starts (edgeS pup) 0x35 ref0 (desc pup) ∧ (peerOf (edgeS pup) 6).inc ≠ fld (desc pup) 17 1 % 16) :=
  ⟨⟨ready_send, unbound_edge _, starts_edge _ _ (starts_x _ _ (starts_of _ _ _ (by decide +kernel))), by decide +kernel, by decide +kernel⟩,
   ⟨ready_obj, starts_edge _ _ (starts_x _ _ (starts_of _ _ _ (by decide +kernel))), by decide +kernel, by decide +kernel⟩,
   ⟨ready_recv, starts_edge _ _ (starts_x _ _ (starts_of _ _ _ (by decide +kernel))), by decide +kernel⟩,
   ⟨unbound_edge _, starts_edge _ _ (starts_x _ _ (starts_of _ _ _ (by decide +kernel))), by decide +kernel, by decide +kernel, by decide +kernel⟩,
   ⟨starts_edge _ _ (starts_x _ _ (starts_of _ _ _ (by decide +kernel))), by decide +kernel⟩⟩

theorem hyp_EdgeDescriptorResults_object :
    OnProg (edgeS esendObj) (desc esendObj) 0 prog1 ∧ NetQuiet (edgeS esendObj) ∧ (∀ h, FreeTags (edgeS esendObj) (hubEp h 1) (firstRuns obj0 0 64).length) ∧
    ∀ p ∈ firstRuns obj0 0 64, Reaches (edgeS esendObj) p.tile :=
  have h := onProg1 esendObj (by decide +kernel)
  ⟨⟨h.slot, h.prog, h.live⟩, ⟨fun r h => absurd (show r ∈ live.snet.reqs from h) (by simp [live, State.reset, Snet.reset]), rfl⟩,
   fun _ => freeTags_of _ rfl rfl _ _ (by decide +kernel), fun _ _ => show (0#16).getLsbD _ = false by simp⟩

/-- A packet from peer 6 on channel 3, and channel state with it. -/
def pkt0 : EdgePkt := { src := 6, dst := 5, chan := 3, psn := 0, mfirst := true, mlast := true, kind := 0, abort := false, inc := 0, bytes := [1, 2] }
def chanS (l : List (Nat × Nat × Nat)) (q : EdgePkt) (c : EChan) (w : Peer) : State :=
  { edgeS l with edge := { (liveP { upPort with inbox := [q], replay := [] }).edge with chans := [(1539, c)], peers := [(6, w)] } }
def peer0 : Peer := { down := none, inc := 0, heard := some 0, beat := none }
def posted : EChan := { EChan.idle with rx := [{ desc := some ref0, len := 64, come := 0, got := [], live := true, full := false }] }
def sending : EChan :=
  { EChan.idle with tx := [{ desc := some ref0, bytes := [1, 2], parts := [], len := 2, sent := 2, done := true, abort := false }], unack := [(pkt0, 0)], ackDue := some (ms 3000 - us 1) }

theorem hyp_EdgePacketResults :
    (let s := chanS erecv pkt0 posted peer0
     nextMsg s 0 = some (0, pkt0) ∧ pktGood s pkt0 = true ∧ pkt0.psn = (echan s (pktKey pkt0)).rxPsn % 65536 ∧ curPost (echan s (pktKey pkt0)) = posted.rx.head? ∧
       descOf s ref0 = some (desc erecv) ∧ edgeKind (desc erecv) = 0 ∧ isOpen s hostifCode = true ∧ 0 + pkt0.bytes.length ≤ 64) ∧
    64 < 63 + pkt0.bytes.length ∧
    (let q := { pkt0 with psn := 32768 }
     let s := chanS erecv q posted peer0
     nextMsg s 0 = some (0, q) ∧ pktGood s q = true ∧ 32768 ≤ ((echan s (pktKey q)).rxPsn + 65536 - q.psn) % 65536) ∧
    (let q := { pkt0 with dst := 4 }
     nextMsg (chanS erecv q posted peer0) 0 = some (0, q) ∧ pktGood (chanS erecv q posted peer0) q = false) ∧
    (let q := { pkt0 with kind := 1, bytes := [1, 0, 4, 0] }
     let s := chanS esend q sending peer0
     firstOf s 0 1 = some (0, q) ∧ pktGood s q = true ∧ (echan s (pktKey q)).tx.length = 1 ∧ (echan s (pktKey q)).unack = [(pkt0, 0)] ∧
       (fieldLE q.bytes 0 2 + 65536 - pkt0.psn) % 65536 = 1) ∧
    (let q := { pkt0 with kind := 2 }
     firstOf (chanS [] q EChan.idle peer0) 0 2 = some (0, q) ∧ pktGood (chanS [] q EChan.idle peer0) q = true ∧
       pktGood (chanS [] { q with inc := 1 } EChan.idle peer0) { q with inc := 1 } = false) ∧
    (let s := chanS [] pkt0 sending peer0
     (echan s (chanKey 6 3)).ackDue = some (ms 3000 - us 1) ∧ ms 3000 - us 1 + us 1 ≤ s.time ∧ choosePort s (chanKey 6 3) ≠ none ∧
       choosePort { s with edge := { s.edge with ports := live.edge.ports } } (chanKey 6 3) = none) ∧
    (let s := liveP { upPort with replay := [] }
     s.edge.routes[(6 : Fin 128)] ≠ 0 ∧ (6 : Fin 128).val ≠ ownId s ∧ choosePort s (chanKey 6 0) = some 0 ∧ (portOf s 0).st = .up ∧ (portOf s 0).txq = [] ∧
       (portOf s 0).txCred[(3 : Fin 4)] ≠ 0 ∧ (portOf s 0).replay.length < 512) := by decide +kernel

theorem hyp_EdgePacketResults_tags : FreeTags (chanS [] pkt0 sending peer0) (hubEp 3 6) 1 := freeTags_of _ rfl rfl _ _ (by decide)

theorem hyp_EdgeDescriptorResults_timeouts :
    (let s := chanS [] pkt0 sending peer0
     (peerOf s 6).down = none ∧ (∃ e ∈ s.edge.chans, e.1 / 256 = 6 ∧ ∃ u ∈ e.2.unack, u.2 + tmo s < s.time) ∧ (peerOf s 6).heard = some 0 ∧ 0 + tmo s < s.time) ∧
    (peerOf live 127).heard = none ∧ live.edge.chans = [] := by decide +kernel

/-! ## Hypotheses that are met: collectives -/

/-- 1.0, an FP32 segment of one element. -/
def one32 : List Byte := [0, 0, 0x80, 0x3F]
/-- Rank 0 of three engines 5, 6 and 7 (an all-reduce of FP32, without press): its ring predecessor is engine 7. -/
def coll0 : Coll :=
  { desc := ref0, live := true, slot := 0, cid := 1, group := [5, 6, 7], rank := 0, op := 0, press := false, torus := false, bf := false, count := 3, tx := 0, root := 0,
    chan := 4, layer := 0, srcObj := 0, dstObj := 0, srcOff := 0, dstOff := 0, hub := some 3, toward := chanKey 6 4, phase := 0, got := 0, acc := [], shard := [], sums := [], own := false, pieces := [], norms := [],
    applied := false, skipped := false, written := 0, prec := none, wf := 0, begun := true,
    reads := [{ obj := 0, off := 4, len := 4, want := 4, parts := [(0, one32)] }], fail := none }
def cdesc : List (Nat × Nat × Nat) := [(0, 1, 0x32), (48, 4, 3), (54, 1, 2), (56, 1, 4)]
def collState (c : Coll) (b : List Byte) : State :=
  let s := edgeS cdesc
  { s with
    colls := [c],
    edge := { s.edge with chans := [(chanKey 7 4, { EChan.idle with rx := [{ desc := none, len := 4194368, come := 0, got := b, live := true, full := true }] })] } }

/-- A message of a kind of the collective with these element bytes, sealed. -/
def collMsg0 (c : Coll) (kind n : Nat) (e : List Byte) (ssum status adetail : Nat) : List Byte :=
  leBytes 2 c.cid ++ [0] ++ leBytes 1 kind ++ zeros 8 ++ leBytes 4 n ++ leBytes 8 (crc64 e).toNat ++ leBytes 8 ssum ++ leBytes 4 c.count ++ leBytes 1 (opByte c) ++
    leBytes 1 (gsize c) ++ leBytes 1 c.tx ++ leBytes 1 c.root ++ leBytes 4 (groupDigest c.group) ++ leBytes 1 status ++ zeros 3 ++ leBytes 8 adetail ++ zeros 8 ++ e
/-- 1.0 as FP64. -/
def one64 : Nat := 0x3FF0000000000000
def redMsg : List Byte := collMsg0 coll0 0 1 one32 one64 0 0

theorem at_message (c : Coll) (b : List Byte)
    (h : ((collOn (collState c b) (chanKey 7 4)).isSome && c.desc == ref0 && c.live && predKey c c.phase == chanKey 7 4 && c.phase != endPhase &&
      c.begun && c.fail == none) = true) :
    AtMessage (collState c b) (chanKey 7 4) b c := by
  simp only [Bool.and_eq_true, beq_iff_eq, bne_iff_ne, ne_eq] at h
  obtain ⟨⟨h, hb⟩, hf⟩ := h
  refine ⟨rfl, ?_, ?_, ?_, h.1.2, h.2, hb, ?_, rfl⟩
  · obtain ⟨y, hy⟩ := Option.isSome_iff_exists.1 h.1.1.1.1
    have hm : y ∈ [c] := List.mem_of_find?_eq_some hy
    rw [hy, List.mem_singleton.1 hm]
  · show [c].find? _ = some c
    simp [h.1.1.1.2]
  · intro y hy
    have hy : y ∈ [c] := hy
    rw [List.mem_singleton.1 hy]
    exact h.1.1.2
  · intro y hy
    have hy : y ∈ [c] := hy
    rw [List.mem_singleton.1 hy]
    exact hf

theorem hyp_CollectiveResults_starts :
    (OnProg (liveX cdesc) (desc cdesc) 0 prog1 ∧ Starts (liveX cdesc) 0x32 ref0 (desc cdesc)) ∧ collOf (liveX cdesc) ref0 = none ∧
    (collChecks (desc cdesc)).find? (·.1) = none ∧ bitsOf (fld (desc cdesc) 52 1) 3 1 ≠ 1 ∧ (liveX cdesc).adders ≠ 0 ∧
    ({ liveX cdesc with adders := 0 } : State).adders = 0 :=
  ⟨⟨onProg1 _ (by decide +kernel), starts_x _ _ (starts_of _ _ _ (by decide +kernel))⟩, by decide +kernel, by decide +kernel, by decide +kernel, by decide, by decide⟩

/-- A good segment at the first step, one with another count, one with a wrong seal. -/
theorem hyp_CollectiveResults_reduce :
    AtMessage (collState coll0 redMsg) (chanKey 7 4) redMsg coll0 ∧ (descOf (collState coll0 redMsg) ref0).isSome = true ∧ byteAt redMsg 3 = 0 ∧
    isReduce coll0 0 = true ∧ (dueNow coll0)[0]? = some (0, 1, 0) ∧ pressWaits (collState coll0 redMsg) coll0 0 = false ∧ headFault coll0 redMsg = none ∧
    sealFault (baseFmt coll0) coll0.bf 1 redMsg = none ∧ haveAll coll0 (ownSpans coll0 0 1 1) = true ∧ 0 + 2 < ringLen coll0 0 ∧
    headFault coll0 (collMsg0 { coll0 with count := 4 } 0 1 one32 one64 0 0) = some 48 ∧
    sealFault fp32 false 1 (collMsg0 coll0 0 1 one32 0 0 0) = some false ∧ sealFault fp32 false 1 (collMsg0 coll0 0 2 one32 one64 0 0) = some true :=
  ⟨at_message _ _ (by decide +kernel), by decide +kernel, by decide +kernel, by decide, by decide +kernel, by decide +kernel, by decide +kernel, by decide +kernel,
    by decide +kernel, by decide +kernel, by decide +kernel, by decide +kernel, by decide +kernel⟩

def gath : Coll := { coll0 with phase := 1 }
def gathMsg : List Byte := collMsg0 gath 1 1 one32 one64 0 0
def norm0 : Coll := { coll0 with phase := 8, press := true }
def normMsg : List Byte := collMsg0 norm0 4 3 (List.replicate 24 0) 0 0 0
def abortMsg (status adetail : Nat) : List Byte := collMsg0 coll0 3 0 [] 0 status adetail
def sealMsg : List Byte := collMsg0 coll0 2 0 [] 0 0x0A 0

theorem hyp_CollectiveResults_gather :
    AtMessage (collState gath gathMsg) (chanKey 7 4) gathMsg gath ∧ byteAt gathMsg 3 = 1 ∧ isReduce gath 1 = false ∧ (dueNow gath)[0]? = some (0, 2, 0) ∧
    headFault gath gathMsg = none ∧ sealFault (segFmt gath (workFmt gath) 1) (gath.bf && !gath.press) 1 gathMsg = none ∧ 0 + 1 < (dueNow gath).length ∧
    gath.op ≠ 3 ∧ 0 + 2 < ringLen gath 1 :=
  ⟨at_message _ _ (by decide +kernel), by decide +kernel, by decide, by decide +kernel, by decide +kernel, by decide +kernel, by decide +kernel, by decide, by decide⟩

/-- The working hub of coll0 and the hub of its successor's port: another, or the same. -/
theorem hyp_CollectiveResults_sends :
    NetQuiet (collState gath gathMsg) ∧ (∀ u, Reaches (collState gath gathMsg) u) ∧ CanSend (collState gath gathMsg) gath ∧
    portHub (collState gath gathMsg) (succKey gath 1) ≠ hubFor (collState gath gathMsg) gath ∧
    portHub (collState gath gathMsg) (succKey gath 1) = hubFor (collState gath gathMsg) { gath with hub := some 0 } := by
  refine ⟨⟨fun r h => absurd (show r ∈ live.snet.reqs from h) (by simp [live, State.reset, Snet.reset]), rfl⟩, fun u => ?_, .inr (by decide +kernel), by decide +kernel,
    by decide +kernel⟩
  show (0#16).getLsbD _ = false
  simp

/-- No core is being moved; tags for the WRITEs and the segment; a kind that the schedule does not await, with a header that disagrees. -/
theorem hyp_CollectiveResults_rest :
    (coresMove (collState coll0 redMsg) 0 = false ∧ coresMove (collState gath gathMsg) 0 = false ∧ coresMove (collState norm0 normMsg) 0 = false) ∧
    (gath.own = false ∧ gatherObj (collState gath gathMsg) gath = some obj0 ∧
      FreeTags (collState gath gathMsg) (collUnit (collState gath gathMsg) gath) (1 + elemWords (collState gath gathMsg) obj0 fp32 2 [0x3F800000])) ∧
    (let b := collMsg0 { coll0 with op := 2 } 1 1 one32 one64 0 0
     AtMessage (collState coll0 b) (chanKey 7 4) b coll0 ∧ byteAt b 3 = 1 ∧ isReduce coll0 0 = true ∧ headFault coll0 b = some 52) ∧
    (let b := collMsg0 { gath with op := 1 } 0 1 one32 one64 0 0
     AtMessage (collState gath b) (chanKey 7 4) b gath ∧ byteAt b 3 = 0 ∧ isReduce gath 1 = false ∧ headFault gath b = some 52) ∧
    (let b := collMsg0 { gath with op := 1 } 4 1 one32 one64 0 0
     AtMessage (collState gath b) (chanKey 7 4) b gath ∧ byteAt b 3 = 4 ∧ gath.phase ≠ 8 ∧ gath.phase ≠ 9 ∧ headFault gath b = some 52) :=
  ⟨⟨by decide +kernel, by decide +kernel, by decide +kernel⟩, ⟨rfl, by decide +kernel, freeTags_of _ rfl rfl _ _ (by decide +kernel)⟩,
   ⟨at_message _ _ (by decide +kernel), by decide +kernel, by decide, by decide +kernel⟩,
   ⟨at_message _ _ (by decide +kernel), by decide +kernel, by decide, by decide +kernel⟩,
   ⟨at_message _ _ (by decide +kernel), by decide +kernel, by decide, by decide, by decide +kernel⟩⟩

theorem hyp_CollectiveResults_norms :
    AtMessage (collState norm0 normMsg) (chanKey 7 4) normMsg norm0 ∧ byteAt normMsg 3 = 4 ∧ (dueNow norm0)[0]? = some (0, 2, 0) ∧ headFault norm0 normMsg = none ∧
    sealFault fp64 false 3 normMsg = none ∧ 0 + 1 < (dueNow norm0).length :=
  ⟨at_message _ _ (by decide +kernel), by decide +kernel, by decide +kernel, by decide +kernel, by decide +kernel, by decide +kernel⟩

theorem hyp_CollectiveResults_aborts :
    (AtMessage (collState coll0 (abortMsg 7 0)) (chanKey 7 4) (abortMsg 7 0) coll0 ∧ byteAt (abortMsg 7 0) 3 = 3 ∧ byteAt (abortMsg 7 0) 44 ≠ 0x0A) ∧
    (byteAt (abortMsg 0x0A 1) 44 = 0x0A ∧ coll0.applied = false ∧ (fieldLE (abortMsg 0x0A 1) 48 8).testBit 33 = false) ∧
    (AtMessage (collState coll0 sealMsg) (chanKey 7 4) sealMsg coll0 ∧ byteAt sealMsg 3 = 2 ∧ coll0.hub = some (3 : Fin 4).val ∧
      reach (collState coll0 sealMsg) 3 = true ∧ (collState coll0 sealMsg).boot.policy = 0) ∧
    ({ collState coll0 redMsg with colls := [] } : State).colls = [] :=
  ⟨⟨at_message _ _ (by decide +kernel), by decide +kernel, by decide +kernel⟩, by decide +kernel,
   ⟨at_message _ _ (by decide +kernel), by decide +kernel, by decide, by decide +kernel, by decide⟩, rfl⟩

/-- An abort of the collective before, with CID 0, and one of this; a notice of this collective, and one of a collective that has ended and worked in hub E. -/
theorem hyp_CollectiveResults_late :
    staleAbort coll0 (abortMsg 7 0) = false ∧ staleAbort coll0 (collMsg0 { coll0 with cid := 0 } 3 0 [] 0 7 0) = true ∧ fieldLE sealMsg 0 2 = coll0.cid ∧
    (let s : State := { collState coll0 sealMsg with colls := [], sealHubs := put (noticeKey (chanKey 7 4) 1) 2 [] }
     s.colls = [] ∧ msgOn s (chanKey 7 4) = some sealMsg ∧ find? s.sealHubs (noticeKey (chanKey 7 4) (fieldLE sealMsg 0 2)) = some (2 : Fin 4).val ∧ reach s 2 = true ∧
       s.boot.policy = 0 ∧ ({ s with boot := { s.boot with policy := 1 } } : State).boot.policy ≠ 0 ∧ s.pwr.hubLift[(2 : Fin 4)] < 30) := by decide +kernel

/-! A segment at the last step that is not the phase's last message fills a whole segment of 4 MiB: two engines, three million elements, all zero. -/

def bigZeros : List Byte := List.replicate 4194304 0
def collBig : Coll :=
  { coll0 with group := [5, 7], count := 3000000, reads := [{ obj := 0, off := 0, len := 4194304, want := 4194304, parts := [(0, bigZeros)] }] }
def bigMsg : List Byte := collMsg0 collBig 0 1048576 bigZeros 0 0 0

theorem foldl_fixed {α β : Type} (f : α → β → α) (a : α) (b : β) (h : f a b = a) (n : Nat) : (List.replicate n b).foldl f a = a := by
  induction n with
  | zero => rfl
  | succ n ih => rw [List.replicate_succ, List.foldl_cons, h, ih]
theorem crc64_zeros (n : Nat) : crc64 (List.replicate n 0) = 0 := foldl_fixed _ _ _ (by decide) n
theorem ofLE_zeros (n : Nat) : ofLE (List.replicate n 0) = 0 := by
  induction n with
  | zero => rfl
  | succ n ih =>
    rw [List.replicate_succ, ofLE, ih]
    rfl
theorem unpack_zeros (w n m : Nat) : unpackBits w n (List.replicate m 0) = List.replicate n 0 := by
  simp only [unpackBits, ofLE_zeros, Nat.zero_div, Nat.zero_mod]
  exact List.eq_replicate_iff.2 ⟨by simp, by simp⟩
theorem accs_zeros (n i : Nat) : sealAccs fp32 i (List.replicate n 0) (Vector.replicate 16 0) = Vector.replicate 16 0 := by
  induction n generalizing i with
  | zero => rfl
  | succ n ih =>
    have h : addF fp64 0 0 0 (convF fp32 fp64 0 0 0) = 0 := by decide +kernel
    have e : ∀ k : Fin 16, (Vector.replicate 16 0).set k.val (addF fp64 0 0 ((Vector.replicate 16 0)[k]) (convF fp32 fp64 0 0 0)) = Vector.replicate 16 0 := by
      intro k
      ext j hj
      simp [h]
    rw [List.replicate_succ, sealAccs]
    exact (congrArg (sealAccs fp32 (i + 1) (List.replicate n 0)) (e ⟨i % 16, Nat.mod_lt _ (by decide)⟩)).trans (ih _)
theorem sum_zeros (n : Nat) : sealSum fp32 (List.replicate n 0) = 0 := by
  rw [sealSum, accs_zeros]
  decide +kernel

theorem hyp_CollectiveResults_last :
    AtMessage (collState collBig bigMsg) (chanKey 7 4) bigMsg collBig ∧ byteAt bigMsg 3 = 0 ∧ (dueNow collBig)[0]? = some (0, 0, 0) ∧ headFault collBig bigMsg = none ∧
    ringLen collBig 0 ≤ 0 + 2 ∧ collBig.press = false ∧ collBig.torus = false ∧ 0 + 1 < (dueNow collBig).length ∧
    (segOf fp32 (chunkRange collBig 0 0).2 0).2 = 1048576 :=
  ⟨at_message _ _ (by decide +kernel), by decide +kernel, by decide +kernel, by decide +kernel, by decide, by decide, by decide, by decide +kernel, by decide +kernel⟩

theorem range_whole (c : Coll) (n : Nat) (b : List Byte) (h : c.reads = [{ obj := 0, off := 0, len := n, want := n, parts := [(0, b)] }]) (hb : b.length = n) :
    rangeBytes c (0, 0, n) = some (joined [(0, b)]) := by
  simp [rangeBytes, h, isRange, hb]

theorem hyp_CollectiveResults_lastOwn : haveAll collBig (ownSpans collBig 0 0 1048576) = true := by
  have h : ownSpans collBig 0 0 1048576 = [(0, 0, 4194304)] := by decide +kernel
  have e : rangeBytes collBig (0, 0, 4194304) = some (joined [(0, bigZeros)]) := range_whole collBig 4194304 bigZeros rfl List.length_replicate
  rw [h, haveAll, List.all_cons, List.all_nil, e]
  rfl

theorem hyp_CollectiveResults_lastSeal : sealFault fp32 false 1048576 bigMsg = none := by
  have h1 : bigMsg.drop 64 = bigZeros := rfl
  have h2 : fieldLE bigMsg 12 4 = 1048576 := by decide +kernel
  have h3 : fieldLE bigMsg 16 8 = 0 := by
    show fieldLE (collMsg0 collBig 0 1048576 bigZeros 0 0 0) 16 8 = 0
    simp only [collMsg0, bigZeros, crc64_zeros]
    decide +kernel
  have h4 : fieldLE bigMsg 24 8 = 0 := by decide +kernel
  have h5 : bigZeros.length = 4194304 := List.length_replicate
  have h6 : crc64 bigZeros = 0 := crc64_zeros _
  have h7 : unpackBits fp32.width 1048576 bigZeros = List.replicate 1048576 0 := unpack_zeros _ _ _
  have h8 : sumOk fp32 false (fieldLE bigMsg 45 1 % 2 == 1) (List.replicate 1048576 0) 0 = true := by
    have e : (List.replicate 1048576 0).map (magOf fp32) = List.replicate 1048576 0 := by
      rw [List.map_replicate]; rfl
    simp only [sumOk, e, sum_zeros, List.length_replicate]
    decide +kernel
  unfold sealFault
  rw [h1]
  simp only [h2, h3, h4, h5, h6, h7, h8]
  decide

/-! ## Hypotheses that are met: starts, re-admission, sideband, commands that touch no tile -/

/-- A start at the end of a stage, nothing found. -/
def found0 (ok : Bool) : StageFound := { ok := ok, off := [11], culls := [], xmap := [], repairs := [], ratings := [], passed := [], inputOk := true }
def atStage (n w : Nat) : State := { live with boot := { Boot.reset with stage := n, wait := w, topoAt := 0 } }

theorem hyp_StartResults :
    live.module.running = true ∧ State.reset.module.running = false ∧ (44999 < 45000 ∧ 59000 < 59001) ∧
    ({ State.reset with module := { Module.reset with standby := false } } : State).module.standby = false ∧
    (State.reset.module.running = false ∧ State.reset.module.standby = true) ∧
    ((atStage 1 0).boot.stage = 1 ∧ (atStage 1 0).sb.state ≠ 1 ∧ ({ atStage 1 0 with sb := { live.sb with state := 1 } } : State).sb.state = 1) ∧
    isOpen (atStage 2 0) mgmtCode = true ∧ ((found0 true).ok = true ∧ (found0 false).ok = false ∧ (atStage 2 0).module.hrails.getLsbD 3 = true) ∧
    (let s := { atStage 2 0 with parcels := (Vector.replicate 12 { Parcel.reset with st := .testing }).set 10 Parcel.reset }
     s.parcels[(10 : Fin 12)].st = .off ∧ s.parcels[(11 : Fin 12)].st = .testing ∧ 11 ∈ (found0 true).off ∧ s.parcels[(0 : Fin 12)].st = .testing ∧
       0 ∉ (found0 true).off ∧ ∀ e ∈ s.boot.culls ++ (found0 true).culls, e.2.2 ≠ 2) ∧
    (atStage 3 0).boot.stage = 3 ∧ ((atStage 4 0).boot.path ≠ 2 ∧ (atStage 4 0).boot.fallback ≠ 5) ∧
    (let s := { running with boot := (atStage 5 2).boot }
     s.boot.stage = 5 ∧ s.boot.path ≠ 2 ∧ s.sec.fw.isSome = true) ∧
    ((atStage 6 0).pwr.flow = none ∧ forcedNow (atStage 6 0) = false ∧ (atStage 6 0).boot.topo = none) ∧
    ((atStage 7 3).boot.wait ≠ 5 ∧ (atStage 7 3).boot.topo = none) := by decide +kernel

/-- The topology check: as expected (no port is named), or with a port that is not up; 2 s and 30 s waited. -/
def topoWith (peer : Nat) : State :=
  { running with time := ms 30000, boot := { (atStage 7 4).boot with topo := some (List.replicate 24 { peer := peer, port := 0xFF, minw := 0, cab := 0 }) },
                 edge := { live.edge with engineId := 5 } }
theorem hyp_StartResults_waits :
    (let s : State := { atStage 1 1 with sb := { live.sb with state := 1 }, time := ms 30000 }
     s.boot.wait = 1 ∧ s.sb.state = 1 ∧ s.boot.topoAt + ms 30000 ≤ s.time) ∧
    ((topoWith 0xFD).boot.stage = 7 ∧ (topoWith 0xFD).boot.wait = 4 ∧ (topoWith 0xFD).boot.topoAt + ms 2000 ≤ (topoWith 0xFD).time ∧
      (∀ n : Fin 24, (topoClasses (topoWith 0xFD))[n.val]? = some 0) ∧ mayReady (topoWith 0xFD) = true ∧ (topoWith 0xFD).boot.ready = false) ∧
    (∃ c ∈ topoClasses (topoWith 6), c ≠ 0) := by decide +kernel

/-- READMIT of a kind and number. -/
def adm (kind i : Nat) : List (Nat × Nat × Nat) := [(0, 1, 0x44), (16, 1, kind), (17, 1, i)]
def offParcel (t : Nat) : State :=
  let s := liveD (adm 1 0)
  { s with parcels := s.parcels.set 0 Parcel.reset, doms := (parcelCode 0, Dom.off) :: s.doms,
           pwr := { s.pwr with sens := { field := [t], hub := [], phy := [] } } }
def readmitS (kind i stage : Nat) : State :=
  { live with
    boot := { live.boot with readmits := [{ desc := ref0, kind := kind, index := i, retest := false, stage := stage, culled := 0, pooled := 0 }] },
    parcels := live.parcels.set 0 { live.parcels[(0 : Fin 12)] with st := .testing } }

theorem hyp_ReadmissionResults :
    isOpen live mgmtCode = true ∧
    ((readmitChecks (desc (adm 1 11))).find? (·.1) = none ∧ inService (liveD (adm 1 11)) 1 11 = true) ∧
    ((readmitChecks (desc (adm 2 3))).find? (·.1) = none ∧ (readmitChecks (desc (adm 3 7))).find? (·.1) = none) ∧
    (inService (offParcel 100) 1 0 = false ∧ (offParcel 100).pwr.flow = none ∧ (offParcel 100).placing = [] ∧ (offParcel 100).boot.readmits = [] ∧
      stillClosing (offParcel 100) 1 0 = false) ∧
    ((readmitS 1 0 6).boot.readmits.length = 1 ∧ (readmitS 1 0 6).parcels[(0 : Fin 12)].st = .testing ∧ (readmitS 1 0 6).pwr.flow = none ∧ 6 < 7 ∧
      (readmitS 1 0 6).snet.bypass = [] ∧ (readmitS 1 0 6).boot.culls = [] ∧ (readmitS 2 3 1).marks = []) ∧
    ((readmitS 2 3 1).boot.readmits.length = 1 ∧ (readmitS 3 7 1).boot.readmits.length = 1) := by decide +kernel

theorem hyp_ReadmissionResults_hot :
    (unitTemp (offParcel 360) 1 0 ≠ 0x8000 ∧ 360 ≤ unitTemp (offParcel 360) 1 0) ∧ unitTemp (offParcel 359) 1 0 < 360 := by decide +kernel

theorem hyp_ReadmissionResults_starts : Starts (liveD (adm 1 11)) 0x44 ref0 (desc (adm 1 11)) ∧ Starts (offParcel 100) 0x44 ref0 (desc (adm 1 0)) :=
  ⟨starts_of _ _ _ (by decide +kernel), starts_of _ _ _ (by decide +kernel)⟩

/-- A parameter block of 96 bytes for this module, without sections, in the sideband buffer. -/
def block0 : List Byte :=
  [0x58, 0x50, 0x52, 0x4D, 1, 0, 0, 0, 96, 0, 0, 0, 0, 0, 0, 0] ++ snDigest (atStage 1 0) ++ zeros 24 ++ sha384 []
theorem hyp_SidebandResults_block :
    blockFault (atStage 1 0) block0 = none ∧ readBytes (writeBytes [] 0 block0) 0 (max 96 (min paramMax (ofLE (readBytes (writeBytes [] 0 block0) 8 4)))) = block0 := by
  decide +kernel

theorem hyp_SidebandResults :
    (sbTakes (atStage 1 0) = true ∧ sbTakes live = false) ∧ (List.replicate 256 (1 : Byte) ≠ [] ∧ (List.replicate 256 (1 : Byte)).length ≤ 256 ∧ 2096896 + 256 ≤ 2097152) ∧
    Memory.wf (atStage 1 0).sb.bytes = true ∧ blockFault (atStage 1 0) (readBytes (atStage 1 0).sb.bytes 0 96) = some 1 ∧
    (live.module.standby = true ∧ live.module.fatal = none ∧ (live.module.sn.toList).length = 16) ∧
    (live.sec.jtag = false ∧ ({ live with sec := { live.sec with jtag := true } } : State).sec.jtag = true) ∧
    ({ live with module := { live.module with fatal := some (blankRec live 0x22 3) } } : State).module.fatal.isSome = true ∧
    ({ live with module := { live.module with standby := false } } : State).module.standby = false := by decide +kernel

/-- The commands that touch no tile: the first and the last of them, one that checks words of a tile, and one that is neither. -/
theorem hyp_CommandsTouchNoTile : touchesNoTile (.ageingScan []) = true ∧ touchesNoTile (.winReq 0) = true ∧ checksTiles (.writeAck (resp 0x22)) = true ∧
    touchesNoTile (.taskOwnBeat c0) = false ∧ checksTiles (.taskOwnBeat c0) = false := by decide

/-! ## Single steps, with results from the manual's tables and worked examples -/

/-- The task after an instruction. -/
def task0 (i : Instr) (s : State) : Option Machine.Task := after (exec i s) fun t => taskAt t k0
/-- Register r1 after an instruction. -/
def r1 (i : Instr) (s : State) : Option Word := (task0 i s).map fun x => rdG x 1

theorem test_add_wraps : r1 (.add k0 g0 1 2 3) regs0 = some 6 := by decide
theorem test_sub : r1 (.sub k0 g0 1 2 4) regs0 = some (7 - 64) := by decide
theorem test_sra_sign : r1 (.sra k0 g0 1 3 2) regs0 = some 0xFFFFFFFF := by decide
theorem test_shr : r1 (.shr k0 g0 1 3 2) regs0 = some 0x01FFFFFF := by decide
theorem test_shl_mod32 : r1 (.shl k0 g0 1 2 3) regs0 = some 0x80000000 := by decide
theorem test_mul_low : r1 (.mul k0 g0 1 3 3) regs0 = some 1 := by decide
theorem test_mulhu_high : r1 (.mulhu k0 g0 1 3 3) regs0 = some 0xFFFFFFFE := by decide
theorem test_min_signed : r1 (.min_ k0 g0 1 2 3) regs0 = some 0xFFFFFFFF := by decide
theorem test_minu_unsigned : r1 (.minu k0 g0 1 2 3) regs0 = some 7 := by decide
theorem test_addi_sign : r1 (.addi k0 g0 1 2 0x1FFF) regs0 = some 6 := by decide
theorem test_andi_zero : r1 (.andi k0 g0 1 3 0x1FFF) regs0 = some 0x1FFF := by decide
theorem test_lih_keeps_low : r1 (.lih k0 g0 1 0x8001) (liveK fun t => { t with g := t.g.set 1 0xABCD1234 }) = some 0x80011234 := by decide
theorem test_clt_signed : (task0 (.clt k0 g0 2 3 2) regs0).map (fun x => rdP x 2) = some true := by decide
theorem test_cltu_unsigned : (task0 (.cltu k0 g0 2 3 2) regs0).map (fun x => rdP x 2) = some false := by decide
theorem test_p0_discards : (task0 (.ceq k0 g0 0 2 3) regs0).map (fun x => rdP x 0) = some true := by decide
theorem test_br_back : (task0 (.br k0 g0 0x3FFFE) regs0).map (fun x => (x.pc, x.skip)) = some (0x1FFE, 1) := by decide
theorem test_guarded_br_faults : (task0 (.br k0 { gp := 0, gs := 0 } 4) (liveK fun t => { t with halted := true })).map (·.pc) = some 0 := by decide
theorem test_brr_outside : (task0 (.brr k0 g0 2) regs0).map (·.faulted) = some true := by decide
theorem test_loop_third : (task0 (.loop k0 g0 1 1) (liveK fun t => { t with loops := List.replicate 2 { first := 0, last := 9, left := 1 } })).map (·.faulted) = some true := by
  decide
theorem test_seg_in_seg : (task0 (.seg k0 g0 4) inSeg).map (·.faulted) = some true := by decide
theorem test_predicate_upper_bits : (task0 (.ceq k0 g0 4 2 3) regs0).map (·.faulted) = some true := by decide
theorem test_vext_lane16 : (task0 (.vext k0 g0 0 1 16 0) regs0).map (·.faulted) = some true := by decide
theorem test_other_owner : (task0 (.mclr k0 g0) (liveT fun x => { x with mown := 1 })).map (·.faulted) = some true := by decide
theorem test_ldw_act : after (exec (.ldw k0 g0 1 4 8) regs0) (fun t => (tileAt t c0).acts.map fun a => (a.due, a.act)) = some [(17, .load 0 1 72 .w)] := by decide
theorem test_load_sign : after (.next (runAct c0 .engine (.load 0 1 2 .h) (liveT fun x => { x with sram := [(2, 0x34), (3, 0x80)] }))) (fun t => rdG (taskAt t k0) 1) =
    some 0xFFFF8034 := by decide
theorem test_store_low_first : (tileAt (runAct c0 .engine (.store 8 2 0xA1B2C3D4) live) c0).sram = [(8, 0xD4), (9, 0xC3)] := by decide
theorem test_vbcast : (task0 (.vbcast k0 g0 1 2 1) regs0).map (fun x => ((rdV x 1).extractLsb' 496 16, x.vReady[i3 1])) = some (7, 18) := by decide +kernel

/-- A lane that holds the sum 2 of the cancellation example: A = 2^65 with W = 128. -/
theorem test_mrd_cancellation :
    after (exec (.mrd k0 g0 0 0 0 0) (liveT fun x => { x with lanes := x.lanes.set 0 { Lane.start with a := BitVec.ofNat 128 (2 ^ 65) } }))
      (fun t => (rdV (taskAt t k0) 0).extractLsb' 0 32) = some 0x40000000 := by decide +kernel
/-- The stochastic example: 1 + 2^-30 rounds away in BF16 from the draw 4,294,966,784 on. -/
theorem test_stochastic_away : roundTo bf16 3 4294966784 (.fin false (2 ^ 30 + 1) (-30)) = 0x3F81 := by decide +kernel
theorem test_stochastic_toward : roundTo bf16 3 4294966783 (.fin false (2 ^ 30 + 1) (-30)) = 0x3F80 := by decide +kernel

/-- Bringing up SQ5 and CQ5: the CQ first, then the SQ, then the doorbell; the SQ alone is ignored. -/
def cq5 : State := liveH fun h => { h with cqs := h.cqs.set 5 { Cq.reset with en := true, log2 := 10 } }
def sq5 : State := { cq5 with hostif := { cq5.hostif with sqs := cq5.hostif.sqs.set 5 { Sq.reset with en := true, log2 := 10, cq := 5, weight := 2 } } }
theorem test_cq5 : after (exec (.cqEnable 5 0x8000450A) live) (fun t => ((cqOf t 5).en, (cqOf t 5).log2, (cqOf t 5).vec, (cqOf t 5).nudgeEn)) = some (true, 10, 5, true) := by
  decide +kernel
theorem test_sq5 : after (exec (.sqEnable 5 0x8002050A) cq5) (fun t => ((sqOf t 5).en, (sqOf t 5).log2, (sqOf t 5).cq, (sqOf t 5).weight)) = some (true, 10, 5, 2) := by
  decide +kernel
theorem test_sq5_first : after (exec (.sqEnable 5 0x8002050A) live) (fun t => (sqOf t 5).en) = some false := by decide +kernel
theorem test_doorbell : after (exec (.sqDoorbell 5 1023) sq5) (fun t => ((sqOf t 5).tail, (sqOf t 5).dbErr)) = some (1023, false) := by decide +kernel
theorem test_doorbell_disabled : after (exec (.sqDoorbell 5 1) live) (fun t => (sqOf t 5).dbErr) = some true := by decide +kernel

/-- The flagged last packet arrives first: with p3 and p2 taken, p1 completes the message of 2,560 bytes. -/
def msgP1 : Packet := { msgTo4 with opc := 3, dst := hubEp 2 3, tag := 0x2A1, first := true, last := false, plen := 128, countOff := 320, payload := List.replicate 1024 0 }
def msgTwo : State :=
  { live with snet := { live.snet with msgs := [{ dst := hubEp 2 3, src := ringUnit, tag := 0x2A1, opc := 3, total := none, got := 1536, offs := [2048, 1024], parts := [], refuse := none, epoch := 0, last := 0 }] } }
theorem test_msg_completes : after (exec (.msg msgP1) msgTwo) (fun t => (t.snet.msgs.length, t.out.length)) = some (0, 1) := by decide +kernel

theorem test_tick : after (step live) (fun t => (t.beats.cbn, t.beats.wrb, t.time - live.time)) = some (17, 17, period 7) := by decide +kernel
theorem test_hold_beat : after (exec .holdBeat holding) (fun t => (t.beats.cbn, t.beats.wrb)) = some (17, 16) := by decide +kernel
theorem test_front_runs : after (step { live with pending := [.nop k0 g0, .opEvaluate] }) (fun t => (t.pending, (taskAt t k0).pc)) = some ([.opEvaluate], 1) := by
  decide +kernel
theorem test_overcurrent : after (exec (.fastOvercurrent 3) live) (fun t => (t.pwr.fast, t.pwr.cmds)) = some ([3], [{ at_ := 80, h := 56 }]) := by decide +kernel
theorem test_ceil : after (exec (.ceil 3) live) (fun t => t.pwr.ceil) = some 3 := by decide +kernel
theorem test_attn : after (exec (.attn 0x05) (liveH fun h => { h with events := 0x0F })) (fun t => t.hostif.events) = some 0x0A := by decide +kernel
theorem test_nop_ok : after (exec (.nopDescriptor ref0) (liveD [])) (fun t => (descOf t ref0).bind fun x => x.outc.map fun o => (o.status, o.detail)) = some (some (0, 0)) := by
  decide +kernel
theorem test_mem_write_reads_host : after (exec (.memWrite ref0) (liveX mwr)) (fun t => t.hostif.reads.map (·.len)) = some [64] := by decide +kernel
theorem test_query : after (exec (.query ref0) (liveD (ctl 0 0x100))) (fun t => (descOf t ref0).bind fun x => x.outc.map (·.status)) = some (some 0) := by decide +kernel
theorem test_perst : after (exec .perstAssert live) (fun t => ((dom t hostifCode).st, (dom t hostifCode).cause, t.hostif.link)) = some (.closing, 1, false) := by decide +kernel
theorem test_port_disable : after (exec (.portDisable 0 0) (liveP upPort)) (fun t => ((portOf t 0).st, (portOf t 0).width)) = some (.disabled, 0) := by decide +kernel
theorem test_cold : after (exec .engineResetAssert live) (fun t => (t.module.running, t.boot.stage, t.tiles.length)) = some (false, 0, 0) := by decide +kernel
theorem test_start : after (exec (.start_ 46000) State.reset) (fun t => (t.module.running, t.boot.stage)) = some (true, 1) := by decide +kernel
theorem test_start_low : after (exec (.start_ 45999) State.reset) (fun t => t.module.running) = some false := by decide +kernel
theorem test_status : after (exec .status State.reset) (fun t => t.out.length) = some 1 := by decide +kernel
theorem test_narrow_write : after (exec (.narrowAccess c0 .sram) queuedWrite) (fun t => (tileAt t c0).sram.length) = some 8 := by decide +kernel
theorem test_router_idle : after (exec (.sequencerBeat c0) (routed 0 [])) (fun t => (t.links.length, (tileAt t c0).router.ran)) = some (0, some 16) := by decide +kernel
theorem test_peer_down : after (exec (.peerDown ref0) (edgeS pdown)) (fun t => (peerOf t 127).down) = some (some 3) := by decide +kernel
theorem test_reduce_forwards : after (exec (.reduceSegment 7 4) (collState coll0 redMsg)) (fun t => (echan t (chanKey 6 4)).tx.length) = some 1 := by decide +kernel

/-- SHA-384 of "abc" (FIPS 180-4's example; R220, R475). -/
theorem test_sha384 : ofBE (sha384 [0x61, 0x62, 0x63]) =
    0xcb00753f45a35e8bb5a03d699ac65007272c32ab0eded1631a8b605a43ff5bed8086072ba1e7cc2358baeca134c825a7 := by decide +kernel
/-- The worked example of 07_sparse_weights.md: a row of 250 entries with ROWSPLIT 88 splits into pieces of 84, 83 and 83 (R216). -/
theorem test_row_split : (pieceCount 250 88, pieceSizes 250 3) = (3, [84, 83, 83]) := by decide
/-- The pins of R514 to R520 without the standby supply, in reset, and of a running module with its first port idle. -/
theorem test_pins :
    (pinNow { live with module := { live.module with standby := false } } .htx, pinNow State.reset .htx, pinNow State.reset .tmClk, pinNow live (.cblPwr 0),
      pinNow live (.id3v3 0), pinNow live .present) = (.highZ, .idle, .low, .off, .off, .ground) := by decide +kernel
theorem test_edge_send : after (exec (.edgeSend ref0) (edgeS esend)) (fun t => ((echan t 1539).tx.length, t.hostif.reads.length)) = some (1, 1) := by decide +kernel
theorem test_edge_recv : after (exec (.edgeRecv ref0) (edgeS erecv)) (fun t => ((echan t 1539).rx.length, (echan t 1539).posted)) = some (1, 1) := by decide +kernel
theorem test_peer_up : after (exec (.peerUp ref0) (edgeS pup)) (fun t => ((peerOf t 6).down, (peerOf t 6).inc)) = some (none, 15) := by decide +kernel
theorem test_transport_timeout : after (exec (.transportTimeout 6) (chanS [] pkt0 sending peer0)) (fun t => (peerOf t 6).down) = some (some 1) := by decide +kernel
theorem test_heartbeat_lost : after (exec (.heartbeatLost 6) (chanS [] pkt0 sending peer0)) (fun t => (peerOf t 6).down) = some (some 2) := by decide +kernel

end Sys2Proof.Tests
end

section
/-! Hold beats (R43, R163, R164, R167, R229): a core instruction is an own beat of its task, no own beat is ready in a hold beat, and passing the
hold beat changes only CBN, the hold counts, and the engine time with its watches. -/

namespace Sys2Proof.Machine

/-! ## Own beats in a hold beat (R43) -/

theorem coreRuns_of_holdNow {s : State} (h : holdNow s = true) (t : TileAt) : coreRuns s t = false := by
  simp [coreRuns, h]

theorem ownReady_of_holdNow {s : State} (h : holdNow s = true) (k : TaskAt) : ownReady s k = false := by
  simp [ownReady, coreRuns_of_holdNow h]

theorem ownBeatWith_of_holdNow {s : State} (h : holdNow s = true) (chk : Bool) (k : TaskAt) (act : State → State) :
    ownBeatWith chk k act s = s := by
  simp [ownBeatWith, ownReady_of_holdNow h]

/-- Scalar, vector, matrix, memory and stream instructions differ in plan and effect only: each runs by `ownBeat`. -/
theorem coreExec_ownBeatWith {i : Instr} {k : TaskAt} (h : i.task = some k) (s : State) :
    ∃ act, coreExec i s = .next (ownBeatWith true k act s) := by
  cases i <;> cases h <;> exact ⟨_, rfl⟩

theorem coreExec_of_task_none {i : Instr} (h : i.task = none) (s : State) : coreExec i s = .next s := by
  cases i <;> simp only [Instr.task, reduceCtorEq] at h <;> rfl

/-- As a command of its own, a core instruction does what it does when it is fetched. -/
theorem exec_eq_coreExec {i : Instr} {k : TaskAt} (h : i.task = some k) (s : State) : exec i s = coreExec i s := by
  cases i <;> cases h <;> rfl

theorem coreExec_of_holdNow {s : State} (h : holdNow s = true) (i : Instr) : coreExec i s = .next s := by
  cases hi : i.task with
  | none => exact coreExec_of_task_none hi s
  | some k =>
    obtain ⟨act, e⟩ := coreExec_ownBeatWith hi s
    rw [e, ownBeatWith_of_holdNow h]

/-- Whatever the pattern names and the loop buffer holds, the own beat leaves the state alone: a code miss, an undecodable word and an instruction
each act in an own beat. -/
theorem execTaskOwnBeat_of_holdNow {s : State} (h : holdNow s = true) (t : TileAt) : execTaskOwnBeat t s = .next s := by
  simp only [execTaskOwnBeat, ownBeatWith_of_holdNow h, coreExec_of_holdNow h]
  repeat' split
  all_goals rfl

/-! ## Passing a hold beat (R163, R167, R229) -/

theorem prog?_eachRunning (f : Prog → Prog) (s : State) (k : Fin 8) :
    prog? (eachRunning f s) k = (prog? s k).map fun g => if progRuns s g then f g else g := by
  simp only [prog?, eachRunning, Fin.getElem_fin, Vector.getElem_map]
  cases s.progs[k.val] <;> rfl

@[simp] theorem holdBeat_tiles (s : State) : (holdBeat s).tiles = s.tiles := rfl
@[simp] theorem holdBeat_links (s : State) : (holdBeat s).links = s.links := rfl
@[simp] theorem holdBeat_time (s : State) : (holdBeat s).time = s.time := rfl
@[simp] theorem holdBeat_beats (s : State) : (holdBeat s).beats = { s.beats with cbn := s.beats.cbn + 1 } := rfl

/-- R229: a program counts the hold beats between its start and its stop. -/
theorem prog?_holdBeat (s : State) (k : Fin 8) :
    prog? (holdBeat s) k = (prog? s k).map fun g => if progRuns s g then { g with holds := g.holds + 1, winHolds := g.winHolds + 1 } else g :=
  prog?_eachRunning _ s k

@[simp] theorem passTime_tiles (dt : Nat) (s : State) : (passTime dt s).tiles = s.tiles := rfl
@[simp] theorem passTime_links (dt : Nat) (s : State) : (passTime dt s).links = s.links := rfl
@[simp] theorem passTime_time (dt : Nat) (s : State) : (passTime dt s).time = s.time + dt := rfl
@[simp] theorem passTime_beats (dt : Nat) (s : State) : (passTime dt s).beats = s.beats := rfl
@[simp] theorem prog?_passTime (dt : Nat) (s : State) (k : Fin 8) : prog? (passTime dt s) k = prog? s k := rfl

theorem exec_holdBeat (s : State) :
    exec .holdBeat s = .next (if anyRuns s && holdNow s then passTime (period s.pwr.eff) (holdBeat s) else s) := rfl

/-- HOLD_BEAT, due or not, moves on no program beat, no tile and no word in flight. -/
theorem exec_holdBeat_frame (s : State) :
    ∃ t, exec .holdBeat s = .next t ∧ t.beats.wrb = s.beats.wrb ∧ t.tiles = s.tiles ∧ t.links = s.links := by
  refine ⟨_, exec_holdBeat s, ?_⟩
  split <;> simp

theorem exec_holdBeat_due {s : State} (hr : anyRuns s = true) (hh : holdNow s = true) :
    exec .holdBeat s = .next (passTime (period s.pwr.eff) (holdBeat s)) := by
  simp [exec_holdBeat, hr, hh]

/-! ## O28 -/

/-- Settles O28: every core instruction acts in an own beat, which is not ready in a hold beat, and HOLD_BEAT writes only CBN, the hold counts, and
the engine time with its watches. -/
theorem holdBeatsStopTheCores : Obligations.HoldBeatsStopTheCores := by
  unfold Obligations.HoldBeatsStopTheCores
  refine ⟨fun s i k hh hi => ?_, fun s t hh => execTaskOwnBeat_of_holdNow hh t, exec_holdBeat_frame,
    fun s hr hh => ⟨_, exec_holdBeat_due hr hh, by simp, by simp, by simp, by simp, fun k => ?_⟩⟩
  · rw [exec_eq_coreExec hi, coreExec_of_holdNow hh]
  · rw [prog?_passTime, prog?_holdBeat]

end Sys2Proof.Machine
end

section
/-! ITER (R63, R247, R248): the effects of an issued ITER are counts of the program in whose slot the tile is, and latches scheduled for the
steering terms; neither touches the issuing task, which moves on as after any instruction that writes no register. -/

namespace Sys2Proof.Machine

/-! ## A due instruction without operands -/

@[simp] theorem updTask_updTask (k : TaskAt) (f h : Task → Task) (s : State) :
    updTask k f (updTask k h s) = updTask k (fun x => f (h x)) s := by
  simp [updTask]

/-- The state in which an instruction without operands has its effect: its own beat is counted and its task has moved on (R44, R54). -/
def passedOn (k : TaskAt) (s : State) : State :=
  updTask k (fun x => advFrom (taskAt s k).pc (scoreboard {} s.beats.wrb x)) (updTile k.tile (claim {}) (countOwn k s))

@[simp] theorem passedOn_beats (k : TaskAt) (s : State) : (passedOn k s).beats = s.beats := rfl
@[simp] theorem prog?_passedOn (k : TaskAt) (s : State) (j : Fin 8) : prog? (passedOn k s) j = prog? s j := rfl

theorem taskFrame_passedOn (k : TaskAt) (s : State) : TaskFrame s (passedOn k s) k := by
  have h := taskFrame_goes (s := s) (k := k) {} rfl rfl (fun x => advFrom (taskAt s k).pc (scoreboard {} s.beats.wrb x)) id
  rwa [updTask_updTask] at h

@[simp] theorem taskAt_passedOn (k : TaskAt) (s : State) : taskAt (passedOn k s) k = (taskAt s k).stepped :=
  taskAt_goes s k {}

@[simp] theorem tileAt_passedOn_pslot (k : TaskAt) (s : State) : (tileAt (passedOn k s) k.tile).pslot = (tileAt s k.tile).pslot := by
  rw [(taskFrame_passedOn k s).tile]; rfl

theorem exec_iter_due {s : State} {k : TaskAt} {g : Guard} (hd : Due s k) (hg : Passes s k g) :
    exec (.iter k g) s = .next (iterEff k (passedOn k s)) :=
  congrArg Host.Outcome.next
    (ownBeat_goes hd _ g (fun _ => {}) _ (goes_plain hg rfl rfl (by simp) (by simp) (by simp) rfl rfl rfl rfl))

/-! ## What scheduling and counting leave alone -/

@[simp] theorem taskAt_schedule (k : TaskAt) (t : TileAt) (due : Nat) (early : Bool) (r : Reader) (a : Act) (s : State) :
    taskAt (schedule t due early r a s) k = taskAt s k := by
  by_cases h : k.tile = t
  · subst h; exact taskAt_updTile_of k _ s rfl
  · simp [taskAt, schedule, tileAt_updTile_ne h]

@[simp] theorem taskAt_updProg (k : TaskAt) (j : Fin 8) (f : Prog → Prog) (s : State) : taskAt (updProg j f s) k = taskAt s k := rfl

theorem prog?_updProg_self (k : Fin 8) (f : Prog → Prog) (s : State) : prog? (updProg k f s) k = (prog? s k).map f := by
  simp [prog?, updProg, setProg]

theorem prog?_updProg_ne {j k : Fin 8} (h : j ≠ k) (f : Prog → Prog) (s : State) : prog? (updProg k f s) j = prog? s j := by
  have hv : k.val ≠ j.val := fun e => h (Fin.ext e.symm)
  simp [prog?, updProg, setProg, hv]

/-! ## The counters (R247, R248) -/

/-- The first marker ITER closes the fill. An ITER after a restart also latches BASE_ITERS and BASE_BEATS, which are none of these counters. -/
theorem iterCount_first {p : Prog} (h : p.firstM = none) (b : Nat) :
    (iterCount b p).firstM = some b ∧ (iterCount b p).iters = p.iters ∧ (iterCount b p).beatsRun = p.beatsRun := by
  cases hr : p.restartM <;> simp [iterCount, h, hr]

theorem iterCount_later {p : Prog} {f : Nat} (h : p.firstM = some f) (b : Nat) :
    (iterCount b p).firstM = some f ∧ (iterCount b p).iters = (p.iters + 1) % 2 ^ 64 ∧ (iterCount b p).beatsRun = (b - f) % 2 ^ 64 := by
  cases hr : p.restartM <;> simp [iterCount, h, hr]

/-! ## The effect of ITER -/

theorem isMarker_iff {s : State} {k : TaskAt} {p : Prog} (hp : prog? s (tileAt s k.tile).pslot = some p) :
    isMarker s k = true ↔ p.place.mkTile = k.tile ∧ p.place.mkTask = k.task := by
  simp [isMarker, hp]

theorem iterEff_of_not_marker {s : State} {k : TaskAt} (h : ¬ isMarker s k = true) : iterEff k s = s := by
  cases hp : prog? s (tileAt s k.tile).pslot <;> simp [iterEff, hp, h]

/-- A marker ITER counts in its program; the latches of the steering terms (R250) change neither a task nor a program. -/
theorem iterEff_of_marker {s : State} {k : TaskAt} {p : Prog} (hp : prog? s (tileAt s k.tile).pslot = some p) (h : isMarker s k = true) :
    taskAt (iterEff k s) k = taskAt s k ∧
      (iterEff k s).progs = (updProg (tileAt s k.tile).pslot (iterCount (progBeat s p)) s).progs := by
  simp only [iterEff, hp, h, if_true]
  refine List.foldlRecOn (motive := fun t => taskAt t k = taskAt s k ∧ t.progs = _) _ _ ⟨taskAt_updProg .., rfl⟩ ?_
  rintro t ⟨ht, hq⟩ e -
  exact ⟨(taskAt_schedule ..).trans ht, hq⟩

/-! ## O23 -/

/-- Settles O23: an ITER that is due acts on the state in which its task has moved on, and only the marker's effect is more than that state. -/
theorem iterCountsAtMarker : Obligations.IterCountsAtMarker := by
  unfold Obligations.IterCountsAtMarker
  intro k g s p hd hg hp
  have hp' : prog? (passedOn k s) (tileAt (passedOn k s) k.tile).pslot = some p := by simpa using hp
  refine ⟨fun hother => ⟨passedOn k s, ?_, taskFrame_passedOn k s, taskAt_passedOn k s⟩, fun htile htask => ?_⟩
  · have hm : ¬ isMarker (passedOn k s) k = true := fun hm =>
      hother.elim (· ((isMarker_iff hp').mp hm).1) (· ((isMarker_iff hp').mp hm).2)
    rw [exec_iter_due hd hg, iterEff_of_not_marker hm]
  · obtain ⟨htask', hprogs⟩ := iterEff_of_marker hp' ((isMarker_iff hp').mpr ⟨htile, htask⟩)
    rw [tileAt_passedOn_pslot] at hprogs
    have hprog (j : Fin 8) : prog? (iterEff k (passedOn k s)) j =
        prog? (updProg (tileAt s k.tile).pslot (iterCount (progBeat s p)) (passedOn k s)) j :=
      congrArg (fun v => v[j]) hprogs
    refine ⟨_, iterCount (progBeat s p) p, exec_iter_due hd hg, by rw [htask', taskAt_passedOn], ?_,
      fun hf => iterCount_first hf _, fun f hf => iterCount_later hf _, fun j hj => ?_⟩
    · rw [hprog, prog?_updProg_self, prog?_passedOn, hp]; rfl
    · rw [hprog, prog?_updProg_ne hj, prog?_passedOn]

end Sys2Proof.Machine
end

section
/-! Fuses (R491, R494): at READY the running firmware may raise the anti-rollback counter and revoke key slots, and only three commands can bring
a start to READY. Every other command, cold reset and loss of power among them, keeps each fuse as it is. So no step restores one. -/

namespace Sys2Proof.Machine

/-- Only the end of a stage, of the topology wait, or of TOPOLOGY_SET's host read can bring a start to READY (R474) and so blow fuses; every other
command keeps them. -/
theorem exec_forward (i : Instr) (s : State) : NextForward s (exec i s) := by
  cases i with
  | stageEnd f => exact execStageEnd_forward f s
  | topologyWaitTimeout => exact execTopologyWaitTimeout_forward s
  | hostReadCompletion tag rd => exact execHostReadCompletion_forward tag rd s
  | _ => exact nextForward_of_kept (by simp [exec])

theorem withTail_of_pending_nil {s : State} (h : s.pending = []) : { s with pending := s.pending.tail } = s := by
  rw [h, List.tail_nil, ← h]

/-- A step takes the front command off the queue, and from the state with the queue's rest the fuses move only forward. -/
theorem step_forward (s : State) : NextForward { s with pending := s.pending.tail } (step s) := by
  unfold step
  split
  case _ hp =>
    rw [withTail_of_pending_nil hp]
    exact forward_of_kept (tick_kept s)
  case _ c rest hp =>
    rw [hp]
    exact exec_forward c _

/-- Fuses and fused names are no part of the queue. -/
theorem fusesForward_of_withPending {s t : State} {l : List Instr} (h : FusesForward { s with pending := l } t) : FusesForward s t :=
  ⟨h.keys, h.secret, h.names, h.counter, h.revoked⟩

/-! ## O3 -/

/-- Settles O3: the step moves the fuses only forward from the state with the queue's rest, whose fuses are those of the state itself. -/
theorem fusesNeverRestored : Obligations.FusesNeverRestored := by
  unfold Obligations.FusesNeverRestored
  intro s t ht
  have hstep : NextForward { s with pending := s.pending.tail } (.next t) := ht ▸ step_forward s
  obtain ⟨-, hfuses⟩ := hstep
  exact fusesForward_of_withPending hfuses

end Sys2Proof.Machine
end
